-- ==== Sys2Proof/Word.lean ====
section
/-! DEFINITION. Word.lean: the word types of the Methes M3 (01 R11, R18, R22) and their plainest readings. -/

namespace Sys2Proof

/-- A byte. -/
abbrev Byte := BitVec 8

/-- A register of one lane, an `s` register or a predicate register: 32 bits (R75). -/
abbrev Word := BitVec 32

/-- A program counter, an address or a register pair: 64 bits. -/
abbrev Quad := BitVec 64

end Sys2Proof
end

