-- ==== Sys2Proof/Config.lean ====
section
/-! DEFINITION. Config.lean: what the device fixes (00 R1 to R8) and the free values, which the spec leaves
open: opaque constants that nothing can evaluate. -/

namespace Sys2Proof.Config

/-- Clusters of the device (R3, R5). -/
def clusters : Nat := 32

/-- Cores of the device (R3, R5). -/
def cores : Nat := 128

/-- Which of two neighbours a special function takes, should its enclosure ever straddle a rounding boundary
(log entry 10). -/
opaque specialTie : Nat → Nat → Bool

/-- Whether a read of a variable-latency result before it has landed gives the earlier value, and not the one that is to
land (R65; log entry 7). The arguments are the reader's issue stamp, the register and the lane. -/
opaque earlyOld : Nat → Nat → Nat → Bool

/-- Which of the moves open to the device comes next (log entry 1): the number of a choice, by a counter. -/
opaque choice : Nat → Nat

/-- Which parts of an access are performed at one moment (log entry 1): by a counter and the part's place. -/
opaque part : Nat → Nat → Bool

/-- The bits of the place that the read and the write of a copy's elements take in the order in which they are made (R206; log entry 1):
by the copy's counter, the bit and the action. -/
opaque orderBit : Nat → Nat → Nat → Bool

/-- How many clocks after a cluster barrier's completion the lanes on another core become live, taken modulo 9 (R282): by a
counter and the core. -/
opaque wakeDelay : Nat → Nat → Nat

/-- How many clocks a load's data take to come back once they are read (R178): by a counter and the load's issue stamp. -/
opaque returnDelay : Nat → Nat → Nat

/-- A value the spec leaves open where it states the effect (each use is named in the log), by a counter. -/
opaque openValue : Nat → Nat

/-- The address of the stub to which a handler may return (R264): it lies in the dispatch code, which the spec does not give. -/
opaque handlerStub : BitVec 64

/-- What the unclonable function of HD0 answers (R410): a property of the part. -/
opaque pufResponse : Nat

/-- SHA3-256 over a list of values; the spec names the function and its standard defines it (R410 to R412; log entry 45). -/
opaque sha3 : List Nat → Nat

/-- ML-DSA-65 key generation from a seed (FIPS 204): the private key and the public key (R410; log entry 45). -/
opaque mldsaKeys : Nat → Nat × Nat

/-- An ML-DSA-65 signature by a private key over a message (R412; log entry 45). -/
opaque mldsaSign : Nat → List Nat → Nat

end Sys2Proof.Config
end

