-- ==== Sys2Proof/Machine/Flags.lean ====
section
/-! DEFINITION. Flags.lean: the element formats, the exact values behind them, rounding, and every
floating-point condition the spec defines (01 R18 to R43). Bit patterns are natural numbers here;
the register interface stands in Operands.lean. -/

namespace Sys2Proof.Machine

/-- The floating-point element formats of R18. -/
inductive Fmt where
  | f32 | f16 | bf16 | e5m2 | e4m3 | e3m2 | e2m3 | e2m1
deriving DecidableEq, Repr

/-- Width in bits (R18). -/
def Fmt.bits : Fmt → Nat
  | .f32 => 32 | .f16 => 16 | .bf16 => 16 | .e5m2 => 8 | .e4m3 => 8 | .e3m2 => 6 | .e2m3 => 6 | .e2m1 => 4

/-- Width of the fraction field M (R18). -/
def Fmt.man : Fmt → Nat
  | .f32 => 23 | .f16 => 10 | .bf16 => 7 | .e5m2 => 2 | .e4m3 => 3 | .e3m2 => 2 | .e2m3 => 3 | .e2m1 => 1

/-- Exponent bias (R18). -/
def Fmt.bias : Fmt → Nat
  | .f32 => 127 | .f16 => 15 | .bf16 => 127 | .e5m2 => 15 | .e4m3 => 7 | .e3m2 => 3 | .e2m3 => 1 | .e2m1 => 1

/-- The code of the largest finite value, without its sign (R18, R19). -/
def Fmt.maxCode : Fmt → Nat
  | .f32 => 0x7F7FFFFF | .f16 => 0x7BFF | .bf16 => 0x7F7F | .e5m2 => 0x7B | .e4m3 => 0x7E
  | .e3m2 => 0x1F | .e2m3 => 0x1F | .e2m1 => 0x7

/-- Formats with an infinity (R18). -/
def Fmt.hasInf : Fmt → Bool
  | .f32 | .f16 | .bf16 | .e5m2 => true
  | _ => false

/-- Formats that hold neither infinity nor NaN (R30). -/
def Fmt.finiteOnly : Fmt → Bool
  | .e3m2 | .e2m3 | .e2m1 => true
  | _ => false

/-- The code of +∞ in a format that has it. -/
def Fmt.infCode (f : Fmt) : Nat := f.maxCode + 1

/-- The canonical NaN (R20). The finite-only formats have none; R30 gives them +0. -/
def Fmt.nan : Fmt → Nat
  | .f32 => 0x7FC00000 | .f16 => 0x7E00 | .bf16 => 0x7FC0 | .e5m2 => 0x7E | .e4m3 => 0x7F | _ => 0

/-- The poison pattern of R20, the one NaN that is not canonical. -/
def poisonPattern : Nat := 0x7FC00BAD

/-- The sign bit of a format, when `neg`. -/
def Fmt.sign (f : Fmt) (neg : Bool) : Nat := if neg then 2 ^ (f.bits - 1) else 0

/-- Rounding modes of R27. -/
inductive Rm where
  | rne | rtz | rdn | rup | sr
deriving DecidableEq, Repr

/-- The 3-bit code of R27; the codes 0b101 to 0b111 are reserved. -/
def Rm.ofCode : Nat → Option Rm
  | 0 => some .rne | 1 => some .rtz | 2 => some .rdn | 3 => some .rup | 4 => some .sr | _ => none

/-- The five conditions of R35, at the bit positions of the flags in the wave control word (R76). -/
abbrev Cond := BitVec 5

def Cond.nv : Cond := 16#5
def Cond.dz : Cond := 8#5
def Cond.of : Cond := 4#5
def Cond.uf : Cond := 2#5
def Cond.nx : Cond := 1#5

/-- `c` when `b`, else no condition. -/
def Cond.when (b : Bool) (c : Cond) : Cond := if b then c else 0#5

/-- The exact reading of a code: a NaN, an infinity, or (−1)^neg · m · 2^e. -/
inductive Val where
  | nan (signalling : Bool)
  | inf (neg : Bool)
  | num (neg : Bool) (m : Nat) (e : Int)
deriving DecidableEq, Repr

def Val.isNan : Val → Bool
  | .nan _ => true
  | _ => false

def Val.isSNan : Val → Bool
  | .nan s => s
  | _ => false

def Val.isInf : Val → Bool
  | .inf _ => true
  | _ => false

def Val.isZero : Val → Bool
  | .num _ m _ => m == 0
  | _ => false

/-- The sign of a number or infinity; a NaN counts as positive. -/
def Val.isNeg : Val → Bool
  | .nan _ => false
  | .inf n => n
  | .num n _ _ => n

def Val.neg : Val → Val
  | .nan s => .nan s
  | .inf n => .inf (!n)
  | .num n m e => .num (!n) m e

/-- The exact value of a code (R18 to R20). -/
def Fmt.decode (f : Fmt) (x : Nat) : Val :=
  let ebits := f.bits - 1 - f.man
  let neg := x.testBit (f.bits - 1)
  let E := (x >>> f.man) % 2 ^ ebits
  let M := x % 2 ^ f.man
  if f.hasInf && E == 2 ^ ebits - 1 then
    if M == 0 then .inf neg else .nan (!M.testBit (f.man - 1))
  else if f == .e4m3 && E == 15 && M == 7 then .nan false
  else if E == 0 then .num neg M (1 - (f.bias : Int) - f.man)
  else .num neg (M + 2 ^ f.man) ((E : Int) - f.bias - f.man)

/-- m · 2^e in units of 2^u, rounded by the mode, with whether it was inexact (R28, R29). -/
def quant (rm : Rm) (neg : Bool) (z : Nat) (m : Nat) (e u : Int) : Nat × Bool :=
  if e ≥ u then (m * 2 ^ (e - u).toNat, false)
  else
    let sh := (u - e).toNat
    let q := m / 2 ^ sh
    let r := m % 2 ^ sh
    let inexact := r != 0
    let up : Bool := match rm with
      | .rne => decide (2 * r > 2 ^ sh) || (2 * r == 2 ^ sh && q % 2 == 1)
      | .rtz => false
      | .rdn => neg && inexact
      | .rup => !neg && inexact
      | .sr => false
    if rm = .sr then ((m * 2 ^ 16 / 2 ^ sh + z) / 2 ^ 16, inexact)
    else (if up then q + 1 else q, inexact)

/-- Exponent of the smallest subnormal spacing, 1 − bias − m (R28). -/
def Fmt.umin (f : Fmt) : Int := 1 - (f.bias : Int) - f.man

/-- A nonzero magnitude rounded with an unbounded exponent range above: its code, whether it was inexact, and
whether it is tiny after rounding (R28). -/
def Fmt.roundMag (f : Fmt) (rm : Rm) (neg : Bool) (z m : Nat) (e : Int) : Nat × Bool × Bool :=
  let lead : Int := (m.log2 : Int) + e
  let u := max (lead - f.man) f.umin
  let (q, inexact) := quant rm neg z m e u
  let code := (u - f.umin).toNat * 2 ^ f.man + q
  let tiny :=
    if rm = .sr then decide (code < 2 ^ f.man)
    else if lead > -(f.bias : Int) then false
    else if lead < -(f.bias : Int) then true
    else decide ((quant rm neg z m e (lead - f.man)).1 < 2 ^ (f.man + 1))
  (code, inexact, tiny)

/-- What a magnitude that IEEE 754-2019 sends to infinity becomes without saturation (R30). -/
def Fmt.overInf (f : Fmt) (neg : Bool) : Nat :=
  if f.hasInf then f.sign neg + f.infCode
  else if f.finiteOnly then f.sign neg + f.maxCode
  else f.nan

/-- The overflow row of R30. -/
def Fmt.overflow (f : Fmt) (rm : Rm) (sat neg : Bool) : Nat :=
  let toInf : Bool := match rm with
    | .rne => true | .rtz => false | .rdn => neg | .rup => !neg | .sr => false
  if !sat && toInf then f.overInf neg else f.sign neg + f.maxCode

/-- A finite exact value rounded to a format, with its conditions (R28 to R30). -/
def Fmt.settle (f : Fmt) (rm : Rm) (sat neg : Bool) (z m : Nat) (e : Int) : Nat × Cond :=
  if m = 0 then (f.sign neg, 0#5)
  else
    let (code, inexact, tiny) := f.roundMag rm neg z m e
    if code > f.maxCode then (f.overflow rm sat neg, Cond.of ||| Cond.nx)
    else (f.sign neg + code, Cond.when (inexact && tiny) Cond.uf ||| Cond.when inexact Cond.nx)

/-- The result of an arithmetic operation rounded to its format: canonical NaN (R37), and with .sat the largest
finite value for an exact infinity, with no condition (R121). -/
def Fmt.result (f : Fmt) (rm : Rm) (sat : Bool) : Val → Nat × Cond
  | .nan _ => (f.nan, 0#5)
  | .inf n => (if sat then f.sign n + f.maxCode else f.overInf n, 0#5)
  | .num n m e => f.settle rm sat n 0 m e

/-- R30: a value converted to a floating-point format. -/
def Fmt.convertVal (g : Fmt) (rm : Rm) (sat : Bool) (z : Nat) : Val → Nat × Cond
  | .nan s => (g.nan, Cond.when (s || g.finiteOnly) Cond.nv)
  | .inf n =>
    if sat then (g.sign n + g.maxCode, 0#5) else (g.overInf n, Cond.when (!g.hasInf) Cond.nv)
  | .num n m e => g.settle rm sat n z m e

/-- R30: a conversion between floating-point formats. -/
def convert (f g : Fmt) (rm : Rm) (sat : Bool) (z x : Nat) : Nat × Cond := g.convertVal rm sat z (f.decode x)

/-- R129: a conversion to the same format leaves every value as it is, but that NaNs become canonical. -/
def Fmt.keep (f : Fmt) (x : Nat) : Nat × Cond :=
  match f.decode x with
  | .nan s => (f.nan, Cond.when s Cond.nv)
  | _ => (x, 0#5)

/-- A signed multiple of 2^e as an integer in units of 2^u, with u ≤ e. -/
def toUnits (neg : Bool) (m : Nat) (e u : Int) : Int :=
  let k : Int := (m : Int) * 2 ^ (e - u).toNat
  if neg then -k else k

/-- An integer in units of 2^u as a value; a zero takes the sign given. -/
def ofUnits (zeroNeg : Bool) (k u : Int) : Val :=
  if k = 0 then .num zeroNeg 0 u else .num (decide (k < 0)) k.natAbs u

/-- Exact a + b, with the sign of an exact zero as R121 says. -/
def Val.add (rm : Rm) (a b : Val) : Val × Cond :=
  let sn := Cond.when (a.isSNan || b.isSNan) Cond.nv
  match a, b with
  | .nan _, _ => (.nan false, sn)
  | _, .nan _ => (.nan false, sn)
  | .inf p, .inf q => if p = q then (.inf p, 0#5) else (.nan false, Cond.nv)
  | .inf p, .num _ _ _ => (.inf p, 0#5)
  | .num _ _ _, .inf q => (.inf q, 0#5)
  | .num p m e, .num q k g =>
    let u := min e g
    let zn := if p = q then p else decide (rm = .rdn)
    (ofUnits zn (toUnits p m e u + toUnits q k g u) u, 0#5)

/-- Exact a · b (R121): 0 · ∞ raises NV. -/
def Val.mul (a b : Val) : Val × Cond :=
  let sn := Cond.when (a.isSNan || b.isSNan) Cond.nv
  match a, b with
  | .nan _, _ => (.nan false, sn)
  | _, .nan _ => (.nan false, sn)
  | .inf p, .inf q => (.inf (p != q), 0#5)
  | .inf p, .num q m _ => if m = 0 then (.nan false, Cond.nv) else (.inf (p != q), 0#5)
  | .num p m _, .inf q => if m = 0 then (.nan false, Cond.nv) else (.inf (p != q), 0#5)
  | .num p m e, .num q k g => (.num (p != q) (m * k) (e + g), 0#5)

/-- Exact a · b + c (R121). -/
def Val.fma (rm : Rm) (a b c : Val) : Val × Cond :=
  let p := a.mul b
  let r := p.1.add rm c
  (r.1, p.2 ||| r.2)

/-- round(a + b) in a format (R121, R132). -/
def fpAdd (f : Fmt) (rm : Rm) (sat : Bool) (a b : Nat) : Nat × Cond :=
  let r := (f.decode a).add rm (f.decode b)
  let q := f.result rm sat r.1
  (q.1, q.2 ||| r.2)

/-- round(a − b): a plus the negated b (R121). -/
def fpSub (f : Fmt) (rm : Rm) (sat : Bool) (a b : Nat) : Nat × Cond :=
  let r := (f.decode a).add rm (f.decode b).neg
  let q := f.result rm sat r.1
  (q.1, q.2 ||| r.2)

/-- round(a · b) (R121, R132). -/
def fpMul (f : Fmt) (rm : Rm) (sat : Bool) (a b : Nat) : Nat × Cond :=
  let r := (f.decode a).mul (f.decode b)
  let q := f.result rm sat r.1
  (q.1, q.2 ||| r.2)

/-- round(a · b + c), one rounding (R121, R132). -/
def fpFma (f : Fmt) (rm : Rm) (sat : Bool) (a b c : Nat) : Nat × Cond :=
  let r := (f.decode a).fma rm (f.decode b) (f.decode c)
  let q := f.result rm sat r.1
  (q.1, q.2 ||| r.2)

/-- R122: the pair (hi, lo) of FFMA3, with its conditions. -/
def fpFma3 (rm : Rm) (a b chi clo : Nat) : Nat × Nat × Cond :=
  let f := Fmt.f32
  let p := (f.decode a).mul (f.decode b)
  let s := p.1.add rm (f.decode chi)
  let e := s.1.add rm (f.decode clo)
  let hi := f.result rm false e.1
  let terms := [p.1, f.decode chi, f.decode clo]
  let clash := terms.contains (.inf false) && terms.contains (.inf true)
  let c := p.2 ||| s.2 ||| e.2 ||| hi.2 ||| Cond.when clash Cond.nv
  match f.decode hi.1 with
  | .nan _ => (hi.1, f.nan, c)
  | .inf _ => (hi.1, 0, c)
  | .num n m x =>
    let d := e.1.add rm (Val.num n m x).neg
    let lo := f.result rm false d.1
    (hi.1, lo.1, c ||| lo.2)

/-- a < b on numbers and infinities, with −0 equal to +0; false when either is a NaN. -/
def Val.lt (a b : Val) : Bool :=
  match a, b with
  | .nan _, _ => false
  | _, .nan _ => false
  | .inf p, .inf q => p && !q
  | .inf p, .num _ _ _ => p
  | .num _ _ _, .inf q => !q
  | .num p m e, .num q k g =>
    let u := min e g
    decide (toUnits p m e u < toUnits q k g u)

/-- a = b on numbers and infinities. -/
def Val.eqv (a b : Val) : Bool := !a.isNan && !b.isNan && !a.lt b && !b.lt a

/-- R123: minimumNumber or maximumNumber, −0 below +0. -/
def fpMinMax (f : Fmt) (isMax : Bool) (a b : Nat) : Nat × Cond :=
  let x := f.decode a
  let y := f.decode b
  let c := Cond.when (x.isSNan || y.isSNan) Cond.nv
  if x.isNan && y.isNan then (f.nan, c)
  else if x.isNan then (b % 2 ^ f.bits, c)
  else if y.isNan then (a % 2 ^ f.bits, c)
  else
    let aBelow := x.lt y || (x.eqv y && x.isNeg && !y.isNeg)
    (if aBelow != isMax then a % 2 ^ f.bits else b % 2 ^ f.bits, c)

/-- R124: the relation of FCMP and its conditions. -/
def fpCmp (cond : Nat) (signalling : Bool) (a b : Nat) : Bool × Cond :=
  let x := Fmt.f32.decode a
  let y := Fmt.f32.decode b
  let un := x.isNan || y.isNan
  let c := Cond.when (x.isSNan || y.isSNan || (signalling && un)) Cond.nv
  let r := match cond with
    | 0 => x.eqv y
    | 1 => !x.eqv y
    | 2 => x.lt y
    | 3 => x.lt y || x.eqv y
    | 4 => y.lt x
    | 5 => y.lt x || x.eqv y
    | 6 => un
    | _ => !un
  (r, c)

/-- R125: the one-hot class mask. -/
def fpClass (f : Fmt) (a : Nat) : Nat :=
  match f.decode a with
  | .nan s => if s then 0x100 else 0x200
  | .inf n => if n then 0x001 else 0x080
  | .num n m _ =>
    if m = 0 then (if n then 0x008 else 0x010)
    else if m < 2 ^ f.man then (if n then 0x004 else 0x020)
    else (if n then 0x002 else 0x040)

/-- R126: FRND. With `x` an inexact result raises NX. -/
def fpRound (rm : Rm) (x : Bool) (a : Nat) : Nat × Cond :=
  let f := Fmt.f32
  match f.decode a with
  | .nan s => (f.nan, Cond.when s Cond.nv)
  | .inf n => (f.sign n + f.infCode, 0#5)
  | .num n m e =>
    if m = 0 then (f.sign n, 0#5)
    else if (m.log2 : Int) + e ≥ 23 then (a, 0#5)
    else
      let (q, inexact) := quant rm n 0 m e 0
      ((f.settle .rne false n 0 q 0).1, Cond.when (inexact && x) Cond.nx)

/-- R32: a float converted to an integer in [lo, hi]. -/
def fpToInt (f : Fmt) (rm : Rm) (lo hi : Int) (a : Nat) : Int × Cond :=
  match f.decode a with
  | .nan _ => (0, Cond.nv)
  | .inf n => (if n then lo else hi, Cond.nv)
  | .num n m e =>
    let (q, inexact) := quant rm n 0 m e 0
    let v : Int := if n then -(q : Int) else q
    if v < lo then (lo, Cond.nv)
    else if hi < v then (hi, Cond.nv)
    else (v, Cond.when inexact Cond.nx)

/-- R33: an integer converted to a float. -/
def fpOfInt (f : Fmt) (rm : Rm) (sat : Bool) (v : Int) : Nat × Cond :=
  f.settle rm sat (decide (v < 0)) 0 v.natAbs 0

/-- The exact sum of a chunk's products and the settlement of its special values (R40, R41), before the scales.
`nanScale` says that a block scale is 0xFF. -/
def chunkSum (nanScale : Bool) (vs : List (Val × Val)) : Val × Cond :=
  let sn := vs.any fun p => p.1.isSNan || p.2.isSNan
  if nanScale then (.nan false, Cond.when sn Cond.nv)
  else
    let ps := vs.map fun p => Val.mul p.1 p.2
    let nv := ps.any (fun p => p.2 != 0#5)
    let pInf := ps.any (fun p => p.1 == .inf false)
    let nInf := ps.any (fun p => p.1 == .inf true)
    let anyNan := ps.any (fun p => p.1.isNan)
    let c := Cond.when (sn || nv || (pInf && nInf)) Cond.nv
    if anyNan || (pInf && nInf) then (.nan false, c)
    else if pInf then (.inf false, c)
    else if nInf then (.inf true, c)
    else (ps.foldl (fun acc p => (acc.add .rne p.1).1) (.num false 0 0), c)

/-- A value times 2^k, exactly. -/
def Val.scale (v : Val) (k : Int) : Val :=
  match v with
  | .num n m e => .num n m (e + k)
  | _ => v

/-- One chunk of R40: the exact sum, its scales, the first rounding, and the rounding into the accumulator. -/
def dotVals (scales : Option (Nat × Nat)) (vs : List (Val × Val)) (acc : Nat) : Nat × Cond :=
  let nanScale := match scales with
    | some (a, b) => a == 255 || b == 255
    | none => false
  let k : Int := match scales with
    | some (a, b) => (a : Int) + b - 254
    | none => 0
  let p := chunkSum nanScale vs
  let c := match p.1 with
    | .num n m e => if m = 0 then (0, 0#5) else Fmt.f32.result .rne false ((Val.num n m e).scale k)
    | v => Fmt.f32.result .rne false v
  let av := Fmt.f32.decode acc
  let s := ((if av.isNan then .nan false else av) : Val).add .rne (Fmt.f32.decode c.1)
  let r := Fmt.f32.result .rne false s.1
  (r.1, p.2 ||| c.2 ||| s.2 ||| r.2)

/-- A chunk of elements of one format. -/
def dotChunk (f : Fmt) (scales : Option (Nat × Nat)) (as bs : List Nat) (acc : Nat) : Nat × Cond :=
  dotVals scales ((as.map f.decode).zip (bs.map f.decode)) acc

/-- A signed or unsigned reading of the low `w` bits. -/
def intOf (w : Nat) (signed : Bool) (x : Nat) : Int :=
  let y := x % 2 ^ w
  if signed && y.testBit (w - 1) then (y : Int) - 2 ^ w else y

/-- The low `w` bits of an integer. -/
def lowBits (w : Nat) (x : Int) : Nat := (x % (2 ^ w : Int)).toNat

/-- An integer clamped to a range. -/
def clampInt (lo hi x : Int) : Int := if x < lo then lo else if hi < x then hi else x

end Sys2Proof.Machine
end

