-- ==== Sys2Proof/Syntax.lean ====
section
/-! DEFINITION. Syntax.lean: the steps of the device, one constructor per row of the table of operations and
events (02 R47 to R59; 95_what_each_step_holds). An instruction carries its fields as encoded; an event
carries which wave, unit or register it concerns. -/

namespace Sys2Proof

/-- The fields of a C16 instruction (R49). -/
structure C16 where
  d : BitVec 5
  b : BitVec 5
deriving DecidableEq, Repr

/-- The fields of an I32 instruction (R50). -/
structure I32 where
  d : BitVec 7
  a : BitVec 7
  b : BitVec 7
  stall : BitVec 3
deriving DecidableEq, Repr

/-- The fields of an I64 instruction, and the literal of an I96 one (R51, R47). -/
structure Body where
  lit : Option Word := none
  md : BitVec 5 := 0#5
  bS : Bool := false
  aS : Bool := false
  bW : BitVec 2 := 0#2
  b : BitVec 8 := 0#8
  aW : BitVec 2 := 0#2
  a : BitVec 8 := 0#8
  dW : BitVec 2 := 0#2
  d : BitVec 8 := 0#8
  wait : BitVec 6 := 0#6
  set : BitVec 3 := 0#3
  gn : Bool := false
  gk : BitVec 3 := 0#3
  stall : BitVec 3 := 0#3
deriving DecidableEq, Repr

/-- One step of the device. `w` is a wave (64 · core + slot), `n` an issue stamp or an index, `q` a cluster or a
unit of one, and the other names say what they number. -/
inductive Instr where
  /-- R104. Vector move of a register or an extended literal. -/
  | mov (x : Body)
  /-- R102. Vector integer add, wrapping or saturating. -/
  | iadd (x : Body)
  /-- R102. Vector integer subtract, wrapping or saturating. -/
  | isub (x : Body)
  /-- R102. Vector add with carry in and out through a predicate. -/
  | iaddc (x : Body)
  /-- R102. Vector integer multiply, low bits. -/
  | imul (x : Body)
  /-- R102. Vector integer multiply, high bits. -/
  | imulh (x : Body)
  /-- R102. Vector integer multiply-add, optionally wide. -/
  | imad (x : Body)
  /-- R102. Vector integer minimum. -/
  | imin (x : Body)
  /-- R102. Vector integer maximum. -/
  | imax (x : Body)
  /-- R102. Vector integer absolute value. -/
  | iabs (x : Body)
  /-- R103. Vector shift left. -/
  | shl (x : Body)
  /-- R103. Vector logical or arithmetic shift right. -/
  | shr (x : Body)
  /-- R103. Vector rotate left or right. -/
  | rot (x : Body)
  /-- R103. Vector bitwise and. -/
  | and (x : Body)
  /-- R103. Vector bitwise or. -/
  | or (x : Body)
  /-- R103. Vector bitwise xor. -/
  | xor (x : Body)
  /-- R103. Vector and-not. -/
  | andn (x : Body)
  /-- R103. Vector bit-field extract. -/
  | bfe (x : Body)
  /-- R103. Vector bit-field insert. -/
  | bfi (x : Body)
  /-- R103. Vector population count. -/
  | popc (x : Body)
  /-- R103. Vector count leading zeros. -/
  | clz (x : Body)
  /-- R103. Vector bit reverse. -/
  | brev (x : Body)
  /-- R103. Vector byte permute. -/
  | prmt (x : Body)
  /-- R104. Vector address computation a + ext(b)*2^sh. -/
  | lea (x : Body)
  /-- R104. Vector integer compare into a predicate. -/
  | icmp (x : Body)
  /-- R104. Vector select by predicate. -/
  | sel (x : Body)
  /-- R105. Uniform move on s registers. -/
  | movU (x : Body)
  /-- R105. Uniform integer add. -/
  | iaddU (x : Body)
  /-- R105. Uniform integer subtract. -/
  | isubU (x : Body)
  /-- R105. Uniform add with carry through a predicate. -/
  | iaddcU (x : Body)
  /-- R105. Uniform integer multiply. -/
  | imulU (x : Body)
  /-- R105. Uniform integer multiply high. -/
  | imulhU (x : Body)
  /-- R105. Uniform integer multiply-add. -/
  | imadU (x : Body)
  /-- R105. Uniform integer minimum. -/
  | iminU (x : Body)
  /-- R105. Uniform integer maximum. -/
  | imaxU (x : Body)
  /-- R105. Uniform integer absolute value. -/
  | iabsU (x : Body)
  /-- R105. Uniform shift left. -/
  | shlU (x : Body)
  /-- R105. Uniform shift right. -/
  | shrU (x : Body)
  /-- R105. Uniform rotate. -/
  | rotU (x : Body)
  /-- R105. Uniform bitwise and. -/
  | andU (x : Body)
  /-- R105. Uniform bitwise or. -/
  | orU (x : Body)
  /-- R105. Uniform bitwise xor. -/
  | xorU (x : Body)
  /-- R105. Uniform and-not. -/
  | andnU (x : Body)
  /-- R105. Uniform bit-field extract. -/
  | bfeU (x : Body)
  /-- R105. Uniform bit-field insert. -/
  | bfiU (x : Body)
  /-- R105. Uniform population count. -/
  | popcU (x : Body)
  /-- R105. Uniform count leading zeros. -/
  | clzU (x : Body)
  /-- R105. Uniform bit reverse. -/
  | brevU (x : Body)
  /-- R105. Uniform byte permute. -/
  | prmtU (x : Body)
  /-- R105. Uniform address computation. -/
  | leaU (x : Body)
  /-- R105. Uniform compare writing all ones or zero to an s register. -/
  | icmpU (x : Body)
  /-- R105. Uniform select by the predicate bit of the lowest contributing lane. -/
  | selU (x : Body)
  /-- R121. binary32 add with rounding mode and optional saturation. -/
  | fadd (x : Body)
  /-- R121. binary32 subtract. -/
  | fsub (x : Body)
  /-- R121. binary32 multiply. -/
  | fmul (x : Body)
  /-- R121. binary32 fused multiply-add with one rounding. -/
  | ffma (x : Body)
  /-- R122. Fused multiply-add into an unevaluated hi/lo binary32 pair. -/
  | ffma3 (x : Body)
  /-- R123. binary32 minimumNumber. -/
  | fmin (x : Body)
  /-- R123. binary32 maximumNumber. -/
  | fmax (x : Body)
  /-- R124. binary32 compare into a predicate. -/
  | fcmp (x : Body)
  /-- R125. Classify a floating value into a one-hot mask. -/
  | fclass (x : Body)
  /-- R126. Round binary32 to an integral value. -/
  | frnd (x : Body)
  /-- R129. Convert element groups between floating formats, including SR. -/
  | fcvt (x : Body)
  /-- R130. Convert between integer types and between integer and floating types. -/
  | icvt (x : Body)
  /-- R132. Packed 16-bit floating add. -/
  | hadd2 (x : Body)
  /-- R132. Packed 16-bit floating multiply. -/
  | hmul2 (x : Body)
  /-- R132. Packed 16-bit fused multiply-add. -/
  | hfma2 (x : Body)
  /-- R132. Packed 16-bit minimum or maximum. -/
  | hmnx2 (x : Body)
  /-- R134. One exact chunk dot product accumulated into binary32, optionally MX-scaled. -/
  | fdot4 (x : Body)
  /-- R135. Integer dot product accumulated mod 2^32. -/
  | idot4 (x : Body)
  /-- R137. Decode MX block elements to a wide format. -/
  | mxunpk (x : Body)
  /-- R137. Encode wide values into MX block elements. -/
  | mxpack (x : Body)
  /-- R138. Correctly rounded 2^a, variable latency. -/
  | fexp2 (x : Body)
  /-- R138. Correctly rounded log2 a. -/
  | flog2 (x : Body)
  /-- R138. Correctly rounded reciprocal. -/
  | frcp (x : Body)
  /-- R138. Correctly rounded reciprocal square root. -/
  | frsq (x : Body)
  /-- R138. Correctly rounded square root. -/
  | fsqrt (x : Body)
  /-- R138. Correctly rounded sin(pi a). -/
  | fsin (x : Body)
  /-- R138. Correctly rounded cos(pi a). -/
  | fcos (x : Body)
  /-- R138. Correctly rounded tanh. -/
  | ftanh (x : Body)
  /-- R138. Correctly rounded erf. -/
  | ferf (x : Body)
  /-- R143. Start loading 1 KiB into the unselected activation-table bank. -/
  | tblset (x : Body)
  /-- R144. Flip the selected activation-table bank. -/
  | tblcommit (x : Body)
  /-- R145. Evaluate the piecewise cubic table per lane, variable latency. -/
  | tbleval (x : Body)
  /-- R146. Philox4x32-10 random block per lane. -/
  | rngx (x : Body)
  /-- R108. Predicate and. -/
  | kand (x : Body)
  /-- R108. Predicate or. -/
  | kor (x : Body)
  /-- R108. Predicate xor. -/
  | kxor (x : Body)
  /-- R108. Predicate not. -/
  | knot (x : Body)
  /-- R108. Predicate to predicate move. -/
  | kmov (x : Body)
  /-- R108. Move an s register into a predicate per contributing lane. -/
  | kmovKS (x : Body)
  /-- R108. Move a whole predicate into an s register once. -/
  | kmovSK (x : Body)
  /-- R92. Set the wave's cross-lane tile size. -/
  | lpart (x : Body)
  /-- R148. Shuffle values between lanes of a tile. -/
  | shfl (x : Body)
  /-- R149. Combine predicate bits over a tile. -/
  | vote (x : Body)
  /-- R150. Fixed-tree reduction over a tile. -/
  | redux (x : Body)
  /-- R150. Fixed-order prefix scan over a tile. -/
  | scan (x : Body)
  /-- R151. Mask of tile lanes holding an equal value. -/
  | matchLanes (x : Body)
  /-- R151. Broadcast one tile lane's value. -/
  | bcast (x : Body)
  /-- R110. Relative branch of guarded lanes. -/
  | bra (x : Body)
  /-- R111. Indirect branch checked against a declared target list. -/
  | brx (x : Body) (ts : List Word)
  /-- R110. Relative call writing a return address. -/
  | call (x : Body)
  /-- R111. Indirect call checked against a target list. -/
  | callx (x : Body) (ts : List Word)
  /-- R111. Return to an absolute per-lane address. -/
  | ret (x : Body)
  /-- R87. Raise the epoch of guarded active lanes. -/
  | yield (x : Body)
  /-- R113. Guarded active lanes become exited, with barrier departures. -/
  | exit (x : Body)
  /-- R113. As EXIT, also setting the block's KILLED indicator. -/
  | kill (x : Body)
  /-- R113. No operation. -/
  | nop (x : Body)
  /-- R113. No operation carrying only a control clause. -/
  | waitd (x : Body)
  /-- R115. Raise USER_TRAP with a code. -/
  | trap (x : Body)
  /-- R115. Raise BREAKPOINT, or a debug hit when enabled for the context. -/
  | bkpt (x : Body)
  /-- R116. Read a wave control register. -/
  | rcsr (x : Body)
  /-- R77. Write the wave control word. -/
  | wcsr (x : Body)
  /-- R117. Read a special register. -/
  | srd (x : Body)
  /-- R118. Move register granules to another wave of the block on the row. -/
  | quotaGive (x : Body)
  /-- R118. Return register granules to free quota. -/
  | quotaRel (x : Body)
  /-- R118. Take register granules from free quota. -/
  | quotaTake (x : Body)
  /-- R119. Invalidate instruction and trace cache lines of a range. -/
  | icinv (x : Body)
  /-- R119. Invalidate every instruction and trace cache line of the context on the core. -/
  | icinvAll (x : Body)
  /-- R178. Global plain load. -/
  | ld (x : Body)
  /-- R179. Global plain store into the store queue. -/
  | st (x : Body)
  /-- R178. Scratchpad load in passes. -/
  | lds (x : Body)
  /-- R179. Scratchpad store in passes. -/
  | sts (x : Body)
  /-- R173. Load through the on-chip window. -/
  | ldw (x : Body)
  /-- R179. Store through the on-chip window via the store queue. -/
  | stw (x : Body)
  /-- R180. Prefetch a line to a cache level. -/
  | pf (x : Body)
  /-- R181. Scoped acquire load. -/
  | lda (x : Body)
  /-- R181. Scoped release store. -/
  | stl (x : Body)
  /-- R182. Order the wave's accesses at a scope. -/
  | fence (x : Body)
  /-- R183. Write back dirty bytes of a range to the scope's point of coherence. -/
  | clean (x : Body)
  /-- R183. Clean then remove a range's lines from the issuer's caches. -/
  | inval (x : Body)
  /-- R187. Near atomic read-modify-write in L1, scratchpad or window. -/
  | atom (x : Body)
  /-- R187. Far atomic with return at the home slice. -/
  | atomf (x : Body)
  /-- R187. Far reduction without return at the home slice. -/
  | red (x : Body)
  /-- R190. Reserve a line and read with buffered stores overlaid. -/
  | mlres (x : Body)
  /-- R190. Buffer a store of a multi-line transaction. -/
  | mlst (x : Body)
  /-- R191. Commit or fail the multi-line transaction and write a status. -/
  | mlcommit (x : Body)
  /-- R192. Empty the transaction and end a lost state. -/
  | mlabort (x : Body)
  /-- R195. Set a barrier's target and clear its counts. -/
  | barinit (x : Body)
  /-- R195. Enrol the wave on a barrier. -/
  | barenrol (x : Body)
  /-- R196. Arrive at a barrier without waiting. -/
  | bararv (x : Body)
  /-- R197. Park until the phase of the lane's last arrival completes. -/
  | barwait (x : Body)
  /-- R197. Arrive and wait. -/
  | barsync (x : Body)
  /-- R198. Read a barrier's arrival count and phase. -/
  | barq (x : Body)
  /-- R199. Add to a core semaphore as a core-scope release. -/
  | semadd (x : Body)
  /-- R199. Park until a semaphore reaches a threshold. -/
  | semwait (x : Body)
  /-- R199. Set a semaphore value. -/
  | semset (x : Body)
  /-- R200. Arm the wave's monitor on a line. -/
  | monarm (x : Body)
  /-- R200. Park until a monitor event, timeout or resume. -/
  | monwait (x : Body)
  /-- R210. Seal credited copy entries into a batch. -/
  | cpseal (x : Body)
  /-- R211. Wait until at most n sealed batches are unfinished. -/
  | cpwait (x : Body)
  /-- R213. Send a rein to a context on this module or the peer. -/
  | rsend (x : Body)
  /-- R214. Park a handler wave until a vector of its range is pending and unmasked. -/
  | rwait (x : Body)
  /-- R215. Claim a named pending vector. -/
  | rtake (x : Body)
  /-- R215. Claim the lowest pending vector of the range. -/
  | rtakeAny (x : Body)
  /-- R216. Mask named vectors of the handler range. -/
  | rmaskSet (x : Body)
  /-- R216. Unmask named vectors. -/
  | rmaskClr (x : Body)
  /-- R216. Write all 16 mask bits. -/
  | rmaskWr (x : Body)
  /-- R220. Sign a mustering register; the last signer completes mustering. -/
  | hmust (x : Body)
  /-- R244. Request release of the harness grid. -/
  | hrel (x : Body)
  /-- R245. Load an A-row index vector. -/
  | hlda (x : Body)
  /-- R245. Clear the use of an index vector. -/
  | hldaNone (x : Body)
  /-- R246. Load a weight bank, its metadata and descriptor. -/
  | hldb (x : Body)
  /-- R248. Flip the bank select for later rows. -/
  | hswap (x : Body)
  /-- R247. Copy scale lines into a scale store. -/
  | hlds (x : Body)
  /-- R251. Stream M rows through the grid into accumulator rows. -/
  | hmma (x : Body)
  /-- R252. Zero accumulator rows and clear their poison marks. -/
  | hzero (x : Body)
  /-- R252. Scale accumulator rows by per-lane factors. -/
  | hrowsc (x : Body)
  /-- R253. Drain accumulator elements into registers. -/
  | hdrnReg (x : Body)
  /-- R253. Drain accumulator rows to the scratchpad. -/
  | hdrnSp (x : Body)
  /-- R255. Classify 64 boxes against up to 8 planes exactly. -/
  | hboxt (x : Body)
  /-- R242. Read the grid status after older harness work. -/
  | hstat (x : Body)
  /-- R296. Offer task records to a task queue. -/
  | tqpush (x : Body)
  /-- R296. Offer node records to a node bin. -/
  | nrec (x : Body)
  /-- R296. Offer a child-grid launch record. -/
  | launch (x : Body)
  /-- R314. Offer a frustum or cone query to the beam unit. -/
  | bqry (x : Body)
  /-- R314. Offer per-lane single-ray queries. -/
  | bray (x : Body)
  /-- R315. Read, optionally wait for and clear a query's state. -/
  | bstat (x : Body)
  /-- R139. The special-function unit writes a result in row issue order and releases its slot. -/
  | sfuResultWrite (w n : Nat)
  /-- R143. After all bytes are read the bank is written and the slot released. -/
  | tblsetBankWrite (w n : Nat)
  /-- R145. A table evaluation result is written once its bank is loaded. -/
  | tblevalResult (w n : Nat)
  /-- R118. Once the wave's slots are zero the request is settled, D written and ALLOC changed. -/
  | quotaSettle (w n : Nat)
  /-- R119. After older stores leave, the lines are invalidated and the wave may issue again. -/
  | icinvComplete (w n : Nat)
  /-- R178. Data of a variable-latency load arrive, write the register and decrement the slot. -/
  | loadDataReturn (w n : Nat)
  /-- R165. The oldest store-queue entry performs all its lanes' writes in the L1. -/
  | storeQueueLeave (w : Nat)
  /-- R259. A pending translation and permission check passes or fails, stopping the wave in SKID mode. -/
  | translationCheckResult (w n : Nat)
  /-- R182. The ordering a fence requires is established and its slot released. -/
  | fenceComplete (w n : Nat)
  /-- R183. Every line of the range has reached its state and the slot is released. -/
  | cacheMaintenanceComplete (w n : Nat)
  /-- R340. A home slice performs the merged word operations of an arriving far atomic or reduction. -/
  | sliceWordOperation (w n line : Nat)
  /-- R196. A phase whose start count already reaches T completes in the next clock. -/
  | barrierStartComplete (bar : Nat)
  /-- R200. A write to the armed line releases the monitor wait with EVENT. -/
  | monitorEvent (w : Nat)
  /-- R200. The monitor timeout expires and MONWAIT returns TIMEOUT. -/
  | monwaitTimeout (w : Nat)
  /-- R202. The copy engine reads the next published ring entry and starts it. -/
  | copyEntryTake (core blk : Nat)
  /-- R209. All element writes are performed: release, semaphore increment and STATUS. -/
  | copyEntryComplete (core blk idx : Nat)
  /-- R354. The rein router checks a send, coalesces it or counts a refusal, and answers. -/
  | reinRouterSend (n : Nat)
  /-- R352. The device writes the REFUSED count into the context image as a store-release. -/
  | refusedWriteback (ctx : Nat)
  /-- R222. The group switches to harness mode, storage is reset and the lead becomes live. -/
  | gridSwitch (g : Nat)
  /-- R234. The release ends, granules return, the register is free and members become live. -/
  | gridReleaseEnd (g : Nat)
  /-- R232. Every accumulator write of a pass has landed and the slot is released. -/
  | hmmaComplete (w n : Nat)
  /-- R288. The engine moves records from the ring head back into the slots. -/
  | queueRefill (q : Nat)
  /-- R292. The bin timer expires with records held and the bin fires. -/
  | binTimerExpire (q : Nat)
  /-- R307. A queued query starts its descent. -/
  | queryStart (q : Nat)
  /-- R311. One node visit's classifications run on the compare grid. -/
  | compareBatch (q : Nat)
  /-- R310. A bundle record is offered to the bin, waiting while it is full. -/
  | recordEmit (q : Nat)
  /-- R315. A query reaches a final state. -/
  | queryEnd (q : Nat)
  /-- R167. A missed trace-cache line is filled with execute check. -/
  | traceCacheFill (w : Nat)
  /-- R97. A wave with no live or parked lane, zero slots and drained stores retires. -/
  | waveRetire (w : Nat)
  /-- R280. The last wave retires and copies complete: the block retires. -/
  | blockRetire (blk : Nat)
  /-- R262. After producers complete, the stopped wave's frame is reported to the trap queue. -/
  | waveStopReport (w : Nat)
  /-- R265. After producers and copies quiesce the image is written and resources freed. -/
  | saveImageWrite (blk : Nat)
  /-- R320. The stepped wave stops with DEBUG_STOP and STATE returns to stopped. -/
  | dbgStepDone (w : Nat)
  /-- R273. A wave whose candidate lies at a breakpoint stops without issuing. -/
  | instructionBreakpointHit (w : Nat)
  /-- R274. The last wave stops and STATE becomes stopped. -/
  | clusterStopped (q : Nat)
  /-- R342. A core finishes writing back tagged lines and acknowledges, letting the acquire answer. -/
  | drainAcknowledge (die core line : Nat)
  /-- R444. All DST writes on a module are performed and the collective completes. -/
  | collectiveComplete (key : Nat)
  /-- R62. A fixed-latency register result lands L clocks after issue, becoming readable and releasing any claimed slot. -/
  | resultLanded (w n : Nat)
  /-- R160. The bank arbiter serves one pass of a pending scratchpad request from a row, the window or the copy-engine port. -/
  | scratchpadPass (w n : Nat)
  /-- R181. An STL's release becomes complete at its scope and its slot is released. -/
  | releaseComplete (w n : Nat)
  /-- R241. A harness instruction other than HMMA reaches its completion point and releases its slot; HDRN then raises DATA_POISON if it drained marked elements. -/
  | harnessCompletion (w n : Nat)
  /-- R49. C16 move: D := B in every guarded lane, with an implicit stall of L-1. -/
  | cMov (x : C16)
  /-- R49. C16 integer add: D := D + B. -/
  | cIadd (x : C16)
  /-- R49. C16 integer subtract: D := D - B. -/
  | cIsub (x : C16)
  /-- R49. C16 bitwise and: D := D and B. -/
  | cAnd (x : C16)
  /-- R49. C16 bitwise or: D := D or B. -/
  | cOr (x : C16)
  /-- R49. C16 bitwise xor: D := D xor B. -/
  | cXor (x : C16)
  /-- R49. C16 shift left: D := D << B. -/
  | cShl (x : C16)
  /-- R49. C16 logical shift right: D := D >> B. -/
  | cShr (x : C16)
  /-- R49. C16 binary32 add with RNE. -/
  | cFadd (x : C16)
  /-- R49. C16 binary32 subtract with RNE. -/
  | cFsub (x : C16)
  /-- R49. C16 binary32 multiply with RNE. -/
  | cFmul (x : C16)
  /-- R49. C16 binary32 minimumNumber. -/
  | cFmin (x : C16)
  /-- R49. C16 binary32 maximumNumber. -/
  | cFmax (x : C16)
  /-- R49. C16 integer multiply, low 32 bits. -/
  | cImul (x : C16)
  /-- R49. C16 signed 32-bit maximum. -/
  | cImax (x : C16)
  /-- R49. C16 signed 32-bit minimum. -/
  | cImin (x : C16)
  /-- R50. I32 move D := A. -/
  | i32Mov (x : I32)
  /-- R50. I32 integer add. -/
  | i32Iadd (x : I32)
  /-- R50. I32 integer subtract. -/
  | i32Isub (x : I32)
  /-- R50. I32 integer multiply, low bits. -/
  | i32Imul (x : I32)
  /-- R50. I32 signed multiply, high bits. -/
  | i32ImulhI32 (x : I32)
  /-- R50. I32 unsigned multiply, high bits. -/
  | i32ImulhN32 (x : I32)
  /-- R50. I32 accumulating multiply-add D := A*B + D. -/
  | i32Imad (x : I32)
  /-- R50. I32 signed minimum. -/
  | i32IminI32 (x : I32)
  /-- R50. I32 signed maximum. -/
  | i32ImaxI32 (x : I32)
  /-- R50. I32 unsigned minimum. -/
  | i32IminN32 (x : I32)
  /-- R50. I32 unsigned maximum. -/
  | i32ImaxN32 (x : I32)
  /-- R50. I32 integer absolute value. -/
  | i32Iabs (x : I32)
  /-- R50. I32 shift left. -/
  | i32Shl (x : I32)
  /-- R50. I32 logical shift right. -/
  | i32Shr (x : I32)
  /-- R50. I32 arithmetic shift right. -/
  | i32ShrA (x : I32)
  /-- R50. I32 rotate left. -/
  | i32Rot (x : I32)
  /-- R50. I32 bitwise and. -/
  | i32And (x : I32)
  /-- R50. I32 bitwise or. -/
  | i32Or (x : I32)
  /-- R50. I32 bitwise xor. -/
  | i32Xor (x : I32)
  /-- R50. I32 and-not. -/
  | i32Andn (x : I32)
  /-- R50. I32 population count. -/
  | i32Popc (x : I32)
  /-- R50. I32 count leading zeros. -/
  | i32Clz (x : I32)
  /-- R50. I32 bit reverse. -/
  | i32Brev (x : I32)
  /-- R50. I32 binary32 add, RNE. -/
  | i32Fadd (x : I32)
  /-- R50. I32 binary32 subtract, RNE. -/
  | i32Fsub (x : I32)
  /-- R50. I32 binary32 multiply, RNE. -/
  | i32Fmul (x : I32)
  /-- R50. I32 accumulating binary32 fused multiply-add, RNE. -/
  | i32Ffma (x : I32)
  /-- R50. I32 binary32 minimumNumber. -/
  | i32Fmin (x : I32)
  /-- R50. I32 binary32 maximumNumber. -/
  | i32Fmax (x : I32)
  /-- R50. I32 binary32 add toward zero. -/
  | i32FaddRtz (x : I32)
  /-- R50. I32 binary32 multiply toward zero. -/
  | i32FmulRtz (x : I32)
  /-- R50. I32 accumulating fused multiply-add toward zero. -/
  | i32FfmaRtz (x : I32)
  /-- R50. I32 round to integral, RNE. -/
  | i32FrndRne (x : I32)
  /-- R50. I32 round to integral, downward. -/
  | i32FrndRdn (x : I32)
  /-- R50. I32 round to integral, upward. -/
  | i32FrndRup (x : I32)
  /-- R50. I32 round to integral, toward zero. -/
  | i32FrndRtz (x : I32)
  /-- R50. I32 packed binary16 add. -/
  | i32Hadd2F16 (x : I32)
  /-- R50. I32 packed binary16 multiply. -/
  | i32Hmul2F16 (x : I32)
  /-- R50. I32 accumulating packed binary16 fused multiply-add. -/
  | i32Hfma2F16 (x : I32)
  /-- R50. I32 packed BF16 add. -/
  | i32Hadd2Bf16 (x : I32)
  /-- R50. I32 packed BF16 multiply. -/
  | i32Hmul2Bf16 (x : I32)
  /-- R50. I32 accumulating packed BF16 fused multiply-add. -/
  | i32Hfma2Bf16 (x : I32)
  /-- R50. I32 conversion binary16 to binary32. -/
  | i32FcvtF32F16 (x : I32)
  /-- R50. I32 conversion BF16 to binary32. -/
  | i32FcvtF32Bf16 (x : I32)
  /-- R50. I32 conversion binary32 to binary16, RNE. -/
  | i32FcvtF16F32 (x : I32)
  /-- R50. I32 conversion binary32 to BF16, RNE. -/
  | i32FcvtBf16F32 (x : I32)
  /-- R50. I32 conversion E4M3 to binary32. -/
  | i32FcvtF32E4m3 (x : I32)
  /-- R50. I32 conversion E5M2 to binary32. -/
  | i32FcvtF32E5m2 (x : I32)
  /-- R50. I32 conversion signed 32-bit to binary32, RNE. -/
  | i32IcvtF32I32 (x : I32)
  /-- R50. I32 conversion unsigned 32-bit to binary32, RNE. -/
  | i32IcvtF32N32 (x : I32)
  /-- R50. I32 conversion binary32 to signed 32-bit, RTZ. -/
  | i32IcvtI32F32 (x : I32)
  /-- R50. I32 conversion binary32 to unsigned 32-bit, RTZ. -/
  | i32IcvtN32F32 (x : I32)
  /-- R50. I32 accumulating E4M3 four-element dot product. -/
  | i32Fdot4E4m3 (x : I32)
  /-- R50. I32 accumulating E5M2 four-element dot product. -/
  | i32Fdot4E5m2 (x : I32)
  /-- R50. I32 accumulating signed INT8 dot product. -/
  | i32Idot4I8 (x : I32)
  /-- R50. I32 accumulating unsigned 8-bit dot product. -/
  | i32Idot4N8 (x : I32)
  /-- R50. I32 packed binary16 minimumNumber. -/
  | i32Hmnx2MinF16 (x : I32)
  /-- R50. I32 packed binary16 maximumNumber. -/
  | i32Hmnx2MaxF16 (x : I32)
  /-- R50. I32 packed BF16 minimumNumber. -/
  | i32Hmnx2MinBf16 (x : I32)
  /-- R50. I32 packed BF16 maximumNumber. -/
  | i32Hmnx2MaxBf16 (x : I32)
  /-- R50. I32 binary32 add toward minus infinity. -/
  | i32FaddRdn (x : I32)
  /-- R50. I32 binary32 add toward plus infinity. -/
  | i32FaddRup (x : I32)
  /-- R50. I32 binary32 multiply toward minus infinity. -/
  | i32FmulRdn (x : I32)
  /-- R50. I32 binary32 multiply toward plus infinity. -/
  | i32FmulRup (x : I32)
  /-- R289. A queue launches its oldest record through its bind slot. -/
  | queueLaunch (q bind : Nat)
  /-- R292. A fired bin copies records to a landing slot and launches a block. -/
  | binLaunch (q bind : Nat)
  /-- R280. The dispatch places all waves of a block at once and starts it. -/
  | blockStart (bind cluster : Nat)
  /-- R263. An aligned 8-byte read pops the oldest trap-queue entry. -/
  | trapqRead (core size : Nat)
  /-- R264. Writing 1 to WCMD resumes a trap-stopped wave, replaying if REPLAY is set. -/
  | wcmdResume (w : Nat)
  /-- R264. The handler ends and the supervisor takes the next queue entry. -/
  | ecallDone (core : Nat)
  /-- R264. The handler requests teardown of the block, reporting FAULTED. -/
  | ecallTeardown (core a0 : Nat)
  /-- R264. The handler writes the interim ESCALATED status. -/
  | ecallEscalate (core : Nat)
  /-- R264. The supervisor faults in a handler and the block is torn down with SUPERVISOR_FAULT. -/
  | supervisorException (core code : Nat)
  /-- R345. Bind record command RUN makes the bind READY. -/
  | cmdRun (bind : Nat)
  /-- R345. Bind record command PAUSE stops new blocks. -/
  | cmdPause (bind : Nat)
  /-- R345. Bind record command SAVE starts saving or discarding the selected blocks. -/
  | cmdSave (bind : Nat)
  /-- R345. Bind record command RESTORE makes saved blocks candidates. -/
  | cmdRestore (bind : Nat)
  /-- R345. Bind record command TEARDOWN tears down every block. -/
  | cmdTeardown (bind : Nat)
  /-- R345. An unassigned or not-accepted command is cleared without effect. -/
  | cmdUnassigned (bind code : Nat)
  /-- R267. A saved block is placed and its image reinstated. -/
  | blockRestore (img cluster : Nat)
  /-- R348. The management core orders saves of low-priority victims for a waiting candidate. -/
  | preemption (bind : Nat)
  /-- R346. A bind's effective priority rises as its aging interval elapses. -/
  | priorityAgingStep (bind : Nat)
  /-- R275. DBGCTL RESUME restarts DBG-stopped waves and applies held releases. -/
  | dbgResume (q : Nat)
  /-- R275. DBGCTL STEP runs one named wave for one issue. -/
  | dbgStep (q core slot : Nat)
  /-- R269. An ECC error that cannot be corrected marks data poisoned and is logged. -/
  | uncorrectableError (core arr off : Nat)
  /-- R269. An ECC error is corrected in place and counted. -/
  | correctableError (core arr off : Nat)
  /-- R270. The management core clears ERRSTAT by writing 0. -/
  | errstatClear (core : Nat)
  /-- R350. A write of a new tail count starts reading host commands. -/
  | doorbellTail (page val : Nat)
  /-- R396. A write to RSEND sends a host rein with RPAY. -/
  | doorbellRsend (page val : Nat)
  /-- R396. Writing 1 to IRQ arms the queue's MSI-X vector once. -/
  | doorbellIrqArm (page val : Nat)
  /-- R351. Host command LAUNCH starts a grid. -/
  | hostLaunch (hq : Nat)
  /-- R351. Host command COPY runs one copy entry in the queue's context. -/
  | hostCopy (hq : Nat)
  /-- R351. Host command SIGNAL writes a value with a store-release. -/
  | hostSignalWrite (hq : Nat)
  /-- R351. Host command SIGNAL atomically adds followed by a release. -/
  | hostSignalAdd (hq : Nat)
  /-- R351. Host command WAIT waits for a memory condition. -/
  | hostWait (hq : Nat)
  /-- R351. A WAIT timeout expires and the command reports TIMEOUT. -/
  | hostWaitTimeout (hq : Nat)
  /-- R352. Install a context record. -/
  | ctxcfgInstall (hq : Nat)
  /-- R351. Tear down a context. -/
  | ctxcfgTeardown (hq : Nat)
  /-- R350. Create a host command queue for a context. -/
  | ctxcfgCreateQueue (hq : Nat)
  /-- R351. Load one or all rein permission entries. -/
  | reincfg (hq : Nat)
  /-- R400. Flip granules to host bias. -/
  | biasflipToHost (hq : Nat)
  /-- R400. Flip granules to device bias. -/
  | biasflipToDevice (hq : Nat)
  /-- R351. Host command FENCE waits for earlier commands and releases at a scope. -/
  | hostFence (hq : Nat)
  /-- R393. A host CXL read served at the home hub. -/
  | hostDataRead (addr size : Nat)
  /-- R393. A host CXL write served at the home hub. -/
  | hostDataWrite (addr size val : Nat)
  /-- R402. IOMMU command invalidating translations. -/
  | iotinvalVma (ctx addr size : Nat)
  /-- R406. IOMMU fence completing after covered accesses finish. -/
  | iofenceC (addr val : Nat)
  /-- R402. IOMMU command invalidating device-directory caching. -/
  | iodirInvalDdt (dev : Nat)
  /-- R402. IOMMU command invalidating process-directory caching. -/
  | iodirInvalPdt (dev pid : Nat)
  /-- R407. Write the module power limit, clamped to the permitted range. -/
  | powerLimitWrite (val : Nat)
  /-- R407. The arithmetic clock moves one 25 MHz step under the power limit. -/
  | clockStep (mhz : Nat)
  /-- R408. Release of PERST# boots the module. -/
  | perstRelease
  /-- R409. PERST# discards contexts, queues and memory contents. -/
  | moduleReset
  /-- R409. A function-level reset tears down contexts and empties host queues. -/
  | functionLevelReset
  /-- R412. A nonce written to the mailbox produces a signed report. -/
  | attestationRequest (val : Nat)
  /-- R416. Take a cluster out of service. -/
  | svcClusterOffline (q : Nat)
  /-- R416. Bring a cluster into service. -/
  | svcClusterOnline (q : Nat)
  /-- R417. Begin retiring a memory channel. -/
  | svcRetireChannel (ch : Nat)
  /-- R417. Move the retiring channel's lines and shrink memory. -/
  | svcProceedRetirement (ch : Nat)
  /-- R417. Retrain a memory channel, holding its accesses. -/
  | svcRetrainChannel (ch : Nat)
  /-- R415. Hand a die over to a new accepted Amiulo patch. -/
  | svcFirmwareHandover (val : Nat)
  /-- R392. A die-to-die module fails retraining and is retired. -/
  | ucieModuleFailure (link : Nat)
  /-- R440. Write TWINCTL.EN allowing training or forcing the link DOWN. -/
  | twinEnable (val : Nat)
  /-- R440. Writing RETRAIN takes the link DOWN and starts training. -/
  | twinRetrain
  /-- R438. Training ends UP with a rank, or DOWN with a reason. -/
  | linkTrainingComplete (ok : Nat)
  /-- R446. The link drops; taken collectives fail LINK_DOWN and keys are freed. -/
  | linkDownEvent (why : Nat)
  /-- R438. With EN 1 a DOWN link starts training again after 1 ms. -/
  | linkAutoRetrain
  /-- R442. A taken collective is matched with the peer's entry of the same key. -/
  | collectiveMatch (key opc rcode rtype len src : Nat)
  /-- R445. A peer rein arrives over the twin link and is checked by the router. -/
  | peerReinArrival (val : Nat)
  /-- R445. The peer's answer to a send writes k(D) on the sender. -/
  | peerReinAnswer (n ok : Nat)
  /-- R170. A write to a register with no behaviour of its own stores its RW fields. -/
  | registerWrite (who addr size val : Nat)
  /-- R365. A cache or the snoop filter evicts a line of its own accord, writing dirty bytes onward or back-invalidating a host copy. -/
  | cacheEviction (core line : Nat)
  /-- R169. A core supervisor's global store enters its own store queue and joins the core's store order. -/
  | supervisorStore (core addr size val : Nat)
  /-- R351. A host command with an unassigned OPC is read and completes with status BAD_COMMAND. -/
  | badCommand (hq : Nat)
  /-- R437. A twin-link flit fails its CRC and is replayed, raising REPLAYS. -/
  | flitReplay (n : Nat)
deriving DecidableEq, Repr

end Sys2Proof
end

