-- ==== Sys2Proof/Machine/Forms.lean ====
section
/-! DEFINITION. Forms.lean: the operand form of every instruction (02 R51 to R59 and the encoding tables of 04,
05, 08, 10, 13, 14): the class and width of each field, the literal's role, the registers it names, its latency.
R70 is settled from these. -/

namespace Sys2Proof

/-- The register class of a field (R52): unused, v, s, k, v or s by its S bit, or bits the entry gives a meaning
of its own. -/
inductive Cls where
  | none | v | s | k | vs | raw
deriving DecidableEq, Repr

/-- A field's class and the width code its entry requires; `none` admits any group (R53). -/
structure Fld where
  cls : Cls
  wid : Option Nat
deriving DecidableEq, Repr

/-- The literal roles of R55. -/
inductive Role where
  | dash | imm | immA | third | off | target | sel | ignored
deriving DecidableEq, Repr

/-- The form of one instruction, given its fields. `enc` and `opnd` are the entry's own checks that raise
ILLEGAL_ENCODING and ILLEGAL_OPERAND. -/
structure Sig where
  role : Role
  d : Fld
  a : Fld
  b : Fld
  c : Fld
  enc : Bool
  opnd : Bool
deriving DecidableEq, Repr

namespace Fld
def no : Fld := ⟨.none, some 0⟩
def v (w : Nat) : Fld := ⟨.v, some w⟩
def vg : Fld := ⟨.v, none⟩
def s (w : Nat) : Fld := ⟨.s, some w⟩
def k : Fld := ⟨.k, some 0⟩
def vs (w : Nat) : Fld := ⟨.vs, some w⟩
def vsg : Fld := ⟨.vs, none⟩
def raw : Fld := ⟨.raw, some 0⟩
end Fld

/-- A form with an optional literal role; the checks are those of the fields alone unless given. -/
def mkSig (role : Role) (d a b c : Fld) (enc : Bool) (opnd : Bool := true) : Sig := ⟨role, d, a, b, c, enc, opnd⟩

namespace Body
def mdN (x : Body) : Nat := x.md.toNat
/-- The type T of R100. -/
def ty (x : Body) : Nat := x.mdN % 4
/-- MOD[4:2] of R100. -/
def hi (x : Body) : Nat := x.mdN / 4
/-- Width code of an integer operand of type T: 0 single, 1 pair. -/
def wT (x : Body) : Nat := if x.ty ≥ 2 then 1 else 0
/-- Operand width in bits of type T. -/
def bitsT (x : Body) : Nat := if x.ty ≥ 2 then 64 else 32
/-- Registers of a width code. -/
def regs (w : BitVec 2) : Nat := 2 ^ w.toNat
def litN (x : Body) : Nat := (x.lit.getD 0#32).toNat
/-- The C literal's fields (R55). -/
def cIdx (x : Body) : Nat := x.litN % 256
def cW (x : Body) : Nat := x.litN / 256 % 4
def cS (x : Body) : Bool := x.litN.testBit 10
/-- An accumulating form: D is also the third source (R55). -/
def acc (x : Body) : Bool := x.lit.isNone
end Body

/-- The integer operations of R100, OP 0x000 to 0x019. -/
inductive IntOp where
  | mov | iadd | isub | iaddc | imul | imulh | imad | imin | imax | iabs | shl | shr | rot | and | or | xor
  | andn | bfe | bfi | popc | clz | brev | prmt | lea | icmp | sel
deriving DecidableEq, Repr

/-- R100: the forms of an integer operation, vector or uniform. That a MOV of a literal whose T does not fit the width of D has a wrong width,
ILLEGAL_OPERAND, and not a T that is not allowed, is the model's choice (log entry 46). -/
def intSig (o : IntOp) (u : Bool) (x : Body) : Sig :=
  let dv : Nat → Fld := fun w => if u then .s w else .v w
  let sv : Nat → Fld := fun w => if u then .s w else .vs w
  let w := x.wT
  let two (enc : Bool) : Sig := mkSig .imm (dv w) (sv w) (sv w) .no enc
  let cnt (enc : Bool) : Sig := mkSig .imm (dv w) (sv w) (sv 0) .no enc
  match o with
  | .mov =>
    if x.lit.isSome then mkSig .immA (dv w) (sv w) .no .no (decide (x.hi = 0))
    else mkSig .immA (if u then ⟨.s, none⟩ else .vg) (if u then ⟨.s, some x.dW.toNat⟩ else ⟨.vs, some x.dW.toNat⟩) .no .no
      (decide (x.mdN = 0))
  | .iadd | .isub => two (decide (x.hi ≤ 1))
  | .iaddc => two (decide (x.hi ≥ 1))
  | .imul | .imulh | .imin | .imax | .and | .or | .xor | .andn => two (decide (x.hi = 0))
  | .imad =>
    let wd := if x.hi = 1 then 1 else w
    mkSig .third (dv wd) (sv w) (sv w) (sv wd) (decide (x.hi = 0) || (decide (x.hi = 1) && decide (x.ty < 2)))
  | .iabs => mkSig .dash (dv w) (sv w) .no .no (decide (x.hi ≤ 1) && x.ty % 2 == 0)
  | .shl | .bfe => cnt (decide (x.hi = 0))
  | .shr | .rot => cnt (decide (x.hi ≤ 1))
  | .bfi => mkSig .third (dv w) (sv w) (sv 0) (sv w) (decide (x.hi = 0))
  | .popc | .clz => mkSig .dash (dv 0) (sv w) .no .no (decide (x.hi = 0))
  | .brev => mkSig .dash (dv w) (sv w) .no .no (decide (x.hi = 0))
  | .prmt => mkSig .third (dv 0) (sv 0) (sv 0) (sv 0) (decide (x.mdN ≤ 1))
  | .lea => mkSig .imm (dv 1) (sv 1) (sv w) .no true
  | .icmp => mkSig .imm (if u then .s 0 else .k) (sv w) (sv w) .no (decide (x.hi ≤ 5))
  | .sel => two true

/-- The format codes of FCVT (R128). -/
def fcvtFmt : Nat → Machine.Fmt
  | 0 => .f32 | 1 => .f16 | 2 => .bf16 | 3 => .e5m2 | 4 => .e4m3 | 5 => .e3m2 | 6 => .e2m3 | _ => .e2m1

/-- R127: elements of a `k`-bit format in `r` registers, register form. -/
def capacity (k r : Nat) : Nat := if k = 6 then 4 * r else 32 * r / k

/-- Element width of an ICVT type code (R130). -/
def icvtBits : Nat → Nat
  | 0 | 1 => 8 | 2 | 3 => 16 | 4 | 5 => 32 | 6 | 7 => 64 | 8 => 32 | _ => 16

/-- Element formats of FDOT4's MOD[2:0] (R133). -/
def fdotFmt : Nat → Machine.Fmt
  | 0 => .e4m3 | 1 => .e5m2 | 2 => .e3m2 | 3 => .e2m3 | 4 => .e2m1 | 5 => .f16 | _ => .bf16

/-- R128, R129: elements converted by FCVT. -/
def fcvtCount (x : Body) : Nat :=
  min (capacity (fcvtFmt (x.b.toNat / 8 % 8)).bits (Body.regs x.aW)) (capacity (fcvtFmt (x.b.toNat % 8)).bits (Body.regs x.dW))

/-- R129: the random registers of a stochastic FCVT, as first index and count. -/
def fcvtRandom (x : Body) : Nat × Nat :=
  if x.mdN % 8 = 4 then (x.a.toNat + Body.regs x.aW, (fcvtCount x + 1) / 2) else (0, 0)

/-- R133: whether FDOT4 or IDOT4 takes 16 registers per source. -/
def Body.x2 (x : Body) : Bool := x.md.getLsbD 4

/-- R133: the chunk length K of FDOT4. -/
def fdotCount (x : Body) : Nat := capacity (fdotFmt (x.mdN % 8)).bits (if x.x2 then 16 else Body.regs x.aW)

/-- Width code of a load or store's register group (R176). -/
def memWid : Nat → Nat
  | 5 => 1 | 6 => 2 | 7 => 3 | _ => 0

/-- Bytes of a load or store type (R176). -/
def memBytes : Nat → Nat
  | 0 | 1 => 1 | 2 | 3 => 2 | 4 => 4 | 5 => 8 | 6 => 16 | _ => 32

/-- R187, R173: an address operand of ATOM, LDA or STL, whose width chooses the form: scratchpad or global. -/
def addrEither (x : Body) : Fld := ⟨.vs, some (min x.aW.toNat 1)⟩

/-- R295: the operands of TQPUSH, NREC and LAUNCH. -/
def workSig (x : Body) (b : Fld) : Sig :=
  let m := x.mdN % 4
  let w := if m < 2 then 1 else 0
  let f : Nat → Fld := fun w => if m % 2 = 1 then .s w else .v w
  mkSig .off (f 0) (f w) b .no (decide (x.mdN ≤ 3))

/-- The form of an instruction in I64 terms; an event has none. The I32 and C16 rows take that of their core. -/
def Instr.coreSig : Instr → Option (Body × Sig)
  | .mov x => some (x, intSig .mov false x) | .iadd x => some (x, intSig .iadd false x)
  | .isub x => some (x, intSig .isub false x) | .iaddc x => some (x, intSig .iaddc false x)
  | .imul x => some (x, intSig .imul false x) | .imulh x => some (x, intSig .imulh false x)
  | .imad x => some (x, intSig .imad false x) | .imin x => some (x, intSig .imin false x)
  | .imax x => some (x, intSig .imax false x) | .iabs x => some (x, intSig .iabs false x)
  | .shl x => some (x, intSig .shl false x) | .shr x => some (x, intSig .shr false x)
  | .rot x => some (x, intSig .rot false x) | .and x => some (x, intSig .and false x)
  | .or x => some (x, intSig .or false x) | .xor x => some (x, intSig .xor false x)
  | .andn x => some (x, intSig .andn false x) | .bfe x => some (x, intSig .bfe false x)
  | .bfi x => some (x, intSig .bfi false x) | .popc x => some (x, intSig .popc false x)
  | .clz x => some (x, intSig .clz false x) | .brev x => some (x, intSig .brev false x)
  | .prmt x => some (x, intSig .prmt false x) | .lea x => some (x, intSig .lea false x)
  | .icmp x => some (x, intSig .icmp false x) | .sel x => some (x, intSig .sel false x)
  | .movU x => some (x, intSig .mov true x) | .iaddU x => some (x, intSig .iadd true x)
  | .isubU x => some (x, intSig .isub true x) | .iaddcU x => some (x, intSig .iaddc true x)
  | .imulU x => some (x, intSig .imul true x) | .imulhU x => some (x, intSig .imulh true x)
  | .imadU x => some (x, intSig .imad true x) | .iminU x => some (x, intSig .imin true x)
  | .imaxU x => some (x, intSig .imax true x) | .iabsU x => some (x, intSig .iabs true x)
  | .shlU x => some (x, intSig .shl true x) | .shrU x => some (x, intSig .shr true x)
  | .rotU x => some (x, intSig .rot true x) | .andU x => some (x, intSig .and true x)
  | .orU x => some (x, intSig .or true x) | .xorU x => some (x, intSig .xor true x)
  | .andnU x => some (x, intSig .andn true x) | .bfeU x => some (x, intSig .bfe true x)
  | .bfiU x => some (x, intSig .bfi true x) | .popcU x => some (x, intSig .popc true x)
  | .clzU x => some (x, intSig .clz true x) | .brevU x => some (x, intSig .brev true x)
  | .prmtU x => some (x, intSig .prmt true x) | .leaU x => some (x, intSig .lea true x)
  | .icmpU x => some (x, intSig .icmp true x) | .selU x => some (x, intSig .sel true x)
  -- binary32 (R120)
  | .fadd x | .fsub x | .fmul x =>
    some (x, mkSig .imm (.v 0) (.vs 0) (.vs 0) .no (decide (x.mdN % 8 ≤ 3) && decide (x.mdN < 16)))
  | .ffma x => some (x, mkSig .third (.v 0) (.vs 0) (.vs 0) (.vs 0) (decide (x.mdN % 8 ≤ 3) && decide (x.mdN < 16)))
  | .ffma3 x => some (x, mkSig .third (.v 1) (.vs 0) (.vs 0) (.vs 1) (decide (x.mdN ≤ 3)))
  | .fmin x | .fmax x => some (x, mkSig .imm (.v 0) (.vs 0) (.vs 0) .no (decide (x.mdN = 0)))
  | .fcmp x => some (x, mkSig .imm .k (.vs 0) (.vs 0) .no (decide (x.mdN < 16)))
  | .fclass x => some (x, mkSig .dash (.v 0) (.vs 0) .no .no (decide (x.mdN ≤ 2)))
  | .frnd x => some (x, mkSig .dash (.v 0) (.vs 0) .no .no (decide (x.mdN % 8 ≤ 3) && decide (x.mdN < 16)))
  -- conversions (R128, R130)
  | .fcvt x =>
    let sr := x.mdN % 8 = 4
    some (x, mkSig .dash .vg .vsg .raw .no
      (decide (x.mdN % 8 ≤ 4) && decide (x.mdN < 16) && decide (x.b.toNat < 64) && !x.bS && !(decide sr && x.aS))
      (!(decide sr) || decide ((fcvtRandom x).1 + (fcvtRandom x).2 ≤ 256)))
  | .icvt x =>
    let src := x.b.toNat / 16
    let dst := x.b.toNat % 16
    some (x, mkSig .dash .vg .vsg .raw .no
      (decide (x.mdN % 8 ≤ 3) && decide (x.mdN < 16) && decide (src ≤ 10) && decide (dst ≤ 10) && !x.bS
        && !(decide (src ≥ 8) && decide (dst ≥ 8)) && !(decide (src ≥ 8) && decide (dst < 8) && x.md.getLsbD 3))
      (decide (capacity (icvtBits src) (Body.regs x.aW) > 0) && decide (capacity (icvtBits dst) (Body.regs x.dW) > 0)))
  -- packed pairs (R131)
  | .hadd2 x | .hmul2 x => some (x, mkSig .imm (.v 0) (.vs 0) (.vs 0) .no (decide (x.mdN / 2 % 8 ≤ 3)))
  | .hfma2 x => some (x, mkSig .third (.v 0) (.vs 0) (.vs 0) (.vs 0) (decide (x.mdN / 2 % 8 ≤ 3)))
  | .hmnx2 x => some (x, mkSig .imm (.v 0) (.vs 0) (.vs 0) .no (decide (x.mdN ≤ 3)))
  -- dot products (R133)
  | .fdot4 x =>
    let f := x.mdN % 8
    let mx := x.md.getLsbD 3
    let wd := if mx then 1 else 0
    some (x, mkSig .third (.v wd) .vsg .vsg (.vs wd)
      (decide (f ≠ 7) && (!mx || decide (f ≤ 4)) && (!x.x2 || (decide (f ≥ 5) && x.aW == 3#2 && x.bW == 3#2)))
      (x.aW == x.bW && decide (fdotCount x ≤ 32) && (!mx || decide (fdotCount x = 32))
        && (!x.x2 || (x.a.toNat % 16 == 0 && x.b.toNat % 16 == 0))))
  | .idot4 x =>
    let k := capacity (if x.md.getLsbD 2 then 4 else 8) (Body.regs x.aW)
    some (x, mkSig .third (.v 0) .vsg .vsg (.vs 0) (decide (x.mdN ≤ 7)) (x.aW == x.bW && decide (k ≤ 32)))
  -- block-scaled packing (R136)
  | .mxunpk x =>
    some (x, mkSig .dash .vg ⟨.vs, some (if x.mdN % 8 = 4 then 2 else 3)⟩ (.vs 0) .no (decide (x.mdN % 8 ≤ 4)))
  | .mxpack x =>
    some (x, mkSig .dash (.v (if x.mdN % 8 = 4 then 2 else 3)) .vsg (.vs 0) .no (decide (x.mdN % 8 ≤ 4)))
  -- special functions and the table (R138, R142, R146)
  | .fexp2 x | .flog2 x | .frcp x | .frsq x | .fsqrt x | .fsin x | .fcos x | .ftanh x | .ferf x | .tbleval x =>
    some (x, mkSig .dash (.v 0) (.vs 0) .no .no (decide (x.mdN = 0)))
  | .tblset x => some (x, mkSig .off .no (.s 1) .no .no (decide (x.mdN = 0)))
  | .tblcommit x => some (x, mkSig .dash .no .no .no .no (decide (x.mdN = 0)))
  | .rngx x => some (x, mkSig .dash (.v 2) (.s 1) (.vs 2) .no (decide (x.mdN = 0)))
  -- predicates (R107)
  | .kand x | .kor x | .kxor x => some (x, mkSig .dash .k .k .k .no (decide (x.mdN = 0)))
  | .knot x | .kmov x => some (x, mkSig .dash .k .k .no .no (decide (x.mdN = 0)))
  | .kmovKS x => some (x, mkSig .dash .k (.s 0) .no .no (decide (x.mdN = 1)))
  | .kmovSK x => some (x, mkSig .dash (.s 0) .k .no .no (decide (x.mdN = 2)))
  -- across lanes (R147)
  | .lpart x => some (x, mkSig .dash .no .no .no .no (decide (x.mdN ≤ 4)))
  | .shfl x => some (x, mkSig .imm (.v (min x.dW.toNat 1)) (.v (min x.dW.toNat 1)) (.vs 0) .no true)
  | .vote x => some (x, mkSig .dash (if x.mdN = 3 then .v 0 else .k) .k .no .no (decide (x.mdN ≤ 3)))
  | .redux x => some (x, mkSig .dash (.v 0) (.v 0) .no .no (decide (x.mdN ≤ 10)))
  | .scan x => some (x, mkSig .dash (.v 0) (.v 0) .no .no (decide (x.mdN % 16 ≤ 10)))
  | .matchLanes x => some (x, mkSig .dash (.v 0) (.v (min x.aW.toNat 1)) .no .no (decide (x.mdN = 0)))
  | .bcast x => some (x, mkSig .imm (.v (min x.dW.toNat 1)) (.v (min x.dW.toNat 1)) (.s 0) .no (decide (x.mdN = 0)))
  -- control (R109, R113)
  | .bra x => some (x, mkSig .target .no .no .no .no (decide (x.mdN = 0)))
  | .brx x _ => some (x, mkSig .dash .no (.v 1) .no .no (decide (x.mdN = 0)))
  | .call x => some (x, mkSig .target (.v 1) .no .no .no (decide (x.mdN = 0)))
  | .callx x _ => some (x, mkSig .dash (.v 1) (.v 1) .no .no (decide (x.mdN = 0)))
  | .ret x => some (x, mkSig .dash .no (.v 1) .no .no (decide (x.mdN = 0)))
  | .yield x | .exit x | .kill x | .waitd x | .hrel x | .hswap x | .mlabort x =>
    some (x, mkSig .dash .no .no .no .no (decide (x.mdN = 0)))
  | .nop x => some (x, mkSig .ignored .no .no .no .no (decide (x.mdN = 0)))
  -- system (R114, R116, R117)
  | .trap x | .bkpt x => some (x, mkSig .imm .no .no (.s 0) .no (decide (x.mdN = 0)))
  | .rcsr x => some (x, mkSig .sel (.s 0) .no .no .no (decide (x.mdN = 0) && decide (x.litN ≤ 5)))
  | .wcsr x => some (x, mkSig .sel .no (.s 0) .no .no (decide (x.mdN = 0) && decide (x.litN = 0)))
  | .srd x =>
    let w := if x.litN = 8 || x.litN = 9 then 1 else 0
    some (x, mkSig .sel (if x.mdN = 1 then .s w else .v w) .no .no .no
      (decide (x.mdN ≤ 1) && decide (x.litN ≤ 10) && !(decide (x.mdN = 1) && decide (x.litN ≤ 1))))
  | .quotaGive x => some (x, mkSig .imm (.s 0) (.s 0) (.s 0) .no (decide (x.mdN = 0)))
  | .quotaRel x => some (x, mkSig .imm (.s 0) .no (.s 0) .no (decide (x.mdN = 1)))
  | .quotaTake x => some (x, mkSig .imm (.s 0) .no (.s 0) .no (decide (x.mdN = 2)))
  | .icinv x => some (x, mkSig .dash .no (.s 1) (.s 0) .no (decide (x.mdN = 0)))
  | .icinvAll x => some (x, mkSig .dash .no .no .no .no (decide (x.mdN = 1)))
  -- memory (R175, R181 to R184, R189)
  | .ld x => some (x, mkSig .off (.v (memWid (x.mdN % 8))) (.vs 1) .no .no (decide (x.mdN / 8 ≤ 2)))
  | .st x => some (x, mkSig .off .no (.vs 1) (.vs (memWid (x.mdN % 8))) .no (decide (x.mdN / 8 ≤ 2)))
  | .lds x => some (x, mkSig .off (.v (memWid x.mdN)) (.vs 0) .no .no (decide (x.mdN ≤ 7)))
  | .sts x => some (x, mkSig .off .no (.vs 0) (.vs (memWid x.mdN)) .no (decide (x.mdN ≤ 7)))
  | .ldw x => some (x, mkSig .off (.v (memWid x.mdN)) (.vs 1) .no .no (decide (x.mdN ≤ 5)))
  | .stw x => some (x, mkSig .off .no (.vs 1) (.vs (memWid x.mdN)) .no (decide (x.mdN ≤ 5)))
  | .pf x => some (x, mkSig .off .no (.vs 1) .no .no (decide (x.mdN ≤ 2)))
  | .lda x => some (x, mkSig .off (.v (x.mdN % 4)) (addrEither x) .no .no (decide (x.mdN % 4 ≤ 2) && decide (x.mdN / 4 ≤ 6)))
  | .stl x => some (x, mkSig .off .no (addrEither x) (.vs (x.mdN % 4)) .no (decide (x.mdN % 4 ≤ 2) && decide (x.mdN / 4 ≤ 6)))
  | .fence x => some (x, mkSig .dash .no .no .no .no (decide (x.mdN % 8 ≤ 6) && decide (x.mdN / 8 ≤ 2)))
  | .clean x | .inval x => some (x, mkSig .off .no (.s 1) (.s 0) .no (decide (x.mdN ≤ 6)))
  | .atom x =>
    let w := x.mdN / 16
    some (x, mkSig .off (.v w) (addrEither x) (.vs (if x.mdN % 16 = 9 then w + 1 else w)) .no (decide (x.mdN % 16 ≤ 14)))
  | .atomf x =>
    let w := x.mdN / 16
    some (x, mkSig .off (.v w) (.vs 1) (.vs (if x.mdN % 16 = 9 then w + 1 else w)) .no (decide (x.mdN % 16 ≤ 14)))
  | .red x =>
    let c := x.mdN % 16
    some (x, mkSig .off .no (.vs 1) (.vs (x.mdN / 16)) .no (decide (c ≤ 14) && !(decide (8 ≤ c) && decide (c ≤ 11))))
  | .mlres x => some (x, mkSig .off (.s x.mdN) (.s 1) .no .no (decide (x.mdN ≤ 3)))
  | .mlst x => some (x, mkSig .off .no (.s 1) (.s x.mdN) .no (decide (x.mdN ≤ 3)))
  | .mlcommit x => some (x, mkSig .dash (.s 0) .no .no .no (decide (x.mdN ≤ 6)))
  -- barriers, semaphores, monitor (R194, R199, R200)
  | .barinit x | .semadd x | .semwait x | .semset x => some (x, mkSig .imm .no (.s 0) (.s 0) .no (decide (x.mdN = 0)))
  | .barenrol x | .bararv x | .barwait x | .barsync x | .cpwait x =>
    some (x, mkSig .immA .no (.s 0) .no .no (decide (x.mdN = 0)))
  | .barq x => some (x, mkSig .immA (.s 0) (.s 0) .no .no (decide (x.mdN = 0)))
  | .monarm x => some (x, mkSig .off .no (.s 1) .no .no (decide (x.mdN = 0)))
  | .monwait x => some (x, mkSig .dash (.s 0) .no (.s 0) .no (decide (x.mdN = 0)))
  -- copies and reins (R210, R211, R212)
  | .cpseal x | .rwait x => some (x, mkSig .dash (.s 0) .no .no .no (decide (x.mdN = 0)))
  | .rsend x => some (x, mkSig .imm .k (.s 1) (.s 0) .no (decide (x.mdN = 0) && x.aW == 1#2))    -- R212: a mismatched field
  | .rtake x => some (x, mkSig .dash (.s 2) (.s 0) .no .no (decide (x.mdN = 0) && x.dW == 2#2))
  | .rtakeAny x => some (x, mkSig .dash (.s 2) .no .no .no (decide (x.mdN = 1) && x.dW == 2#2))
  | .rmaskSet x => some (x, mkSig .immA .no (.s 0) .no .no (decide (x.mdN = 0)))
  | .rmaskClr x => some (x, mkSig .immA .no (.s 0) .no .no (decide (x.mdN = 1)))
  | .rmaskWr x => some (x, mkSig .immA .no (.s 0) .no .no (decide (x.mdN = 2)))
  -- the harness (R238)
  | .hmust x => some (x, mkSig .imm .no .no (.s 0) .no (decide (x.mdN ≤ 15)))
  | .hlda x => some (x, mkSig .off .no (.s 0) (.s 0) .no (decide (x.mdN = 0)))
  | .hldaNone x => some (x, mkSig .dash .no .no .no .no (decide (x.mdN = 1)))
  | .hldb x => some (x, mkSig .off .no (.s 2) .no .no (decide (x.mdN ≤ 5)))
  | .hlds x => some (x, mkSig .off .no (.s 2) (.s 0) .no (decide (x.mdN ≤ 2)))
  | .hmma x => some (x, mkSig .imm .no (.s 2) (.s 0) .no (decide (x.mdN = 0)))
  | .hzero x => some (x, mkSig .dash .no .no (.s 0) .no (decide (x.mdN = 0)))
  | .hrowsc x => some (x, mkSig .dash .no .vg (.s 0) .no (decide (x.mdN = 0)))
  | .hdrnReg x =>
    let f := x.mdN % 16
    some (x, mkSig .dash .vg .no (.s 0) .no
      (decide (f ≤ 8) && !(decide (x.mdN ≥ 16) && (f == 0 || f == 8)) && x.d != 0#8))
  | .hdrnSp x =>
    let f := x.mdN % 16
    some (x, mkSig .off .no (.s 2) (.s 0) .no
      (decide (f ≤ 8) && !(decide (x.mdN ≥ 16) && (f == 0 || f == 8)) && x.a != 0#8))
  | .hboxt x => some (x, mkSig .dash (.v 0) (.s 0) (.s 0) .no (decide (x.mdN ≤ 7)))
  | .hstat x => some (x, mkSig .dash (.s 2) .no .no .no (decide (x.mdN = 0)))
  -- cluster work and the beam unit (R295, R313)
  | .tqpush x | .nrec x => some (x, workSig x (.s 0))
  | .launch x => some (x, workSig x .no)
  | .bqry x => some (x, mkSig .off (.s 0) (.s 1) (.s 2) .no (decide (x.mdN = 0)))
  | .bray x => some (x, mkSig .off (.v 0) (.v 1) (.s 2) .no (decide (x.mdN = 0)))
  | .bstat x => some (x, mkSig .dash (.s 2) (.s 0) .no .no (decide (x.mdN ≤ 3)))
  | _ => none

namespace C16
/-- The fields of the I64 form of a C16 row of two sources: D, D, B with STALL L − 1 (R49). -/
def body (x : C16) (stall : Nat) : Body :=
  { d := x.d.setWidth 8, a := x.d.setWidth 8, b := x.b.setWidth 8, stall := BitVec.ofNat 3 stall }
/-- C.MOV D, B is MOV D, B, whose one source is the A field (R49, R100). -/
def moveBody (x : C16) : Body := { d := x.d.setWidth 8, a := x.b.setWidth 8, stall := 3#3 }
end C16

namespace I32
/-- The fields of the I64 form of an I32 row of two sources (R50). -/
def body (x : I32) (md : BitVec 5) : Body :=
  { md := md, d := x.d.setWidth 8, a := x.a.setWidth 8, b := x.b.setWidth 8, stall := x.stall }
/-- The same for a single-source row; `b` holds format codes where the I64 form has them (R50, R128, R130). -/
def body1 (x : I32) (md : BitVec 5) (b : BitVec 8) : Body :=
  { md := md, d := x.d.setWidth 8, a := x.a.setWidth 8, b := b, stall := x.stall }
end I32

/-- The I64 form a C16 or I32 instruction has the effect of (R49, R50); any other step is its own. -/
def Instr.core : Instr → Instr
  | .cMov x => .mov (x.moveBody)
  | .cIadd x => .iadd (x.body 3)
  | .cIsub x => .isub (x.body 3)
  | .cAnd x => .and (x.body 3)
  | .cOr x => .or (x.body 3)
  | .cXor x => .xor (x.body 3)
  | .cShl x => .shl (x.body 3)
  | .cShr x => .shr (x.body 3)
  | .cFadd x => .fadd (x.body 5)
  | .cFsub x => .fsub (x.body 5)
  | .cFmul x => .fmul (x.body 5)
  | .cFmin x => .fmin (x.body 5)
  | .cFmax x => .fmax (x.body 5)
  | .cImul x => .imul (x.body 5)
  | .cImax x => .imax (x.body 3)
  | .cImin x => .imin (x.body 3)
  | .i32Mov x => .mov (x.body1 0#5 0#8)
  | .i32Iadd x => .iadd (x.body 0#5)
  | .i32Isub x => .isub (x.body 0#5)
  | .i32Imul x => .imul (x.body 0#5)
  | .i32ImulhI32 x => .imulh (x.body 0#5)
  | .i32ImulhN32 x => .imulh (x.body 1#5)
  | .i32Imad x => .imad (x.body 0#5)
  | .i32IminI32 x => .imin (x.body 0#5)
  | .i32ImaxI32 x => .imax (x.body 0#5)
  | .i32IminN32 x => .imin (x.body 1#5)
  | .i32ImaxN32 x => .imax (x.body 1#5)
  | .i32Iabs x => .iabs (x.body1 0#5 0#8)
  | .i32Shl x => .shl (x.body 0#5)
  | .i32Shr x => .shr (x.body 0#5)
  | .i32ShrA x => .shr (x.body 4#5)
  | .i32Rot x => .rot (x.body 0#5)
  | .i32And x => .and (x.body 0#5)
  | .i32Or x => .or (x.body 0#5)
  | .i32Xor x => .xor (x.body 0#5)
  | .i32Andn x => .andn (x.body 0#5)
  | .i32Popc x => .popc (x.body1 0#5 0#8)
  | .i32Clz x => .clz (x.body1 0#5 0#8)
  | .i32Brev x => .brev (x.body1 0#5 0#8)
  | .i32Fadd x => .fadd (x.body 0#5)
  | .i32Fsub x => .fsub (x.body 0#5)
  | .i32Fmul x => .fmul (x.body 0#5)
  | .i32Ffma x => .ffma (x.body 0#5)
  | .i32Fmin x => .fmin (x.body 0#5)
  | .i32Fmax x => .fmax (x.body 0#5)
  | .i32FaddRtz x => .fadd (x.body 1#5)
  | .i32FmulRtz x => .fmul (x.body 1#5)
  | .i32FfmaRtz x => .ffma (x.body 1#5)
  | .i32FrndRne x => .frnd (x.body1 0#5 0#8)
  | .i32FrndRdn x => .frnd (x.body1 2#5 0#8)
  | .i32FrndRup x => .frnd (x.body1 3#5 0#8)
  | .i32FrndRtz x => .frnd (x.body1 1#5 0#8)
  | .i32Hadd2F16 x => .hadd2 (x.body 0#5)
  | .i32Hmul2F16 x => .hmul2 (x.body 0#5)
  | .i32Hfma2F16 x => .hfma2 (x.body 0#5)
  | .i32Hadd2Bf16 x => .hadd2 (x.body 1#5)
  | .i32Hmul2Bf16 x => .hmul2 (x.body 1#5)
  | .i32Hfma2Bf16 x => .hfma2 (x.body 1#5)
  | .i32FcvtF32F16 x => .fcvt (x.body1 0#5 8#8)
  | .i32FcvtF32Bf16 x => .fcvt (x.body1 0#5 16#8)
  | .i32FcvtF16F32 x => .fcvt (x.body1 0#5 1#8)
  | .i32FcvtBf16F32 x => .fcvt (x.body1 0#5 2#8)
  | .i32FcvtF32E4m3 x => .fcvt (x.body1 0#5 32#8)
  | .i32FcvtF32E5m2 x => .fcvt (x.body1 0#5 24#8)
  | .i32IcvtF32I32 x => .icvt (x.body1 0#5 72#8)
  | .i32IcvtF32N32 x => .icvt (x.body1 0#5 88#8)
  | .i32IcvtI32F32 x => .icvt (x.body1 1#5 132#8)
  | .i32IcvtN32F32 x => .icvt (x.body1 1#5 133#8)
  | .i32Fdot4E4m3 x => .fdot4 (x.body 0#5)
  | .i32Fdot4E5m2 x => .fdot4 (x.body 1#5)
  | .i32Idot4I8 x => .idot4 (x.body 0#5)
  | .i32Idot4N8 x => .idot4 (x.body 3#5)
  | .i32Hmnx2MinF16 x => .hmnx2 (x.body 0#5)
  | .i32Hmnx2MaxF16 x => .hmnx2 (x.body 2#5)
  | .i32Hmnx2MinBf16 x => .hmnx2 (x.body 1#5)
  | .i32Hmnx2MaxBf16 x => .hmnx2 (x.body 3#5)
  | .i32FaddRdn x => .fadd (x.body 2#5)
  | .i32FaddRup x => .fadd (x.body 3#5)
  | .i32FmulRdn x => .fmul (x.body 2#5)
  | .i32FmulRup x => .fmul (x.body 3#5)
  | i => i

/-- The OP value and the fields of an I64 or I96 instruction, with its target list (R59). -/
def Instr.i64 : Instr → Option (Nat × Body × List Word)
  | .mov x => some (0x000, x, [])
  | .iadd x => some (0x001, x, [])
  | .isub x => some (0x002, x, [])
  | .iaddc x => some (0x003, x, [])
  | .imul x => some (0x004, x, [])
  | .imulh x => some (0x005, x, [])
  | .imad x => some (0x006, x, [])
  | .imin x => some (0x007, x, [])
  | .imax x => some (0x008, x, [])
  | .iabs x => some (0x009, x, [])
  | .shl x => some (0x00A, x, [])
  | .shr x => some (0x00B, x, [])
  | .rot x => some (0x00C, x, [])
  | .and x => some (0x00D, x, [])
  | .or x => some (0x00E, x, [])
  | .xor x => some (0x00F, x, [])
  | .andn x => some (0x010, x, [])
  | .bfe x => some (0x011, x, [])
  | .bfi x => some (0x012, x, [])
  | .popc x => some (0x013, x, [])
  | .clz x => some (0x014, x, [])
  | .brev x => some (0x015, x, [])
  | .prmt x => some (0x016, x, [])
  | .lea x => some (0x017, x, [])
  | .icmp x => some (0x018, x, [])
  | .sel x => some (0x019, x, [])
  | .movU x => some (0x040, x, [])
  | .iaddU x => some (0x041, x, [])
  | .isubU x => some (0x042, x, [])
  | .iaddcU x => some (0x043, x, [])
  | .imulU x => some (0x044, x, [])
  | .imulhU x => some (0x045, x, [])
  | .imadU x => some (0x046, x, [])
  | .iminU x => some (0x047, x, [])
  | .imaxU x => some (0x048, x, [])
  | .iabsU x => some (0x049, x, [])
  | .shlU x => some (0x04A, x, [])
  | .shrU x => some (0x04B, x, [])
  | .rotU x => some (0x04C, x, [])
  | .andU x => some (0x04D, x, [])
  | .orU x => some (0x04E, x, [])
  | .xorU x => some (0x04F, x, [])
  | .andnU x => some (0x050, x, [])
  | .bfeU x => some (0x051, x, [])
  | .bfiU x => some (0x052, x, [])
  | .popcU x => some (0x053, x, [])
  | .clzU x => some (0x054, x, [])
  | .brevU x => some (0x055, x, [])
  | .prmtU x => some (0x056, x, [])
  | .leaU x => some (0x057, x, [])
  | .icmpU x => some (0x058, x, [])
  | .selU x => some (0x059, x, [])
  | .fadd x => some (0x080, x, [])
  | .fsub x => some (0x081, x, [])
  | .fmul x => some (0x082, x, [])
  | .ffma x => some (0x083, x, [])
  | .ffma3 x => some (0x084, x, [])
  | .fmin x => some (0x085, x, [])
  | .fmax x => some (0x086, x, [])
  | .fcmp x => some (0x087, x, [])
  | .fclass x => some (0x088, x, [])
  | .frnd x => some (0x089, x, [])
  | .fcvt x => some (0x08A, x, [])
  | .icvt x => some (0x08B, x, [])
  | .hadd2 x => some (0x090, x, [])
  | .hmul2 x => some (0x091, x, [])
  | .hfma2 x => some (0x092, x, [])
  | .hmnx2 x => some (0x093, x, [])
  | .fdot4 x => some (0x098, x, [])
  | .idot4 x => some (0x099, x, [])
  | .mxunpk x => some (0x09C, x, [])
  | .mxpack x => some (0x09D, x, [])
  | .fexp2 x => some (0x0A0, x, [])
  | .flog2 x => some (0x0A1, x, [])
  | .frcp x => some (0x0A2, x, [])
  | .frsq x => some (0x0A3, x, [])
  | .fsqrt x => some (0x0A4, x, [])
  | .fsin x => some (0x0A5, x, [])
  | .fcos x => some (0x0A6, x, [])
  | .ftanh x => some (0x0A7, x, [])
  | .ferf x => some (0x0A8, x, [])
  | .tblset x => some (0x0B0, x, [])
  | .tblcommit x => some (0x0B1, x, [])
  | .tbleval x => some (0x0B2, x, [])
  | .rngx x => some (0x0B8, x, [])
  | .kand x => some (0x100, x, [])
  | .kor x => some (0x101, x, [])
  | .kxor x => some (0x102, x, [])
  | .knot x => some (0x103, x, [])
  | .kmov x => some (0x104, x, [])
  | .kmovKS x => some (0x104, x, [])
  | .kmovSK x => some (0x104, x, [])
  | .lpart x => some (0x110, x, [])
  | .shfl x => some (0x111, x, [])
  | .vote x => some (0x112, x, [])
  | .redux x => some (0x113, x, [])
  | .scan x => some (0x114, x, [])
  | .matchLanes x => some (0x115, x, [])
  | .bcast x => some (0x116, x, [])
  | .bra x => some (0x140, x, [])
  | .brx x ts => some (0x141, x, ts)
  | .call x => some (0x142, x, [])
  | .callx x ts => some (0x143, x, ts)
  | .ret x => some (0x144, x, [])
  | .yield x => some (0x145, x, [])
  | .exit x => some (0x146, x, [])
  | .kill x => some (0x147, x, [])
  | .nop x => some (0x148, x, [])
  | .waitd x => some (0x149, x, [])
  | .trap x => some (0x150, x, [])
  | .bkpt x => some (0x151, x, [])
  | .rcsr x => some (0x152, x, [])
  | .wcsr x => some (0x153, x, [])
  | .srd x => some (0x154, x, [])
  | .quotaGive x => some (0x155, x, [])
  | .quotaRel x => some (0x155, x, [])
  | .quotaTake x => some (0x155, x, [])
  | .icinv x => some (0x156, x, [])
  | .icinvAll x => some (0x156, x, [])
  | .ld x => some (0x180, x, [])
  | .st x => some (0x181, x, [])
  | .lds x => some (0x182, x, [])
  | .sts x => some (0x183, x, [])
  | .ldw x => some (0x184, x, [])
  | .stw x => some (0x185, x, [])
  | .pf x => some (0x186, x, [])
  | .lda x => some (0x187, x, [])
  | .stl x => some (0x188, x, [])
  | .fence x => some (0x1A2, x, [])
  | .clean x => some (0x1A0, x, [])
  | .inval x => some (0x1A1, x, [])
  | .atom x => some (0x190, x, [])
  | .atomf x => some (0x191, x, [])
  | .red x => some (0x192, x, [])
  | .mlres x => some (0x198, x, [])
  | .mlst x => some (0x199, x, [])
  | .mlcommit x => some (0x19A, x, [])
  | .mlabort x => some (0x19B, x, [])
  | .barinit x => some (0x1C0, x, [])
  | .barenrol x => some (0x1C1, x, [])
  | .bararv x => some (0x1C2, x, [])
  | .barwait x => some (0x1C3, x, [])
  | .barsync x => some (0x1C4, x, [])
  | .barq x => some (0x1C5, x, [])
  | .semadd x => some (0x1C8, x, [])
  | .semwait x => some (0x1C9, x, [])
  | .semset x => some (0x1CA, x, [])
  | .monarm x => some (0x1CC, x, [])
  | .monwait x => some (0x1CD, x, [])
  | .cpseal x => some (0x1D0, x, [])
  | .cpwait x => some (0x1D1, x, [])
  | .rsend x => some (0x1D8, x, [])
  | .rwait x => some (0x1D9, x, [])
  | .rtake x => some (0x1DA, x, [])
  | .rtakeAny x => some (0x1DA, x, [])
  | .rmaskSet x => some (0x1DB, x, [])
  | .rmaskClr x => some (0x1DB, x, [])
  | .rmaskWr x => some (0x1DB, x, [])
  | .hmust x => some (0x1E0, x, [])
  | .hrel x => some (0x1E1, x, [])
  | .hlda x => some (0x1E2, x, [])
  | .hldaNone x => some (0x1E2, x, [])
  | .hldb x => some (0x1E3, x, [])
  | .hswap x => some (0x1E4, x, [])
  | .hlds x => some (0x1E5, x, [])
  | .hmma x => some (0x1E6, x, [])
  | .hzero x => some (0x1E7, x, [])
  | .hrowsc x => some (0x1E8, x, [])
  | .hdrnReg x => some (0x1E9, x, [])
  | .hdrnSp x => some (0x1E9, x, [])
  | .hboxt x => some (0x1EA, x, [])
  | .hstat x => some (0x1EB, x, [])
  | .tqpush x => some (0x1F0, x, [])
  | .nrec x => some (0x1F1, x, [])
  | .launch x => some (0x1F2, x, [])
  | .bqry x => some (0x1F4, x, [])
  | .bray x => some (0x1F5, x, [])
  | .bstat x => some (0x1F6, x, [])
  | _ => none

/-- The op4 value of a C16 instruction (R49). -/
def Instr.c16 : Instr → Option (Nat × C16)
  | .cMov x => some (0, x)
  | .cIadd x => some (1, x)
  | .cIsub x => some (2, x)
  | .cAnd x => some (3, x)
  | .cOr x => some (4, x)
  | .cXor x => some (5, x)
  | .cShl x => some (6, x)
  | .cShr x => some (7, x)
  | .cFadd x => some (8, x)
  | .cFsub x => some (9, x)
  | .cFmul x => some (10, x)
  | .cFmin x => some (11, x)
  | .cFmax x => some (12, x)
  | .cImul x => some (13, x)
  | .cImax x => some (14, x)
  | .cImin x => some (15, x)
  | _ => none

/-- The C16 row of an op4 value (R49). -/
def ofOp4 (op : Nat) (x : C16) : Option Instr :=
  match op with
  | 0 => some (.cMov x)
  | 1 => some (.cIadd x)
  | 2 => some (.cIsub x)
  | 3 => some (.cAnd x)
  | 4 => some (.cOr x)
  | 5 => some (.cXor x)
  | 6 => some (.cShl x)
  | 7 => some (.cShr x)
  | 8 => some (.cFadd x)
  | 9 => some (.cFsub x)
  | 10 => some (.cFmul x)
  | 11 => some (.cFmin x)
  | 12 => some (.cFmax x)
  | 13 => some (.cImul x)
  | 14 => some (.cImax x)
  | 15 => some (.cImin x)
  | _ => none

/-- The op6 value of an I32 instruction (R50). -/
def Instr.i32 : Instr → Option (Nat × I32)
  | .i32Mov x => some (0x00, x)
  | .i32Iadd x => some (0x01, x)
  | .i32Isub x => some (0x02, x)
  | .i32Imul x => some (0x03, x)
  | .i32ImulhI32 x => some (0x04, x)
  | .i32ImulhN32 x => some (0x05, x)
  | .i32Imad x => some (0x06, x)
  | .i32IminI32 x => some (0x07, x)
  | .i32ImaxI32 x => some (0x08, x)
  | .i32IminN32 x => some (0x09, x)
  | .i32ImaxN32 x => some (0x0A, x)
  | .i32Iabs x => some (0x0B, x)
  | .i32Shl x => some (0x0C, x)
  | .i32Shr x => some (0x0D, x)
  | .i32ShrA x => some (0x0E, x)
  | .i32Rot x => some (0x0F, x)
  | .i32And x => some (0x10, x)
  | .i32Or x => some (0x11, x)
  | .i32Xor x => some (0x12, x)
  | .i32Andn x => some (0x13, x)
  | .i32Popc x => some (0x14, x)
  | .i32Clz x => some (0x15, x)
  | .i32Brev x => some (0x16, x)
  | .i32Fadd x => some (0x17, x)
  | .i32Fsub x => some (0x18, x)
  | .i32Fmul x => some (0x19, x)
  | .i32Ffma x => some (0x1A, x)
  | .i32Fmin x => some (0x1B, x)
  | .i32Fmax x => some (0x1C, x)
  | .i32FaddRtz x => some (0x1D, x)
  | .i32FmulRtz x => some (0x1E, x)
  | .i32FfmaRtz x => some (0x1F, x)
  | .i32FrndRne x => some (0x20, x)
  | .i32FrndRdn x => some (0x21, x)
  | .i32FrndRup x => some (0x22, x)
  | .i32FrndRtz x => some (0x23, x)
  | .i32Hadd2F16 x => some (0x24, x)
  | .i32Hmul2F16 x => some (0x25, x)
  | .i32Hfma2F16 x => some (0x26, x)
  | .i32Hadd2Bf16 x => some (0x27, x)
  | .i32Hmul2Bf16 x => some (0x28, x)
  | .i32Hfma2Bf16 x => some (0x29, x)
  | .i32FcvtF32F16 x => some (0x2A, x)
  | .i32FcvtF32Bf16 x => some (0x2B, x)
  | .i32FcvtF16F32 x => some (0x2C, x)
  | .i32FcvtBf16F32 x => some (0x2D, x)
  | .i32FcvtF32E4m3 x => some (0x2E, x)
  | .i32FcvtF32E5m2 x => some (0x2F, x)
  | .i32IcvtF32I32 x => some (0x30, x)
  | .i32IcvtF32N32 x => some (0x31, x)
  | .i32IcvtI32F32 x => some (0x32, x)
  | .i32IcvtN32F32 x => some (0x33, x)
  | .i32Fdot4E4m3 x => some (0x34, x)
  | .i32Fdot4E5m2 x => some (0x35, x)
  | .i32Idot4I8 x => some (0x36, x)
  | .i32Idot4N8 x => some (0x37, x)
  | .i32Hmnx2MinF16 x => some (0x38, x)
  | .i32Hmnx2MaxF16 x => some (0x39, x)
  | .i32Hmnx2MinBf16 x => some (0x3A, x)
  | .i32Hmnx2MaxBf16 x => some (0x3B, x)
  | .i32FaddRdn x => some (0x3C, x)
  | .i32FaddRup x => some (0x3D, x)
  | .i32FmulRdn x => some (0x3E, x)
  | .i32FmulRup x => some (0x3F, x)
  | _ => none

/-- The I32 row of an op6 value (R50). -/
noncomputable def ofOp6 (op : Nat) (x : I32) : Option Instr :=
  match op with
  | 0x00 => some (.i32Mov x)
  | 0x01 => some (.i32Iadd x)
  | 0x02 => some (.i32Isub x)
  | 0x03 => some (.i32Imul x)
  | 0x04 => some (.i32ImulhI32 x)
  | 0x05 => some (.i32ImulhN32 x)
  | 0x06 => some (.i32Imad x)
  | 0x07 => some (.i32IminI32 x)
  | 0x08 => some (.i32ImaxI32 x)
  | 0x09 => some (.i32IminN32 x)
  | 0x0A => some (.i32ImaxN32 x)
  | 0x0B => some (.i32Iabs x)
  | 0x0C => some (.i32Shl x)
  | 0x0D => some (.i32Shr x)
  | 0x0E => some (.i32ShrA x)
  | 0x0F => some (.i32Rot x)
  | 0x10 => some (.i32And x)
  | 0x11 => some (.i32Or x)
  | 0x12 => some (.i32Xor x)
  | 0x13 => some (.i32Andn x)
  | 0x14 => some (.i32Popc x)
  | 0x15 => some (.i32Clz x)
  | 0x16 => some (.i32Brev x)
  | 0x17 => some (.i32Fadd x)
  | 0x18 => some (.i32Fsub x)
  | 0x19 => some (.i32Fmul x)
  | 0x1A => some (.i32Ffma x)
  | 0x1B => some (.i32Fmin x)
  | 0x1C => some (.i32Fmax x)
  | 0x1D => some (.i32FaddRtz x)
  | 0x1E => some (.i32FmulRtz x)
  | 0x1F => some (.i32FfmaRtz x)
  | 0x20 => some (.i32FrndRne x)
  | 0x21 => some (.i32FrndRdn x)
  | 0x22 => some (.i32FrndRup x)
  | 0x23 => some (.i32FrndRtz x)
  | 0x24 => some (.i32Hadd2F16 x)
  | 0x25 => some (.i32Hmul2F16 x)
  | 0x26 => some (.i32Hfma2F16 x)
  | 0x27 => some (.i32Hadd2Bf16 x)
  | 0x28 => some (.i32Hmul2Bf16 x)
  | 0x29 => some (.i32Hfma2Bf16 x)
  | 0x2A => some (.i32FcvtF32F16 x)
  | 0x2B => some (.i32FcvtF32Bf16 x)
  | 0x2C => some (.i32FcvtF16F32 x)
  | 0x2D => some (.i32FcvtBf16F32 x)
  | 0x2E => some (.i32FcvtF32E4m3 x)
  | 0x2F => some (.i32FcvtF32E5m2 x)
  | 0x30 => some (.i32IcvtF32I32 x)
  | 0x31 => some (.i32IcvtF32N32 x)
  | 0x32 => some (.i32IcvtI32F32 x)
  | 0x33 => some (.i32IcvtN32F32 x)
  | 0x34 => some (.i32Fdot4E4m3 x)
  | 0x35 => some (.i32Fdot4E5m2 x)
  | 0x36 => some (.i32Idot4I8 x)
  | 0x37 => some (.i32Idot4N8 x)
  | 0x38 => some (.i32Hmnx2MinF16 x)
  | 0x39 => some (.i32Hmnx2MaxF16 x)
  | 0x3A => some (.i32Hmnx2MinBf16 x)
  | 0x3B => some (.i32Hmnx2MaxBf16 x)
  | 0x3C => some (.i32FaddRdn x)
  | 0x3D => some (.i32FaddRup x)
  | 0x3E => some (.i32FmulRdn x)
  | 0x3F => some (.i32FmulRup x)
  | _ => none

/-- The op6 values of one source, whose B must be 0 (R50). -/
def singleSource (op : Nat) : Bool :=
  [0x00, 0x0B, 0x14, 0x15, 0x16, 0x20, 0x21, 0x22, 0x23, 0x2A, 0x2B, 0x2C, 0x2D, 0x2E, 0x2F, 0x30, 0x31, 0x32, 0x33].contains op

/-- The fields and the form an instruction is settled by. -/
def Instr.sig (i : Instr) : Option (Body × Sig) := i.core.coreSig

/-- The fields of an instruction in I64 terms. -/
def Instr.body (i : Instr) : Body :=
  match i.sig with
  | some p => p.1
  | none => {}

/-- Length in bytes, without a target list (R47); 0 for an event. -/
def Instr.len (i : Instr) : Nat :=
  match i.c16, i.i32, i.i64 with
  | some _, _, _ => 2
  | _, some _, _ => 4
  | _, _, some p => if p.2.1.lit.isSome then 12 else 8
  | _, _, _ => 0

/-- Bytes from an instruction to its fall-through point: past its target list, if it has one (R58). -/
def Instr.span (i : Instr) : Nat :=
  match i with
  | .brx _ ts | .callx _ ts => i.len + 4 + 4 * ts.length
  | _ => i.len

/-- The OP value an instruction's form has (R59). -/
def Instr.op (i : Instr) : Nat :=
  match i.core.i64 with
  | some p => p.1
  | none => 0

/-- A register that an instruction names: of a lane's v registers, the s registers or the predicates. -/
inductive RegRef where
  | v (n : Nat)
  | s (n : Nat)
  | k (n : Nat)
deriving DecidableEq, Repr

/-- The registers of a field. A field of class vs takes its S bit. -/
def Fld.regs (f : Fld) (sBit : Bool) (idx cnt : Nat) : List RegRef :=
  let r := List.range cnt
  match f.cls with
  | .none | .raw => []
  | .v => r.map fun i => .v (idx + i)
  | .s => r.map fun i => .s (idx + i)
  | .k => [.k idx]
  | .vs => if sBit then r.map fun i => .s (idx + i) else r.map fun i => .v (idx + i)

/-- What an instruction writes and reads, in the order D, A, B, C (R65, R269). -/
structure Uses where
  writes : List RegRef
  reads : List RegRef
deriving DecidableEq, Repr

/-- Whether the last register source is replaced by the literal (R55). -/
def Body.immOn (x : Body) (r : Role) (onA : Bool) : Bool :=
  x.lit.isSome && (if onA then r == .immA else r == .imm)

/-- The predicate that IADDC carries through, SEL reads and SHFL writes: their kc or kp (R100, R147). -/
def Instr.kExtra : Instr → Uses
  | .iaddc x | .iaddcU x => ⟨[.k x.hi], [.k x.hi]⟩
  | .sel x | .selU x => ⟨[], [.k x.hi]⟩
  | .shfl x => ⟨[.k x.hi], []⟩
  | _ => ⟨[], []⟩

/-- Operands that are read although the form writes them, and registers that only the entry names: D of MXPACK
(R136), the random registers of a stochastic FCVT (R129). -/
def Instr.readExtra : Instr → List RegRef
  | .mxpack x => (List.range (Body.regs x.dW)).map fun i => .v (x.d.toNat + i)
  | .fcvt x => (List.range (fcvtRandom x).2).map fun i => .v ((fcvtRandom x).1 + i)
  | _ => []

/-- The registers an instruction names. Writes to s0 and k0 are discarded and claim nothing (R52). -/
def Instr.uses (i : Instr) : Uses :=
  match i.sig with
  | none => ⟨[], []⟩
  | some (x, g) =>
    let x2 := i.core matches .fdot4 _ && x.x2
    let n := fun (w : BitVec 2) => if x2 then 16 else Body.regs w
    let dRegs := g.d.regs true x.d.toNat (Body.regs x.dW)
    let a := if x.immOn g.role true then [] else g.a.regs x.aS x.a.toNat (n x.aW)
    let b := if x.immOn g.role false then [] else g.b.regs x.bS x.b.toNat (n x.bW)
    let c := if g.role != .third then [] else if x.acc then dRegs else g.c.regs x.cS x.cIdx (2 ^ x.cW)
    let ex := i.core.kExtra
    let live := fun (r : RegRef) => r != .s 0 && r != .k 0
    let ds := if g.role == .third && x.acc then dRegs else []
    ⟨(dRegs ++ ex.writes).filter live, (ds ++ a ++ b ++ (if ds.isEmpty then c else []) ++ i.core.readExtra ++ ex.reads).filter live⟩

/-- One past the highest v register an instruction names (R53). -/
def Instr.vTop (i : Instr) : Nat :=
  let u := i.uses
  (u.writes ++ u.reads).foldl (fun m r => match r with | .v n => max m (n + 1) | _ => m) 0

/-- The fixed latency of R61 for an operation that writes registers, by its entry in R59; 0 for variable or none. -/
def Instr.latency (i : Instr) : Nat :=
  match i.core with
  | .imul _ | .imulh _ | .imad _ | .imulU _ | .imulhU _ | .imadU _ => 6
  | .fadd _ | .fsub _ | .fmul _ | .ffma _ | .ffma3 _ | .fmin _ | .fmax _ | .fcmp _ | .fclass _ | .frnd _ | .fcvt _ | .icvt _
  | .hadd2 _ | .hmul2 _ | .hfma2 _ | .hmnx2 _ | .mxunpk _ | .mxpack _ => 6
  | .fdot4 _ | .idot4 _ | .shfl _ | .vote _ | .bcast _ => 8
  | .redux _ | .scan _ | .matchLanes _ | .rngx _ => 12
  | _ => 4

end Sys2Proof
end

