-- ==== Sys2Proof/WellFormed.lean ====
section
/-! DEFINITION. WellFormed.lean: the decoding checks of 02 R49 to R58 and R70 that need no state: rows 2, 4 and
5 but for the wave's allocation. -/

namespace Sys2Proof

/-- A field obeys R52 and R54: unused fields are 0, S bits match the class, s and k numbers are in range. `sBit` is
`none` for D, which has no S bit. -/
def Fld.encOk (f : Fld) (sBit : Option Bool) (w idx : Nat) : Bool :=
  match f.cls with
  | .none => idx == 0 && w == 0 && sBit != some true
  | .v => sBit != some true
  | .s => decide (idx < 64) && sBit != some false
  | .k => decide (idx < 8) && sBit != some true
  | .vs => sBit != some true || decide (idx < 64)
  | .raw => w == 0

/-- A group has the width its entry asks and starts at a multiple of its size (R53). -/
def Fld.opndOk (f : Fld) (w idx : Nat) : Bool :=
  match f.cls with
  | .none | .raw => true
  | _ => f.wid.all (· == w) && idx % 2 ^ w == 0

/-- The literal fits its role (R55). -/
def Body.roleOk (x : Body) (r : Role) : Bool :=
  match r with
  | .dash => x.lit.isNone
  | .target => x.lit.isSome && x.litN % 2 == 0
  | .sel => x.lit.isSome
  | .imm | .immA | .third | .off | .ignored => true

/-- The C literal: no EXT bit, an s number below 64, and CS at 1 in a uniform form (R55, R105). -/
def Body.thirdOk (x : Body) (g : Sig) : Bool :=
  g.role != .third || x.lit.isNone ||
    (decide (x.litN < 2 ^ 11) && (!x.cS || decide (x.cIdx < 64)) && (g.c.cls != .s || x.cS))

/-- Row 4 of R70 for a body, its target list apart. -/
def Body.encLegal (x : Body) (g : Sig) : Bool :=
  x.set != 7#3 && x.roleOk g.role && g.enc && x.thirdOk g
    && g.d.encOk none x.dW.toNat x.d.toNat
    && (if x.immOn g.role true then Fld.no else g.a).encOk (some x.aS) x.aW.toNat x.a.toNat
    && (if x.immOn g.role false then Fld.no else g.b).encOk (some x.bS) x.bW.toNat x.b.toNat

/-- Row 5 of R70 for a body, the allocation apart. -/
def Body.opndLegal (x : Body) (g : Sig) : Bool :=
  g.opnd && g.d.opndOk x.dW.toNat x.d.toNat
    && (if x.immOn g.role true then Fld.no else g.a).opndOk x.aW.toNat x.a.toNat
    && (if x.immOn g.role false then Fld.no else g.b).opndOk x.bW.toNat x.b.toNat
    && (g.role != .third || x.lit.isNone || g.c.opndOk x.cW x.cIdx)

/-- A declared target list: 1 to 1,024 even offsets (R58). -/
def targetsOk (ts : List Word) : Bool :=
  !ts.isEmpty && decide (ts.length ≤ 1024) && ts.all fun t => t.toNat % 2 == 0

/-- Row 4 of R70 but for the target list. -/
def Instr.encHead (i : Instr) : Bool :=
  match i.sig with
  | some (x, g) => x.encLegal g
  | none => true

/-- Rows 2 and 4 of R70: the parcel 0x0000, a nonzero B of a single-source I32 row, and the fields of a body. -/
def Instr.encLegal (i : Instr) : Bool :=
  match i with
  | .cMov x => x.d != 0#5 || x.b != 0#5
  | .brx _ ts | .callx _ ts => i.encHead && targetsOk ts
  | _ =>
    match i.i32 with
    | some (op, x) => (!singleSource op || x.b == 0#7) && i.encHead
    | none => i.encHead

/-- Row 5 of R70, the allocation apart. -/
def Instr.opndLegal (i : Instr) : Bool :=
  match i.sig with
  | some (x, g) => x.opndLegal g
  | none => true

/-- An instruction that some bytes encode without a decoding trap; an event is well formed as it stands. -/
def Instr.wellFormed (i : Instr) : Bool := i.encLegal && i.opndLegal

/-- A step that a wave issues, as against an event. -/
def Instr.isInstruction (i : Instr) : Bool := i.sig.isSome

end Sys2Proof
end

