-- ==== Sys2Proof/Decode.lean ====
section
/-! DEFINITION. Decode.lean: from bytes to an instruction (02 R47 to R59, R70), total, and the encoder
beside it. -/

namespace Sys2Proof

/-- Why bytes are no instruction: the decoding traps of R70, rows 2 to 5, and bytes that end too early (row 1). -/
inductive DecodeError where
  | truncated
  | opcode
  | encoding
  | operand
deriving DecidableEq, Repr

/-- The row of an OP value, its modifiers choosing among the rows that share one (R59). -/
def ofOp (op : Nat) (x : Body) (ts : List Word) : Option Instr :=
  match op with
  | 0x000 => some (.mov x)
  | 0x001 => some (.iadd x)
  | 0x002 => some (.isub x)
  | 0x003 => some (.iaddc x)
  | 0x004 => some (.imul x)
  | 0x005 => some (.imulh x)
  | 0x006 => some (.imad x)
  | 0x007 => some (.imin x)
  | 0x008 => some (.imax x)
  | 0x009 => some (.iabs x)
  | 0x00A => some (.shl x)
  | 0x00B => some (.shr x)
  | 0x00C => some (.rot x)
  | 0x00D => some (.and x)
  | 0x00E => some (.or x)
  | 0x00F => some (.xor x)
  | 0x010 => some (.andn x)
  | 0x011 => some (.bfe x)
  | 0x012 => some (.bfi x)
  | 0x013 => some (.popc x)
  | 0x014 => some (.clz x)
  | 0x015 => some (.brev x)
  | 0x016 => some (.prmt x)
  | 0x017 => some (.lea x)
  | 0x018 => some (.icmp x)
  | 0x019 => some (.sel x)
  | 0x040 => some (.movU x)
  | 0x041 => some (.iaddU x)
  | 0x042 => some (.isubU x)
  | 0x043 => some (.iaddcU x)
  | 0x044 => some (.imulU x)
  | 0x045 => some (.imulhU x)
  | 0x046 => some (.imadU x)
  | 0x047 => some (.iminU x)
  | 0x048 => some (.imaxU x)
  | 0x049 => some (.iabsU x)
  | 0x04A => some (.shlU x)
  | 0x04B => some (.shrU x)
  | 0x04C => some (.rotU x)
  | 0x04D => some (.andU x)
  | 0x04E => some (.orU x)
  | 0x04F => some (.xorU x)
  | 0x050 => some (.andnU x)
  | 0x051 => some (.bfeU x)
  | 0x052 => some (.bfiU x)
  | 0x053 => some (.popcU x)
  | 0x054 => some (.clzU x)
  | 0x055 => some (.brevU x)
  | 0x056 => some (.prmtU x)
  | 0x057 => some (.leaU x)
  | 0x058 => some (.icmpU x)
  | 0x059 => some (.selU x)
  | 0x080 => some (.fadd x)
  | 0x081 => some (.fsub x)
  | 0x082 => some (.fmul x)
  | 0x083 => some (.ffma x)
  | 0x084 => some (.ffma3 x)
  | 0x085 => some (.fmin x)
  | 0x086 => some (.fmax x)
  | 0x087 => some (.fcmp x)
  | 0x088 => some (.fclass x)
  | 0x089 => some (.frnd x)
  | 0x08A => some (.fcvt x)
  | 0x08B => some (.icvt x)
  | 0x090 => some (.hadd2 x)
  | 0x091 => some (.hmul2 x)
  | 0x092 => some (.hfma2 x)
  | 0x093 => some (.hmnx2 x)
  | 0x098 => some (.fdot4 x)
  | 0x099 => some (.idot4 x)
  | 0x09C => some (.mxunpk x)
  | 0x09D => some (.mxpack x)
  | 0x0A0 => some (.fexp2 x)
  | 0x0A1 => some (.flog2 x)
  | 0x0A2 => some (.frcp x)
  | 0x0A3 => some (.frsq x)
  | 0x0A4 => some (.fsqrt x)
  | 0x0A5 => some (.fsin x)
  | 0x0A6 => some (.fcos x)
  | 0x0A7 => some (.ftanh x)
  | 0x0A8 => some (.ferf x)
  | 0x0B0 => some (.tblset x)
  | 0x0B1 => some (.tblcommit x)
  | 0x0B2 => some (.tbleval x)
  | 0x0B8 => some (.rngx x)
  | 0x100 => some (.kand x)
  | 0x101 => some (.kor x)
  | 0x102 => some (.kxor x)
  | 0x103 => some (.knot x)
  | 0x104 => some (if x.md = 1#5 then .kmovKS x else if x.md = 2#5 then .kmovSK x else .kmov x)
  | 0x110 => some (.lpart x)
  | 0x111 => some (.shfl x)
  | 0x112 => some (.vote x)
  | 0x113 => some (.redux x)
  | 0x114 => some (.scan x)
  | 0x115 => some (.matchLanes x)
  | 0x116 => some (.bcast x)
  | 0x140 => some (.bra x)
  | 0x141 => some (.brx x ts)
  | 0x142 => some (.call x)
  | 0x143 => some (.callx x ts)
  | 0x144 => some (.ret x)
  | 0x145 => some (.yield x)
  | 0x146 => some (.exit x)
  | 0x147 => some (.kill x)
  | 0x148 => some (.nop x)
  | 0x149 => some (.waitd x)
  | 0x150 => some (.trap x)
  | 0x151 => some (.bkpt x)
  | 0x152 => some (.rcsr x)
  | 0x153 => some (.wcsr x)
  | 0x154 => some (.srd x)
  | 0x155 => some (if x.md = 0#5 then .quotaGive x else if x.md = 1#5 then .quotaRel x else .quotaTake x)
  | 0x156 => some (if x.md = 1#5 then .icinvAll x else .icinv x)
  | 0x180 => some (.ld x)
  | 0x181 => some (.st x)
  | 0x182 => some (.lds x)
  | 0x183 => some (.sts x)
  | 0x184 => some (.ldw x)
  | 0x185 => some (.stw x)
  | 0x186 => some (.pf x)
  | 0x187 => some (.lda x)
  | 0x188 => some (.stl x)
  | 0x190 => some (.atom x)
  | 0x191 => some (.atomf x)
  | 0x192 => some (.red x)
  | 0x198 => some (.mlres x)
  | 0x199 => some (.mlst x)
  | 0x19A => some (.mlcommit x)
  | 0x19B => some (.mlabort x)
  | 0x1A0 => some (.clean x)
  | 0x1A1 => some (.inval x)
  | 0x1A2 => some (.fence x)
  | 0x1C0 => some (.barinit x)
  | 0x1C1 => some (.barenrol x)
  | 0x1C2 => some (.bararv x)
  | 0x1C3 => some (.barwait x)
  | 0x1C4 => some (.barsync x)
  | 0x1C5 => some (.barq x)
  | 0x1C8 => some (.semadd x)
  | 0x1C9 => some (.semwait x)
  | 0x1CA => some (.semset x)
  | 0x1CC => some (.monarm x)
  | 0x1CD => some (.monwait x)
  | 0x1D0 => some (.cpseal x)
  | 0x1D1 => some (.cpwait x)
  | 0x1D8 => some (.rsend x)
  | 0x1D9 => some (.rwait x)
  | 0x1DA => some (if x.md = 1#5 then .rtakeAny x else .rtake x)
  | 0x1DB => some (if x.md = 0#5 then .rmaskSet x else if x.md = 1#5 then .rmaskClr x else .rmaskWr x)
  | 0x1E0 => some (.hmust x)
  | 0x1E1 => some (.hrel x)
  | 0x1E2 => some (if x.md = 1#5 then .hldaNone x else .hlda x)
  | 0x1E3 => some (.hldb x)
  | 0x1E4 => some (.hswap x)
  | 0x1E5 => some (.hlds x)
  | 0x1E6 => some (.hmma x)
  | 0x1E7 => some (.hzero x)
  | 0x1E8 => some (.hrowsc x)
  | 0x1E9 => some (if x.d = 0#8 then .hdrnSp x else .hdrnReg x)
  | 0x1EA => some (.hboxt x)
  | 0x1EB => some (.hstat x)
  | 0x1F0 => some (.tqpush x)
  | 0x1F1 => some (.nrec x)
  | 0x1F2 => some (.launch x)
  | 0x1F4 => some (.bqry x)
  | 0x1F5 => some (.bray x)
  | 0x1F6 => some (.bstat x)
  | _ => none

/-- Little-endian value of bytes (R11). -/
def leNat : List Byte → Nat
  | [] => 0
  | b :: bs => b.toNat + 256 * leNat bs

/-- `n` bytes of a number, least significant first (R11). -/
def leBytes : Nat → Nat → List Byte
  | 0, _ => []
  | n + 1, x => BitVec.ofNat 8 x :: leBytes n (x / 256)

/-- The fields of an I64 body (R51). -/
def splitBody (w : BitVec 64) (lit : Option Word) : Body :=
  { lit := lit
    stall := w.extractLsb' 11 3
    gk := w.extractLsb' 14 3
    gn := w.getLsbD 17
    set := w.extractLsb' 18 3
    wait := w.extractLsb' 21 6
    d := w.extractLsb' 27 8
    dW := w.extractLsb' 35 2
    a := w.extractLsb' 37 8
    aW := w.extractLsb' 45 2
    b := w.extractLsb' 47 8
    bW := w.extractLsb' 55 2
    aS := w.getLsbD 57
    bS := w.getLsbD 58
    md := w.extractLsb' 59 5 }

/-- The body of an I64 instruction (R51), with its length code. -/
def joinBody (op : Nat) (x : Body) : BitVec 64 :=
  x.md ++ BitVec.ofBool x.bS ++ BitVec.ofBool x.aS ++ x.bW ++ x.b ++ x.aW ++ x.a ++ x.dW ++ x.d ++ x.wait ++ x.set
    ++ BitVec.ofBool x.gn ++ x.gk ++ x.stall ++ BitVec.ofNat 9 op ++ (if x.lit.isSome then 3#2 else 2#2)

/-- Rows 3 to 5 of R70 for an instruction of a known row. -/
def settle (i : Instr) : Except DecodeError Instr :=
  if !i.encLegal then .error .encoding
  else if !i.opndLegal then .error .operand
  else .ok i

/-- A C16 parcel (R49). -/
def decodeC16 (w : BitVec 16) : Except DecodeError Instr :=
  match ofOp4 (w.extractLsb' 2 4).toNat { d := w.extractLsb' 6 5, b := w.extractLsb' 11 5 } with
  | none => .error .encoding
  | some i => settle i

/-- An I32 word (R50). -/
noncomputable def decodeI32 (w : BitVec 32) : Except DecodeError Instr :=
  match ofOp6 (w.extractLsb' 2 6).toNat
    { d := w.extractLsb' 8 7, a := w.extractLsb' 15 7, b := w.extractLsb' 22 7, stall := w.extractLsb' 29 3 } with
  | none => .error .encoding
  | some i => settle i

/-- The bytes of an instruction before its target list, by its first parcel (R47). -/
def parcelsLen (p : Nat) : Nat := match p % 4 with | 0 => 2 | 1 => 4 | 2 => 8 | _ => 12

/-- Whether a first parcel is that of a BRX or CALLX, which owns a target list (R58). -/
def ownsList (p : Nat) : Bool := decide (2 ≤ p % 4) && (p / 4 % 512 == 0x141 || p / 4 % 512 == 0x143)

/-- The entries of a target list of `n` words. -/
def listWords : Nat → List Byte → Option (List Word)
  | 0, _ => some []
  | n + 1, b0 :: b1 :: b2 :: b3 :: r => (listWords n r).map (BitVec.ofNat 32 (leNat [b0, b1, b2, b3]) :: ·)
  | _ + 1, _ => none

/-- The target list of R58 from the bytes after its instruction: its entries, or why there are none. -/
def decodeList (bs : List Byte) : Except DecodeError (List Word) :=
  if bs.length < 4 then .error .truncated
  else
    let h := leNat (bs.take 4)
    let n := h / 2 ^ 16
    if h % 2 ^ 16 ≠ 0 ∨ n = 0 ∨ n > 1024 then .error .encoding
    else
      match listWords n (bs.drop 4) with
      | none => .error .truncated
      | some ws => .ok ws

/-- An I64 or I96 instruction from its body, its literal and the bytes after it. -/
def decodeWide (w : BitVec 64) (lit : Option Word) (rest : List Byte) : Except DecodeError Instr :=
  let op := (w.extractLsb' 2 9).toNat
  let x := splitBody w lit
  match ofOp op x [] with
  | none => .error .opcode
  | some (.brx x _) =>
    match decodeList rest with
    | .error e => .error e
    | .ok ts => settle (.brx x ts)
  | some (.callx x _) =>
    match decodeList rest with
    | .error e => .error e
    | .ok ts => settle (.callx x ts)
  | some i => settle i

/-- The instruction that stands at the start of the bytes (R47, R70). -/
noncomputable def decode (bs : List Byte) : Except DecodeError Instr :=
  match bs with
  | b0 :: b1 :: r =>
    let p := leNat [b0, b1]
    if p = 0 then .error .encoding
    else if p % 4 = 0 then decodeC16 (BitVec.ofNat 16 p)
    else if p % 4 = 1 then
      if r.length < 2 then .error .truncated else decodeI32 (BitVec.ofNat 32 (leNat (bs.take 4)))
    else if p % 4 = 2 then
      if r.length < 6 then .error .truncated
      else decodeWide (BitVec.ofNat 64 (leNat (bs.take 8))) none (bs.drop 8)
    else
      if r.length < 10 then .error .truncated
      else decodeWide (BitVec.ofNat 64 (leNat (bs.take 8))) (some (BitVec.ofNat 32 (leNat ((bs.drop 8).take 4)))) (bs.drop 12)
  | _ => .error .truncated

/-- The instruction of a table row whose words are the low `nbits` bits of `w`, the bits above them 0: 12 bytes are
laid out, the longest instruction without a target list. -/
noncomputable def decodeTableWord (nbits w : Nat) : Option Instr :=
  match decode (leBytes 12 (w % 2 ^ nbits)) with
  | .ok i => some i
  | .error _ => none

/-- The word of a C16 instruction (R49). -/
def joinC16 (op : Nat) (x : C16) : BitVec 16 := x.b ++ x.d ++ BitVec.ofNat 4 op ++ 0#2

/-- The word of an I32 instruction (R50). -/
def joinI32 (op : Nat) (x : I32) : BitVec 32 := x.stall ++ x.b ++ x.a ++ x.d ++ BitVec.ofNat 6 op ++ 1#2

/-- The bytes of an instruction, with its literal and its target list (R47 to R51, R58); none for an event. -/
def encode (i : Instr) : List Byte :=
  match i.c16, i.i32, i.i64 with
  | some (op, x), _, _ => leBytes 2 (joinC16 op x).toNat
  | _, some (op, x), _ => leBytes 4 (joinI32 op x).toNat
  | _, _, some (op, x, ts) =>
    leBytes 8 (joinBody op x).toNat
      ++ (match x.lit with | some l => leBytes 4 l.toNat | none => [])
      ++ (if ts.isEmpty then [] else leBytes 4 (ts.length * 2 ^ 16) ++ ts.flatMap fun t => leBytes 4 t.toNat)
  | _, _, _ => []

end Sys2Proof
end

