-- ==== Sys2Proof/Machine/State.lean ====
section
/-! DEFINITION. State.lean: everything the spec gives the device to hold, as plain data, and the device right
after reset. INVENTORY.md lists each field with the rule that names it. -/

namespace Sys2Proof.Machine

/-- Sparse data by key: keys strictly rising. -/
abbrev Map (α : Type) := List (Nat × α)

/-! ## The wave -/

/-- R81. -/
inductive LaneState where
  | live | parked | exited
deriving DecidableEq, Repr

/-- One lane: its entries of pcv and stv, its state and its neglect count (R75, R89). -/
structure Lane where
  pc : Quad
  ep : Nat
  st : LaneState
  neglect : Nat
deriving DecidableEq, Repr

/-- Trap causes of R257. -/
inductive Cause where
  | illegalOpcode | illegalEncoding | illegalOperand | stallShort | fetchFault | targetFault | fpException
  | userTrap | breakpoint | watchpoint | debugStop | misaligned | pageFault | accessFault | scratchRange
  | windowPerm | dataPoison | mlLimit | mlState | barrierLimit | barrierBusy | syncRange | reinPerm
  | harnessRfBusy | harnessMismatch | harnessState | harnessRecord | harnessRange | sparseMetadata
  | workRecord | beamRecord
deriving DecidableEq, Repr

/-- What a raising rule gives a trap: cause, sub-cause, address, lane mask, and the register REG names (R258). -/
structure Trap where
  cause : Cause
  sub : Nat := 0
  addr : Nat := 0
  mask : Word := 0#32
  reg : Nat := 0
  dbg : Bool := false
deriving DecidableEq, Repr

/-- The trap frame of R258, but for SUP, which the device never writes. -/
structure Frame where
  trap : Trap
  dbg : Bool
  replay : Bool
  imprecise : Bool
  skidCause : Option Cause
  issueSet : Word
  pc : Nat
  iwords : List Byte
  skid : Nat
  who : Nat
  time : Nat
  stv : Nat
  live : Word
  parked : Word
  exited : Word
  wcw : Word
deriving DecidableEq, Repr

/-- A register result: its register, and for v and k its lane; `bad` marks the poisoned halves (R269). -/
inductive RegWrite where
  | v (n lane : Nat) (x : Word) (bad : Nat)
  | s (n : Nat) (x : Word)
  | k (n lane : Nat) (x : Bool)
deriving DecidableEq, Repr

/-- Where a byte lies once its address has been checked: device memory, a core's scratchpad (with the block whose
region was checked), a register of a resident wave, or a grid's storage with the grid's number (R163, R173, R404). -/
inductive Loc where
  | mem (pa : Nat)
  | sp (core off blk : Nat)
  | reg (w uid n lane byte : Nat)
  | grid (g uid off : Nat)
deriving DecidableEq, Repr

/-- One single-copy-atomic part of an access (R16): bytes `off` to `off + len − 1` of a lane's data. -/
structure Piece where
  lane : Nat
  off : Nat
  len : Nat
  va : Nat
  loc : Loc
deriving DecidableEq, Repr

/-- A part of a store, with its bytes. -/
structure Put where
  at' : Piece
  bytes : List Byte
deriving DecidableEq, Repr

/-- One word operation of an atomic instruction (R185): `half` is 1 for the high word of a .w2 form. -/
structure WordOp where
  lane : Nat
  half : Nat
  len : Nat
  va : Nat
  loc : Loc
  b : Nat
  bHigh : Nat
deriving DecidableEq, Repr

/-- A destination: registers base to base + cnt − 1 of class v (0) or s (1), or predicate base (2). -/
structure Dst where
  cls : Nat
  base : Nat
  cnt : Nat
deriving DecidableEq, Repr

/-- What an issued instruction still has to do. -/
inductive Work where
  /-- Results known; they land when due (R61, R62). -/
  | regs (ws : List RegWrite)
  /-- Results of a variable-latency instruction, known and waiting for an older write of the same register (R62). -/
  | bound (ws : List RegWrite)
  /-- No result: the SET slot alone, released when due. -/
  | slot
  /-- A special function (R139), with the trap its enabled condition raises. -/
  | sfu (ws : List RegWrite) (t : Option Trap)
  /-- A global or window load (R178) or an acquire load at a scope (R181); `got` is keyed 32·lane + byte. -/
  | load (ty n : Nat) (scope : Option Nat) (todo : List Piece) (got : Map Byte) (bad : List Nat) (d : Dst)
  /-- Scratchpad requests, pass by pass (R160). -/
  | spLoad (ty n : Nat) (scope : Option Nat) (passes : List (List Piece)) (got : Map Byte) (bad : List Nat) (d : Dst)
  | spStore (scope : Option Nat) (passes : List (List Put))
  | spAtom (code n : Nat) (passes : List (List WordOp)) (got : Map Byte) (bad : List Nat) (d : Dst)
  /-- ATOM in the L1 or through the window (R187). -/
  | near (code n : Nat) (todo : List WordOp) (got : Map Byte) (bad : List Nat) (d : Dst)
  /-- ATOMF and RED at the home slices (R187); `d` is none for RED. -/
  | far (code n : Nat) (todo : List WordOp) (got : Map Byte) (bad : List Nat) (d : Option Dst)
  /-- A store that has not left its queue (R179). -/
  | store
  /-- A release whose store is performed and that is not complete at its scope (R181). -/
  | release (scope : Nat)
  | fence (kind scope : Nat)
  /-- CLEAN and INVAL: the lines left to bring to their state (R183). -/
  | maint (inval : Bool) (scope : Nat) (lines : List Nat)
  /-- TBLSET: the bytes left to read and those read, for a bank of a pair (R143). -/
  | tblset (pair bank : Nat) (todo : List Piece) (got : Map Byte)
  /-- TBLEVAL: each contributor's x, and the bank selected at issue (R144, R145). -/
  | tbleval (pair bank : Nat) (xs : List (Nat × Word)) (d : Dst)
  /-- QUOTA until it settles: its result, and for .give the target and the granules on their way to it (R118). -/
  | quota (value : Nat) (target : Option Nat) (granules : List Nat) (d : Dst)
  | icinv (all : Bool) (lo len : Nat)
  /-- An instruction whose lanes are parked on it; `d` takes its result at the release (R82, R448). -/
  | park (d : Option Dst)
  | cpseal (d : Dst)
  | cpwait (n : Nat)
  /-- BARQ: read one clock after issue (R198). -/
  | barq (key : Nat) (d : Dst)
  | bstat (wait clr : Bool) (handle : Nat) (d : Dst)
  /-- RSEND on its way to a router; `d` is its predicate (R213). -/
  | send (d : Dst)
  /-- A harness instruction between issue and completion (R241); `t` is the trap HDRN raises after its writes. -/
  | grid (g : Nat) (ws : List RegWrite) (t : Option Trap)
  /-- An HMMA some of whose rows have not completed (R232, R237). -/
  | hmma (g : Nat)
  /-- An HREL until the release ends (R244). -/
  | hrel (g : Nat)
  /-- A translation check that is pending in SKID mode: the trap it will report, the younger instructions issued, and
  the cause of one held behind it (R260). -/
  | check (t : Option Trap) (younger : Nat) (held : Option Cause)
deriving DecidableEq, Repr

/-- An issued instruction that has not completed. `slot` is 0 for none, i + 1 for di; `hold` keeps the wave from
issuing until it completes. -/
structure Pend where
  stamp : Nat
  slot : Nat
  due : Nat
  hold : Bool
  pc : Nat
  act : Word
  con : Word
  iwords : List Byte
  dst : List RegRef
  src : List RegRef
  work : Work
  parts : List Piece := []     -- all parts of a memory instruction, for a watchpoint's lane mask (R318)
  counted : List Nat := []     -- watchpoints (4·cluster + i) that have counted it
  late : Bool := false         -- it may still trap when it completes (R254)
  undo : Bool := false         -- its issue renormalised the epochs, which a trap at it takes back (R88, R98)
  at' : Nat := 0               -- TIME in fs at its issue (R371)
deriving DecidableEq, Repr

/-- A store-queue entry (R165): its parts in lane order, and the scope of a release. -/
structure SqEntry where
  stamp : Nat
  puts : List Put
  scope : Option Nat
deriving DecidableEq, Repr

/-- What a group of parked lanes waits for (R81). -/
inductive ParkKind where
  | bar (key phase : Nat)
  | sem (key threshold : Nat)
  | mon (until' : Option Nat)
  | rein
  | muster (g : Nat)
deriving DecidableEq, Repr

structure Park where
  mask : Word
  stamp : Nat
  kind : ParkKind
  wake : Option Nat := none    -- the clock from which its lanes are live, when its phase has completed (R282)
deriving DecidableEq, Repr

/-- The transaction of R190 to R192: reserved lines with their reservation clocks, disturbed lines, buffered stores. -/
structure Txn where
  lines : List (Nat × Nat) := []
  disturbed : List Nat := []
  buf : List Put := []
  lost : Bool := false
deriving DecidableEq, Repr

/-- The monitor of R200: its line, whether an event came, and whether the wave was saved while it was armed. -/
structure Monitor where
  line : Option Nat := none
  event : Bool := false
  resumed : Bool := false
deriving DecidableEq, Repr

/-- WSTAT.STATE of R171, with the two stops that are still completing producers (R262, R265). -/
inductive Run where
  | running | stopping | stopped | saving
deriving DecidableEq, Repr

/-- A debug stop that this wave takes between two of its issues (R274): the hit clock, its issues until then, and what
its frame names. -/
structure Hit where
  clock : Nat
  issues : Nat
  trap : Trap
  pc : Option Nat
  issueSet : Word
  iwords : List Byte
deriving DecidableEq, Repr

/-- A release that a write carries (R366): its core, its scope, and the writes that happen before it. `lazy`: lines that it tagged
have still to be written back, and join them then (R342). -/
structure Rel where
  core : Nat
  scope : Nat
  deps : List Nat
  lazy : Bool
deriving DecidableEq, Repr

structure Wave where
  uid : Nat                 -- the wave's own number, never used again (model)
  blk : Nat
  widx : Nat
  gmap : List Nat           -- granule map; its length is ALLOC (R76, R93, R157)
  s : Map Word
  k : Map Word
  d : List Nat              -- six dependence slots (R64)
  dwas : List Nat           -- the slots at the start of the clock (R64)
  lanes : List Lane
  wcw : Word                -- flags, enables and SBCHK of R76
  ts : Nat                  -- partition register (R78)
  enrol : List Nat          -- enrolment table: barrier identifiers (R95)
  arrivals : Map Nat        -- 32 · barrier key + lane: phase of the most recent recorded arrival (R196)
  pend : List Pend
  sq : List SqEntry
  txn : Txn
  mon : Monitor
  parks : List Park
  batch : Nat               -- batch counter of CPSEAL (R210)
  credit : List (Nat × Nat × Nat)   -- ranges of entries credited and not sealed: first, past, unfinished (R202, R210)
  sealed : List (Nat × List (Nat × Nat × Nat))   -- sealed batches with their ranges (R210)
  next : Nat                -- earliest clock of the next issue (R60)
  run : Run
  trapped : Bool            -- WSTAT.TRAP
  dbg : Bool                -- WSTAT.DBG
  frame : Option Frame
  reported : Bool           -- the stop has been reported (R262)
  stepping : Bool           -- a STEP runs on this wave (R275)
  hit : Option Hit          -- a debug stop to take (R274)
  issues : Nat              -- instructions issued (model)
  skipBp : List Nat         -- addresses whose breakpoints are not matched at their next issue (R273)
  replay : Option (Nat × Word × List Byte)   -- address, active set and bytes of a replay to issue first (R261)
  fenced : Map (List Nat) := []   -- by scope: the writes before its latest releasing fence at it (R368)
  heard : List Rel := []    -- the releases that its reads of scratchpads have returned (R366, R368)
deriving DecidableEq, Repr

/-! ## The core -/

/-- An L1 line (R165): the clean copy when held, the bytes the core wrote, whether a release covers them (R342), and the 8-byte
units of it that are poisoned (R269); `rels`: the releases that its writers' fences make of the stores whose bytes are dirty (R368). -/
structure L1Line where
  full : Bool
  snap : Map Byte
  dirty : Map Byte
  tagged : Bool
  bad : List Nat := []
  rels : List Rel := []
deriving DecidableEq, Repr

/-- A write that has reached the L2s and that some core has still to see (R364, R366): its place in the coherence order of its bytes
is its place in the list. Each byte has its address, its value before the write and the value written. `stamp` names the release store
that made it, and `done` the TIME in fs at which that release was complete (R371). -/
structure Late where
  id : Nat
  bytes : List (Nat × Byte × Byte)
  seen : List Nat
  rels : List Rel
  stamp : Option Nat := none
  done : Option Nat := none
deriving DecidableEq, Repr

/-- A line of code with its tags: 128 bytes in the instruction cache, a window of 64 in the trace cache (R167, R433). -/
structure ILine where
  ctx : Nat
  va : Nat
  gen : Nat
  bytes : Map Byte
deriving DecidableEq, Repr

/-- A core or cluster barrier (R193): target, phase, arrivals, departures, and a completion held by a debug stop. -/
structure Bar where
  target : Nat
  phase : Nat
  arr : Nat
  dep : Nat
  full : Bool       -- the phase started at its target and completes in the next clock (R196)
  startClk : Nat
  deps : List Nat := []   -- the writes before the arrivals and departures of the phase (R369)
  past : Map (List Nat) := []   -- the same for completed phases
deriving DecidableEq, Repr

/-- A table pair (R140): two banks as sparse bytes, the selected bank, the owner block. -/
structure TblPair where
  blk : Nat
  bank0 : Map Byte
  bank1 : Map Byte
  sel : Nat
deriving DecidableEq, Repr

/-- A copy entry the engine has taken (R202 to R209). -/
structure Copy where
  idx : Nat
  fields : List Nat      -- its eight words as read, and the twenty of a shape record
  status : Nat           -- the status so far
  cut : Nat              -- numbers the order in which its elements are read and written (R206; log entry 1)
  coll : Option Nat      -- the collective it waits in
  pub : Nat              -- uid of the publishing wave
  shut : List Nat := []  -- blocks whose save had reached its third step when it was taken (R266)
  at' : Nat := 0         -- reads and writes of elements made so far
  held : List (Nat × List Byte × List Bool) := []   -- elements read and not yet written, with their poisoned bytes
deriving DecidableEq, Repr

/-- A block's copy ring on one core (R201): its engine state beside the header in the scratchpad. -/
structure Ring where
  notify : Nat                  -- the counts run without bound; the header shows them mod 2^32
  taken : Nat
  done : Nat
  failed : Nat
  credits : List (Nat × Nat)    -- first index past the credit, number of the publishing wave
  busy : List Copy
deriving DecidableEq, Repr

/-- A stop that a core's trap queue holds (R262, R263): the slot, the frame's address, the block and its context. -/
structure Stop where
  slot : Nat
  frame : Nat
  blk : Nat
  ctx : Nat
  cause : Nat              -- the frame's cause code (R264)
  at' : Nat                -- clock of the stop (R262)
  deps : List Nat := []    -- the writes of its frame (R369)
deriving DecidableEq, Repr

/-- The hart of a core supervisor (R169; log entry 47): an RV64IMAC core with Zicsr and Zifencei, in user mode while it runs a handler and in
machine mode in its dispatch. `x` holds x1 to x31. -/
structure Hart where
  x : List (BitVec 64) := List.replicate 31 0#64
  pc : BitVec 64 := 0#64
  user : Bool := false
  mepc : BitVec 64 := 0#64
  mcause : BitVec 64 := 0#64
  mtval : BitVec 64 := 0#64
  instret : Nat := 0
  resv : Option Nat := none   -- the line of a load-reserved
deriving DecidableEq, Repr

/-- The core supervisor (R169, R262, R263): queued stops, the stop whose handler runs, its store queue. -/
structure Sup where
  queue : List Stop := []
  handling : Option Stop := none
  sq : List (Nat × List Byte) := []
  fenced : List Nat := []  -- the writes before its latest FENCE (R169, R368)
  heard : List Rel := []   -- the releases that its reads of its core's scratchpad have returned (R366, R368)
  hart : Hart := {}
deriving DecidableEq, Repr

/-! ## Blocks, grids and binds -/

/-- A kernel descriptor's fields as a launch resolved them (R418). -/
structure KDesc where
  entry : Nat := 0
  threads : Nat := 1
  alloc : Nat := 1
  kfl : Nat := 0
  bars : Nat := 0
  scratch : Nat := 0
  ncount : Nat := 0
  rfirst : Nat := 0
  ntimer : Nat := 0
  gen : Nat := 0
deriving DecidableEq, Repr

/-- A resident block (R279, R280). `cores` is its core set in ascending order; `sp` gives base and size per core. -/
structure Block where
  ctx : Nat
  bind : Nat
  grid : Nat
  x : Nat                -- s4, s5, s6 (R79)
  y : Nat
  z : Nat
  kdesc : Nat
  k : KDesc
  gen : Nat
  threads : Nat
  waves : Nat
  alloc : Nat
  cores : List Nat
  sp : List (Nat × Nat × Nat)     -- core, base, size (R158)
  prio : Nat
  depth : Nat
  idem : Bool
  discardable : Bool     -- DISCARDABLE of R268
  killed : Bool          -- the KILLED indicator of R113
  rein : Option Nat      -- first handled vector of a handler kernel (R214)
  bars : Nat
  sems : Nat
  cb : Nat
  cn : Nat
  tbl : Bool
  rbase : Nat
  rlog : Nat
  swz : Bool
  landing : Option (Nat × Nat)    -- bin and landing slot of a node block (R292)
  started : Nat          -- clock of its start (R348)
  status : Nat           -- STATUS it will report, with DETAIL in bits 15:8
  s7 : Nat
  s8 : Nat
  arg : Nat
  saving : Bool
  saveNo : Nat           -- its save slot in the bind's save area (log entry 14)
deriving DecidableEq, Repr

/-- A launched grid (R293, R434): its descriptor as resolved, its shape, and what it still waits for. -/
structure Grid where
  ctx : Nat
  die : Nat
  kdesc : Nat
  k : KDesc
  arg : Nat
  gx : Nat
  gy : Nat
  gz : Nat
  prio : Nat
  depth : Nat
  total : Nat            -- blocks of the grid
  retired : Nat
  kids : Nat             -- child grids and node blocks not retired
  parents : List Nat
  reports : List (Nat × Nat × Nat)   -- CADDR, TAG and CSCOPE of each record (R285)
  failTo : Nat           -- whose FAILS counts a failure: 0 none, 2n + 2 queue n, 2n + 3 bin n
  status : Nat           -- worst STATUS so far, with DETAIL (R285)
  host : Option (Nat × Nat)   -- host queue and command index
  child : Bool           -- launched by LAUNCH and with no block started (R296)
  deps : List Nat := []  -- the writes before its launch (R369)
  seen : List Nat := []  -- the writes before the ends of its blocks (R369)
  last : Nat := 128      -- a core of the block that ended last
deriving DecidableEq, Repr

/-- A bind record of R344 with the rein floor of R346 and the clocks it needs. -/
structure Bind where
  kdesc : Nat := 0
  arg : Nat := 0
  gx : Nat := 0
  gy : Nat := 0
  gz : Nat := 0
  next : Nat := 0
  past : Nat := 0
  run : Nat := 0
  item : Nat := 0
  ctx : Nat := 0
  prio : Nat := 0
  cap : Nat := 0
  age : Nat := 0
  state : Nat := 0
  src : Nat := 0
  srcn : Nat := 0
  clus : Nat := 0
  cmask : Nat := 0
  disc : Bool := false
  swz : Bool := false
  scr : Nat := 0
  rbase : Nat := 0
  rlog : Nat := 0
  sems : Nat := 0
  cb : Nat := 0
  cn : Nat := 0
  bars : Nat := 0
  tbl : Bool := false
  depth : Nat := 0
  save : Nat := 0
  floor : Nat := 0        -- F of R346, apart from the record
  since : Nat := 0        -- time in ns since which it waits (R346)
  aged : Nat := 0         -- steps of aging applied
  back : Nat := 0         -- the STATE a SAVE of one block returns to (R345)
  requeue : List Block := []   -- discarded blocks, to start again (R345)
deriving DecidableEq, Repr

/-! ## Harness grids -/

/-- A harness instruction that has been issued and has not completed (R241): its code and captured operands. -/
structure HOp where
  stamp : Nat
  code : Nat          -- OP value
  pc : Nat
  args : List Nat
  start : Nat
  done : Nat          -- pass rows entered and completed
  last : Nat := 0     -- clock at which the latest row entered (R233)
  ahead : Nat := 0    -- pass rows gathered into the A latch (R229)
deriving DecidableEq, Repr

/-- A mustering register (R219) with its grid (R222, R227, R234 to R236, R242). -/
structure HGrid where
  uid : Nat := 0        -- the grid's own number, never used again (model)
  state : Nat := 0      -- 0 free, 1 mustering, 2 harnessed, 3 releasing
  ctx : Nat := 0
  bslot : Nat := 0
  blk : Nat := 0
  expect : Nat := 0
  signed : List Nat := []   -- waves that have signed
  shape : Nat := 0
  base : Nat := 0
  accu : Nat := 0
  lead : Option Nat := none
  granules : List (Nat × List Nat) := []   -- row of the cluster, granules taken (R221)
  sw : Bool := false        -- the switch of R222 has ended
  store : Map Byte := []    -- storage by window offset, scale stores relative to 0x7F
  marks : List Nat := []    -- poison marks by storage offset (R235)
  curb : Nat := 0
  ixCur : Nat := 0          -- buffer of index vectors most recently written; its start value is the model's choice (R245; log entry 20)
  idxv : Bool := false
  sca : Bool := false
  scb0 : Bool := false
  scb1 : Bool := false
  abuf : Nat := 0
  rows : Nat := 0
  poison : Nat := 0
  desc0 : Nat := 0
  desc1 : Nat := 0
  fl : Cond := 0#5
  ops : List HOp := []         -- issued and not yet complete, oldest first
  cut : Bool := false          -- the HMMA at the head was cut at NEXTROW (R236, R237)
  waiting : List (Nat × List Byte × List Bool) := []   -- window writes that wait for the end of a pass, with their poisoned bytes (R227)
  queries : Nat := 0           -- attached queries (R311)
deriving DecidableEq, Repr

/-! ## Cluster work -/

/-- A record held by a queue or bin: its 16 words, and the grid that emitted it. -/
structure Rec where
  bytes : List Byte
  emitter : Nat
  depth : Nat
  deps : List Nat := []   -- the writes before its emission (R369)
deriving DecidableEq, Repr

/-- A task-queue descriptor (R284) with the records its slots hold. -/
structure TQ where
  ovbase : Nat := 0
  kdesc : Nat := 0
  rtail : Nat := 0
  rhead : Nat := 0
  fails : Nat := 0
  rlog2 : Nat := 0
  shead : Nat := 0
  slog2 : Nat := 0
  sbase : Nat := 0
  bank : Nat := 0
  prio : Nat := 0
  depth : Nat := 0
  valid : Bool := false
  ctx : Nat := 0
  held : List Rec := []     -- oldest first; SCOUNT is its length
  back : List (List Nat) := []   -- for each record in the ring, oldest first, the writes before its emission (R369)
deriving DecidableEq, Repr

/-- A node-bin descriptor (R290) with the records it holds. -/
structure NBin where
  kdesc : Nat := 0
  lbase : Nat := 0
  fails : Nat := 0
  timer : Nat := 0
  cntm1 : Nat := 0
  llog2 : Nat := 0
  lused : List Nat := []    -- landing slots in use
  shead : Nat := 0
  slog2 : Nat := 0
  sbase : Nat := 0
  bank : Nat := 0
  prio : Nat := 0
  trl : Bool := false
  trun : Bool := false
  timerAt : Nat := 0        -- TIME in ns at the timer's start
  fired : Bool := false
  valid : Bool := false
  ctx : Nat := 0
  held : List Rec := []
deriving DecidableEq, Repr

/-! ## The beam unit -/

/-- What a descent has still to do, in the order of R307: a visit at its stack depth, or a record to emit. -/
inductive BTodo where
  | visit (node i0 j0 lw lh lvl e : Nat)
  | emit (i0 j0 lw lh lvl first count hit : Nat) (tentry texit : Nat)
deriving DecidableEq, Repr

/-- A query slot (R314, R315). -/
structure Query where
  gen : Nat
  blk : Nat
  ctx : Nat
  grid : Nat
  wave : Nat
  state : Nat
  sub : Nat
  count : Nat
  nodeAt : Nat
  kind : Nat               -- 1 frustum, 2 cone, 3 ray
  item : Nat               -- QADDR
  words : List Nat         -- the item's words as read
  ctl : List Nat           -- the query control
  bcl : Nat
  hgrid : Nat
  todo : List BTodo
  units : Map (List Byte) := []   -- the 8-byte units of a node that have been read (R308)
deriving DecidableEq, Repr

/-- A saved block (R265): the block, its waves with their registers, its scratchpad regions and per-core state. -/
structure Saved where
  block : Block
  waves : List (Nat × Wave)       -- 64 · position in the core set + slot, wave
  regs : List (Map Word × Map Nat)
  sp : List (Map Byte × Map Bool)
  bars : List (Nat × Nat × Bar)   -- position, identifier (0x400 on for cluster barriers)
  sems : List (Nat × Nat × Word)
  rings : List (Nat × Ring)
  tbls : List (Nat × TblPair)
  grids : List (Nat × HGrid)      -- mustering register number; its waves by index in the block (R237)
  queries : List (Nat × Query)    -- query slot; its core by position in the core set (R316)
  rels : List (Map (List Rel)) := []   -- by core of the set: the releases that bytes of its region carry (R366)
  deps : List Nat := []           -- the writes before the save (R380)
deriving DecidableEq, Repr

/-! ## Debug -/

/-- A watchpoint (R272). -/
structure Watch where
  addr : Nat := 0
  ctl : Nat := 0
  hits : Nat := 0
deriving DecidableEq, Repr

/-- A cluster's debug unit (R271 to R275). -/
structure Dbg where
  state : Nat := 0         -- 0 running, 1 stopping, 2 stopped
  stepRun : Bool := false  -- a STEP runs: STATE reads 1 (R320)
  dctx : Nat := 0
  den : Bool := false
  stat : Nat := 0          -- DBGSTAT
  watch : List Watch := [{}, {}, {}, {}]
  brk : List Watch := [{}, {}, {}, {}]
deriving DecidableEq, Repr

/-! ## Contexts, host queues, reins -/

/-- A permission entry of R352. -/
structure Perm where
  idbase : Nat := 0
  idmask : Nat := 0
  vecmap : Nat := 0
deriving DecidableEq, Repr

/-- A context record in force (R352, R403). -/
structure Ctx where
  valid : Bool := false
  reinblk : Nat := 0
  handler : Nat := 0
  hkd : List Nat := [0, 0, 0, 0]
  pasid : Nat := 0
  age : Nat := 0
  cap : Nat := 0
  hprio : Nat := 0
  skid : Bool := false
  home : Nat := 0
  pol : Nat := 0
  refused : Nat := 0
  perms : List Perm := []
  image : Nat := 0
  record : Bool := false        -- a record was installed from its image
  launched : List (Nat × Nat) := []   -- groups with a policy launch not yet retired, and its grid (R355)
  raised : List Nat := []       -- vectors that hold the rein floor (R355)
  dirty : Bool := false         -- REFUSED changed since its last write-back
  sent : Map (List Nat) := []   -- by vector: the writes before the sends that it holds (R369)
deriving DecidableEq, Repr

/-- A command that has started and not completed (R351). -/
structure Cmd where
  idx : Nat
  bytes : List Byte
  at' : Nat            -- TIME in ns at which it started
deriving DecidableEq, Repr

/-- A host queue with its doorbell page (R350, R395, R396). -/
structure HostQ where
  conf : Bool := false
  base : Nat := 0
  k : Nat := 4
  die : Nat := 0
  ctx : Nat := 0
  tail : Nat := 0
  started : Nat := 0
  completed : Nat := 0
  busy : List Cmd := []
  armed : Bool := false
  rpay : Nat := 0
  sends : Nat := 0         -- RSTAT shows it mod 2^32
  result : Nat := 0
  resultOf : Nat := 0      -- the send whose result that is
  dbsender : Nat := 0
  pageCtx : Nat := 0
  valid : Bool := false
  deps : List Nat := []    -- what the host had written before its last doorbell, and what the queue's waits acquired (R377)
deriving DecidableEq, Repr

/-- A rein on its way (R354, R445): sender, vector, target context, payload, and whom the answer concerns. -/
structure Send where
  id : Nat
  vec : Nat
  ctx : Nat
  payload : Nat
  route : Nat
  w : Option (Nat × Nat)   -- sending wave and stamp
  page : Option Nat        -- doorbell page
  deps : List Nat := []    -- the writes before the send (R369)
  seq : Nat := 0           -- which send of its page it is (R395)
deriving DecidableEq, Repr

/-! ## Package and fabric -/

/-- An invalidation that waits for the next IOFENCE.C (R406). -/
inductive IoInval where
  | vma (pscid : Option Nat) (addr : Option Nat)
  | ddt
  | pdt (pid : Nat)
deriving DecidableEq, Repr

/-- A process context as the walker caches it (R402, R403). -/
structure ProcCtx where
  pid : Nat
  pscid : Nat
  levels : Nat             -- 4 for Sv48, 5 for Sv57
  root : Nat
  ade : Bool               -- Svadu
deriving DecidableEq, Repr

/-- The IOMMU (R402 to R406). -/
structure Iommu where
  ddtp : Nat := 0
  pdtp : Option Nat := none                -- the device context's directory pointer, cached
  procs : List ProcCtx := []
  inval : List IoInval := []
  fences : List (Nat × Nat) := []          -- each IOFENCE.C that waits for covered accesses: address and data (R406)
  cqb : Nat := 0                           -- the command queue: base, head, tail, control (log entry 13)
  cqh : Nat := 0
  cqt : Nat := 0
  cqcsr : Nat := 0
  fqb : Nat := 0                           -- the fault queue
  fqh : Nat := 0
  fqt : Nat := 0
  fqcsr : Nat := 0
  ipsr : Nat := 0                          -- interrupts pending
deriving DecidableEq, Repr

/-- A TLB entry (R405): the core of an L1 TLB or 128 + the die of an L2 TLB, the PSCID, the page and its bits, the PTE. -/
structure TlbEntry where
  unit : Nat
  pscid : Nat
  page : Nat
  bits : Nat
  pte : Nat
deriving DecidableEq, Repr

/-- Topology registers (R413). -/
structure Topo where
  mbase : Nat
  memsize : Nat
  clusters : Nat
  cores : Nat
  channels : Nat
  dlinks : Nat
  hlinks : Nat
  status : Nat
  gen : Nat
  memnext : Nat
  devid : Nat
deriving DecidableEq, Repr

/-- An image: its kind (0 root-of-trust firmware, 1 hub firmware, 2 Amiulo patch), its version, what it holds, and whether its vendor
signature verifies (R411). -/
structure Image where
  kind : Nat
  version : Nat
  body : Nat
  sigOk : Bool
deriving DecidableEq, Repr

/-- Flash (R411): the fields of the configuration record, whether it verifies, the log of retirements and the images. -/
structure Flash where
  format : Nat
  serial : Nat
  clusters : Nat
  cores : Nat
  channels : Nat
  pmin : Nat
  pmax : Nat
  floors : List Nat
  rlog : Nat               -- flash offset and length of the retirement log
  sigOk : Bool
  log : List (Nat × Nat)   -- retired clusters (q) and channels (256 + k), each entry with its signature
  images : List Image
  helper : Nat             -- helper data of the unclonable function (R410)
  cert : Nat               -- the vendor's certificate of the identity public key (R412)
deriving DecidableEq, Repr

/-- Power and clock (R407). -/
structure Power where
  draww : Nat
  clkmhz : Nat
  limit : Nat
  stepAt : Nat := 0        -- TIME in ns of the last step of the clock, or of DRAWW's last value (R407)
deriving DecidableEq, Repr

/-- The twin link (R438 to R440). -/
structure Twin where
  state : Nat
  why : Nat
  lanes : Nat
  rank : Nat
  drops : Nat
  replays : Nat
  doubt : Nat
  en : Bool
  run : Nat        -- consecutive replays of one flit (R438)
  downAt : Nat     -- TIME in ns of the last DOWN (R438)
deriving DecidableEq, Repr

/-- A collective entry taken (R442): its key, its fields, where it came from, and the peer's half once matched. -/
structure Coll where
  ctx : Nat
  tag : Nat
  core : Nat
  blk : Nat
  idx : Nat
  opc : Nat
  rcode : Nat
  rtype : Nat
  src : Nat
  dst : Nat
  n : Nat
  peer : Option (Nat × Nat × Nat × Nat × List Byte)   -- the peer's OPC, RCODE, RTYPE, n and source bytes
deriving DecidableEq, Repr

/-! ## The whole device -/

/-- Memory and caches. -/
structure Mem where
  mem : List Host.Cell         -- device memory, by host physical address; unlisted bytes read 0
  memPoison : List Nat         -- poisoned 8-byte units below the L1s, by address / 8 (R391)
  slc : Map Byte               -- bytes that the SLC of their home hub holds above memory (R390)
  l2 : Map (Nat × Byte)        -- bytes dirty above memory, with the die that holds them (R339, R400)
  l1 : Map L1Line              -- 128·line + core (R165)
  own : Map Nat                -- line: core that owns it exclusively (R372)
  relTab : Map (Nat × Nat)     -- 4·line + die: core mask and place among the allocations (R342)
  relAge : Nat                 -- entries of release tables allocated so far
  late : List Late             -- writes that some core has not seen, in coherence order (R364, R366)
  writes : Nat                 -- writes that have reached the L2s so far
  totals : Map (List Nat)      -- 8·core + scope: the writes before the core's latest FENCE.ar at it (R368)
  bias : List Nat              -- granules in device bias (R398)
  snoop : List Nat             -- lines the host holds (R390)
  tlb : List TlbEntry
  iommu : Iommu
deriving DecidableEq, Repr

/-- Core storage and per-core units. -/
structure Cores where
  rf : Map Word                -- ((4·core + row)·1024 + register)·32 + lane (R157)
  rfBad : Map Nat              -- the same key: poisoned halves (R269)
  sp : Map Byte                -- 2^18·core + offset (R158)
  spBad : Map Bool             -- half-words of the scratchpad
  spRels : Map (List Rel)      -- bytes of the scratchpad: the releases that their values carry (R366)
  icache : List (Nat × ILine)  -- instruction caches: core, line
  traces : List (Nat × ILine)  -- trace caches: core, window
  tbls : Map TblPair           -- 8·core + pair
  bars : Map Bar               -- by barrier key
  sems : Map Word              -- by semaphore key
  rings : Map Ring             -- 2^12·block + core
  sups : Map Sup
  errstat : Map Nat
  rr : Map Nat                 -- 4·core + row: slot that issued last (R83)
  issued : List Nat            -- rows that issued in this clock
  start : Map Nat              -- clock at which a core left reset (R117)
deriving DecidableEq, Repr

/-- Clusters and dies. -/
structure Work' where
  hgrids : Map HGrid           -- 16·cluster + j
  tqs : Map TQ                 -- 64·cluster + n
  nbins : Map NBin             -- 256·cluster + b
  queries : Map Query          -- 64·cluster + slot
  qgen : Map Nat               -- generation of a query slot
  dbgs : Map Dbg
  binds : Map Bind             -- 256·die + s
  blocks : Map Block
  grids : Map Grid
  saved : Map Saved
  levels : Map Nat             -- 256·cluster + level: context that started last (R347)
  first : Map (Nat × Nat)      -- cluster: the bind that stands first, and since when in ns (R347)
  ctxs : Map Ctx
  hqs : Map HostQ
  sends : List Send
deriving DecidableEq, Repr

/-- Package and fabric. -/
structure Pack where
  topo : Topo
  flash : Flash
  power : Power
  svc : Nat                    -- SVCSTAT.STATE
  offline : Option Nat         -- the cluster being taken offline (R416)
  retiring : Option Nat        -- the channel being retired (R417)
  chans : Nat                  -- channels in service at boot (R389)
  moved : List (Nat × Nat)     -- channels retired since boot, the latest first, each with the lines that stayed (R417)
  errs : Map (Nat × Nat)       -- channel: corrected and uncorrectable errors (R391)
  reports : List (Nat × Nat × Nat)   -- uncorrectable errors reported to management cores: core or 128 + channel, array, place (R270, R391)
  identity : Option (Nat × Nat)      -- the identity key pair, private and public, once derived (R410)
  mailbox : Nat                -- the 32 bytes of the mailbox (R412)
  report : List Nat            -- the last attestation report
  msix : List Nat              -- messages sent, oldest first
  fwEvent : Bool               -- a firmware event was reported (R411)
  patches : List (Nat × Nat)   -- dies whose management core runs a patch, with its version; any other runs ROM Amiulo alone (R408, R411)
  twin : Twin
  colls : Map Coll
  peerSends : List Send
deriving DecidableEq, Repr

/-- What comes to the device from outside, or is asked of it: an event of the instruction table; a read of a register (R162, R395,
R396), by whom as `REGISTER_WRITE` says; a load or a FENCE of a core supervisor (R169). -/
inductive Input where
  | event (i : Instr)
  | read (who addr size : Nat)
  | superLoad (core addr size : Nat)
  | superFence (core : Nat)
deriving DecidableEq, Repr

structure State where
  waves : Map Wave             -- 64·core + slot
  co : Cores
  m : Mem
  wk : Work'
  pk : Pack
  clock : Nat                  -- core clocks since module reset (R12, R117)
  timeFs : Nat                 -- TIME in fs since module reset (R117)
  -- the model's own fields
  agenda : List Input            -- what comes next from outside or by choice (log entry 1)
  cur : Nat                    -- the wave that issues (log entry 1)
  stamp : Nat                  -- issues and placements so far (log entry 1)
  free : Nat                   -- counter of free values (log entry 7)
  hostRd : Nat                 -- what the last read by the host, a supervisor or a management core returned
deriving DecidableEq, Repr

/-- Why the machine stops with a fault. -/
inductive Fault where
  /-- Raised by the meaning of every instruction when `cur` names no wave that can issue: no such issue exists on the
  hardware. Safe: step never executes an instruction in such a state (log entry 5). -/
  | noIssuer
deriving DecidableEq, Repr

/-- Why an instruction has no meaning here. -/
inductive Refusal where
  /-- Raised by an arm of exec that has no meaning yet. Safe. -/
  | notModelled (mnemonic : String)
deriving DecidableEq, Repr

/-- The device right after reset (log entries 3, 17, 18 name the values the spec leaves open). -/
def State.reset : State where
  waves := []
  co := { rf := [], rfBad := [], sp := [], spBad := [], spRels := [], icache := [], traces := [], tbls := [], bars := [], sems := [], rings := [],
          sups := [], errstat := [], rr := [], issued := [], start := [] }
  m := { mem := [], memPoison := [], slc := [], l2 := [], l1 := [], own := [], relTab := [], relAge := 0, late := [], writes := 0
         totals := [], bias := [], snoop := [], tlb := [], iommu := {} }
  wk := { hgrids := [], tqs := [], nbins := [], queries := [], qgen := [], dbgs := [], binds := [], blocks := [],
          grids := [], saved := [], levels := [], first := [], ctxs := [], hqs := [], sends := [] }
  pk := { topo := { mbase := 0, memsize := 0, clusters := 0, cores := 0, channels := 0, dlinks := 0, hlinks := 0,
                    status := 0, gen := 0, memnext := 0, devid := 0 }
          flash := { format := 1, serial := 0, clusters := 2 ^ 32 - 1, cores := 2 ^ 128 - 1, channels := 2 ^ 96 - 1,
                     pmin := 600, pmax := 900, floors := [0, 0, 0, 0], rlog := 0, sigOk := true, log := [], images := [], helper := 0
                     cert := 0 }
          power := { draww := 0, clkmhz := 2000, limit := 800 }
          svc := 0, offline := none, retiring := none, chans := 0, moved := [], errs := [], reports := [], identity := none, mailbox := 0, report := [], msix := [], fwEvent := false, patches := []
          twin := { state := 0, why := 0, lanes := 0, rank := 0, drops := 0, replays := 0, doubt := 0, en := true,
                    run := 0, downAt := 0 }
          colls := [], peerSends := [] }
  clock := 0
  timeFs := 0
  agenda := []
  cur := 0
  stamp := 0
  free := 0
  hostRd := 0

end Sys2Proof.Machine
end

