-- ==== Sys2Proof/Machine/Store.lean ====
section
/-! DEFINITION. Store.lean: sparse maps by rising key, and byte memory over them. A cell map lists no entry equal to
its default, so equal contents are equal data. -/

namespace Sys2Proof.Machine

/-- The entry at a key. -/
def mget {α : Type} : Map α → Nat → Option α
  | [], _ => none
  | (j, x) :: m, k => if j = k then some x else mget m k

/-- The map with an entry set. -/
def mput {α : Type} : Map α → Nat → α → Map α
  | [], k, v => [(k, v)]
  | (j, x) :: m, k, v =>
    if k < j then (k, v) :: (j, x) :: m
    else if k = j then (k, v) :: m
    else (j, x) :: mput m k v

/-- The map without an entry. -/
def mdel {α : Type} : Map α → Nat → Map α
  | [], _ => []
  | (j, x) :: m, k => if j = k then m else (j, x) :: mdel m k

/-- The entry at a key, or a default. -/
def mgetD {α : Type} (m : Map α) (k : Nat) (d : α) : α := (mget m k).getD d

/-- An entry changed where there is one. -/
def mmod {α : Type} (m : Map α) (k : Nat) (f : α → α) : Map α :=
  match mget m k with
  | some x => mput m k (f x)
  | none => m

/-- A cell: the value at a key, the default where none is listed. -/
def cget {α : Type} (m : Map α) (k : Nat) (d : α) : α := (mget m k).getD d

/-- A cell written: the default is not listed. -/
def cput {α : Type} [DecidableEq α] (m : Map α) (k : Nat) (d v : α) : Map α :=
  if v = d then mdel m k else mput m k v

/-- Keys strictly rise. -/
def mrising {α : Type} : Map α → Bool
  | [] => true
  | [_] => true
  | (j, _) :: (k, x) :: m => decide (j < k) && mrising ((k, x) :: m)

/-- The cell form: keys strictly rise and no entry is the default. -/
def cwf {α : Type} [DecidableEq α] (d : α) (m : Map α) : Bool := mrising m && m.all fun p => decide (p.2 ≠ d)

/-- The entries whose keys lie in [lo, lo + n), keys relative to lo. -/
def mslice {α : Type} (m : Map α) (lo n : Nat) : Map α :=
  (m.filter fun p => decide (lo ≤ p.1) && decide (p.1 < lo + n)).map fun p => (p.1 - lo, p.2)

/-- The entries outside [lo, lo + n). -/
def mclear {α : Type} (m : Map α) (lo n : Nat) : Map α :=
  m.filter fun p => decide (p.1 < lo) || decide (lo + n ≤ p.1)

/-- The lowest number from `k` on that is no key, within `n` tries. -/
def lowestFree {α : Type} (m : Map α) : Nat → Nat → Nat
  | 0, k => k
  | n + 1, k => if (mget m k).isNone then k else lowestFree m n (k + 1)

/-- What a byte of memory that nothing has written reads as (log entry 3). -/
def unlisted : Byte := 0#8

/-- One byte of memory. -/
def memGet (m : List Host.Cell) (a : Nat) : Byte := cget m a unlisted

/-- One byte of memory written. -/
def memPut (m : List Host.Cell) (a : Nat) (v : Byte) : List Host.Cell := cput m a unlisted v

/-- The canonical form of memory: addresses strictly rising, no entry equal to what an unlisted address reads as. -/
def Memory.wf (m : List Host.Cell) : Bool := cwf unlisted m

/-- Sorted insertion into a list without repeats. -/
def ladd : List Nat → Nat → List Nat
  | [], k => [k]
  | j :: l, k => if k < j then k :: j :: l else if k = j then j :: l else j :: ladd l k

/-- The numbers of a 32-bit lane mask, ascending. -/
def lanesOf (w : Word) : List Nat := (List.range 32).filter fun l => w.getLsbD l

/-- The mask of the lanes a predicate selects. -/
def maskOf (p : Nat → Bool) : Word :=
  BitVec.ofNat 32 ((List.range 32).foldl (fun a l => if p l then a + 2 ^ l else a) 0)

/-- The mask of a list of lanes. -/
def maskOfList (ls : List Nat) : Word := maskOf fun l => ls.contains l

/-- Little-endian value of bytes (R11), of any length. -/
def leVal : List Byte → Nat
  | [] => 0
  | b :: bs => b.toNat + 256 * leVal bs

/-- `n` bytes of a number, least significant first (R11). -/
def leBytesOf : Nat → Nat → List Byte
  | 0, _ => []
  | n + 1, x => BitVec.ofNat 8 x :: leBytesOf n (x / 256)

/-- Bits hi:lo of a number. -/
def bitsOf (x hi lo : Nat) : Nat := x / 2 ^ lo % 2 ^ (hi + 1 - lo)

/-- Bytes i to i + n − 1 of a record, as a number. -/
def fieldOf (bs : List Byte) (i n : Nat) : Nat := leVal ((bs.drop i).take n)

/-- Signed reading of an n-bit number. -/
def signedOf (n x : Nat) : Int := if x % 2 ^ n < 2 ^ (n - 1) then (x % 2 ^ n : Nat) else ((x % 2 ^ n : Nat) : Int) - 2 ^ n

/-- An integer modulo 2^n. -/
def wrapInt (n : Nat) (x : Int) : Nat := (x % (2 ^ n : Int)).toNat

/-- n divided by d, rounded up. -/
def ceilDiv (n d : Nat) : Nat := (n + d - 1) / d

end Sys2Proof.Machine
end

