-- ==== Sys2Proof/Machine/Ops.lean ====
section
/-! DEFINITION. Ops.lean: the named operations over waves and registers, the issue of an instruction, and taking
a trap (02 R60 to R70; 03 R75 to R98; 11 R257 to R262). -/

namespace Sys2Proof.Machine

/-- What a step answers. -/
abbrev Out := Host.Outcome State Fault Refusal

/-! ## Waves -/

/-- Core, slot and row of a wave number (R155). -/
def coreOf (w : Nat) : Nat := w / 64
def slotOf (w : Nat) : Nat := w % 64
def rowOf (w : Nat) : Nat := w % 64 / 16
/-- The lane row of the device that a wave stands on. -/
def deviceRow (w : Nat) : Nat := 4 * coreOf w + rowOf w
/-- Cluster and die of a core (R3). -/
def clusterOf (core : Nat) : Nat := core / 4
def dieOf (core : Nat) : Nat := core / 32

def State.wave (s : State) (w : Nat) : Option Wave := mget s.waves w

def State.putWave (s : State) (w : Nat) (x : Wave) : State := { s with waves := mput s.waves w x }

def State.modWave (s : State) (w : Nat) (f : Wave → Wave) : State := { s with waves := mmod s.waves w f }

/-- Every wave changed by a function of its number. -/
def State.mapWaves (s : State) (f : Nat → Wave → Wave) : State :=
  { s with waves := s.waves.map fun p => (p.1, f p.1 p.2) }

def State.block (s : State) (b : Nat) : Option Block := mget s.wk.blocks b

/-- The context of a wave's block. -/
def State.ctxNo (s : State) (x : Wave) : Nat := ((s.block x.blk).map Block.ctx).getD 0

/-- The context record in force for a wave's context. -/
def State.ctxRec (s : State) (x : Wave) : Ctx := mgetD s.wk.ctxs (s.ctxNo x) {}

/-- TIME in nanoseconds (R117). -/
def State.timeNs (s : State) : Nat := s.timeFs / 1000000

/-- ALLOC of R76. -/
def Wave.alloc (x : Wave) : Nat := x.gmap.length

/-- SBCHK of R76. -/
def Wave.sbchk (x : Wave) : Bool := x.wcw.getLsbD 15

/-- The enable bits of R76 at the positions of their flags. -/
def Wave.enables (x : Wave) : Cond := x.wcw.extractLsb' 8 5

/-- The conditions whose enables are 1 (R36). -/
def Wave.enabled (x : Wave) (c : Cond) : Cond := x.enables &&& c

/-- Conditions ORed into the sticky flags (R35). -/
def Wave.orFlags (x : Wave) (c : Cond) : Wave := { x with wcw := x.wcw ||| c.setWidth 32 }

def Wave.lane (x : Wave) (l : Nat) : Lane := x.lanes.getD l ⟨0#64, 0, .exited, 0⟩

/-- The lanes in a state, as a mask (R116). -/
def Wave.lanesIn (x : Wave) (st : LaneState) : Word := maskOf fun l => (x.lane l).st == st

def Wave.liveMask (x : Wave) : Word := x.lanesIn .live

/-- Lanes changed by a function of their number. -/
def Wave.mapLanes (x : Wave) (f : Nat → Lane → Lane) : Wave :=
  { x with lanes := x.lanes.mapIdx fun l y => f l y }

/-! ## Registers -/

/-- Where register vN of a wave lies for a lane (R157). -/
def rfKey (w : Nat) (x : Wave) (n lane : Nat) : Nat :=
  (deviceRow w * 1024 + (8 * x.gmap.getD (n / 8) 0 + n % 8)) * 32 + lane

/-- lane(vN, l) (R15). -/
def State.vread (s : State) (w : Nat) (x : Wave) (n lane : Nat) : Word := cget s.co.rf (rfKey w x n lane) 0#32

/-- Poisoned halves of a lane word (R269). -/
def State.vbad (s : State) (w : Nat) (x : Wave) (n lane : Nat) : Nat := cget s.co.rfBad (rfKey w x n lane) 0

/-- A lane word written: the mark becomes the one given (R269). -/
def State.vwrite (s : State) (w : Nat) (x : Wave) (n lane : Nat) (v : Word) (bad : Nat) : State :=
  { s with co := { s.co with
      rf := cput s.co.rf (rfKey w x n lane) 0#32 v
      rfBad := cput s.co.rfBad (rfKey w x n lane) 0 bad } }

/-- s0 reads 0 (R75). -/
def Wave.sread (x : Wave) (n : Nat) : Word := if n = 0 then 0#32 else cget x.s n 0#32

/-- Writes to s0 are discarded (R52). -/
def Wave.swrite (x : Wave) (n : Nat) (v : Word) : Wave := if n = 0 then x else { x with s := cput x.s n 0#32 v }

/-- k0 reads all ones (R75). -/
def Wave.kread (x : Wave) (n : Nat) : Word := if n = 0 then BitVec.allOnes 32 else cget x.k n 0#32

/-- Writes to k0 are discarded (R52). -/
def Wave.kwrite (x : Wave) (n : Nat) (v : Word) : Wave := if n = 0 then x else { x with k := cput x.k n 0#32 v }

/-- One bit of a predicate written. -/
def Wave.kwriteBit (x : Wave) (n lane : Nat) (b : Bool) : Wave :=
  let m : Word := 1#32 <<< lane
  x.kwrite n (if b then x.kread n ||| m else x.kread n &&& ~~~m)

/-- One register result lands. A v register the wave no longer holds takes nothing. -/
def State.applyWrite (s : State) (w : Nat) (r : RegWrite) : State :=
  match s.wave w with
  | none => s
  | some x =>
    match r with
    | .v n lane v bad => if n < 8 * x.alloc then s.vwrite w x n lane v bad else s
    | .s n v => s.putWave w (x.swrite n v)
    | .k n lane b => s.putWave w (x.kwriteBit n lane b)

def State.applyWrites (s : State) (w : Nat) (rs : List RegWrite) : State := rs.foldl (fun s r => s.applyWrite w r) s

/-! ## Completion and landing -/

/-- A claim on a slot released (R64). -/
def Wave.release (x : Wave) (slot : Nat) : Wave :=
  if slot = 0 then x else { x with d := x.d.set (slot - 1) (x.d.getD (slot - 1) 0 - 1) }

/-- A pending instruction of a wave, by stamp. -/
def Wave.pending (x : Wave) (n : Nat) : Option Pend := x.pend.find? fun p => p.stamp == n

/-- A pending instruction completes: it leaves the list and its slot is released. -/
def Wave.complete (x : Wave) (n : Nat) : Wave :=
  match x.pending n with
  | none => x
  | some p => { x.release p.slot with pend := x.pend.filter fun q => q.stamp != n }

/-- The rest of a pending instruction changes. -/
def Wave.setWork (x : Wave) (n : Nat) (k : Work) : Wave :=
  { x with pend := x.pend.map fun p => if p.stamp == n then { p with work := k } else p }

/-- A pending instruction's results become known: they land from the clock given on. -/
def Wave.bind (x : Wave) (n due : Nat) (ws : List RegWrite) : Wave :=
  { x with pend := x.pend.map fun p => if p.stamp == n then { p with work := .bound ws, due := due } else p }

/-- No older pending instruction writes a register that this one writes (R62). -/
def Wave.inOrder (x : Wave) (p : Pend) : Bool :=
  x.pend.all fun q => !decide (q.stamp < p.stamp) || !(q.dst.any fun r => p.dst.contains r)

/-- Registers of a destination. -/
def Dst.refs (d : Dst) : List RegRef :=
  match d.cls with
  | 0 => (List.range d.cnt).map fun i => .v (d.base + i)
  | 1 => (List.range d.cnt).map fun i => .s (d.base + i)
  | _ => [.k d.base]

/-- A value of cnt words written to a lane of a v destination or to an s destination. -/
def Dst.writes (d : Dst) (lane : Nat) (x : Nat) (bad : Nat) : List RegWrite :=
  (List.range d.cnt).map fun i =>
    let y := BitVec.ofNat 32 (x / 2 ^ (32 * i))
    if d.cls = 0 then .v (d.base + i) lane y (bad / 4 ^ i % 4) else .s (d.base + i) y

/-- All 32 bits of a predicate written (R213). -/
def kwriteAll (n : Nat) (x : Word) : List RegWrite := (List.range 32).map fun l => .k n l (x.getLsbD l)

/-! ## Choosing what issues -/

/-- Key order of R84: epoch first, then PC. -/
def keyLt (a b : Nat × Nat) : Bool := decide (a.1 < b.1) || (a.1 == b.1 && decide (a.2 < b.2))

/-- The issue PC: the PC of the live lane with the smallest key (R84). -/
def Wave.issuePc (x : Wave) : Option Nat :=
  (x.lanes.foldl (fun (best : Option (Nat × Nat)) y =>
    if y.st == .live then
      match best with
      | none => some (y.ep, y.pc.toNat)
      | some b => if keyLt (y.ep, y.pc.toNat) b then some (y.ep, y.pc.toNat) else some b
    else best) none).map Prod.snd

/-- active() of R15: every live lane at the issue PC, whatever its epoch (R84). -/
def Wave.activeAt (x : Wave) (pc : Nat) : Word :=
  maskOf fun l => (x.lane l).st == .live && (x.lane l).pc.toNat == pc

/-- Work whose register results are of variable latency (R64). -/
def Work.variable : Work → Bool
  | .regs _ => false
  | _ => true

/-- The results of variable latency that are known already and have not landed. -/
def Work.known : Work → List RegWrite
  | .bound ws | .sfu ws _ => ws
  | _ => []

/-- What pending work writes when it lands, as far as that is known. -/
def Work.lands : Work → List RegWrite
  | .regs ws => ws
  | k => k.known

/-- An instruction that keeps its claim while its wave is stopped or saved (R448). -/
def Work.kept : Work → Bool
  | .park _ => true
  | .cpwait _ => true
  | .cpseal _ => true
  | .bstat w .. => w
  | .hmma _ => true
  | _ => false

/-- The bit a known result has for a lane of a predicate. -/
def RegWrite.findK (ws : List RegWrite) (n lane : Nat) : Option Bool :=
  ws.findSome? fun q => match q with | .k m l b => if m = n ∧ l = lane then some b else none | _ => none

/-- A predicate read, by an operand or as a guard, while a write of variable latency is pending: for each lane the bit
before the write or the bit it writes (R65; log entry 7). -/
def Wave.earlyK (x : Wave) (stamp n : Nat) : Word :=
  match if n = 0 then none else x.pend.reverse.find? fun p => p.dst.contains (.k n) && p.work.variable with
  | none => x.kread n
  | some p => maskOf fun l =>
      let old := (x.kread n).getLsbD l
      if Config.earlyOld stamp (0x300 + n) l then old else (RegWrite.findK p.work.known n l).getD old

/-- guard(l) over an active set (R67), the predicate read as R65 gives. -/
def Wave.guarded (x : Wave) (stamp : Nat) (b : Body) (act : Word) : Word :=
  let k := x.earlyK stamp b.gk.toNat
  act &&& (if b.gn then ~~~k else k)

/-- An instruction as it issues: its wave, its address, active() and the contributors. -/
structure Issue where
  w : Nat
  x : Wave
  pc : Nat
  act : Word
  con : Word
  i : Instr              -- in I64 terms (R49, R50)
  b : Body
  span : Nat             -- bytes to its fall-through point
  replay : Bool := false
deriving Repr

/-- The wave that issues, when it can: it runs and has a live lane, or an instruction to replay
(R83, R261). -/
def State.issuer (s : State) (i : Instr) (span : Nat) : Option Issue :=
  match s.wave s.cur with
  | none => none
  | some x =>
    if x.run != .running then none
    else
      match x.replay with
      | some (pc, m, _) =>
        let act := m &&& x.liveMask
        some { w := s.cur, x := x, pc := pc, act := act, con := x.guarded s.stamp i.body act, i := i, b := i.body, span := span, replay := true }
      | none =>
        match x.issuePc with
        | none => none
        | some pc =>
          let act := x.activeAt pc
          some { w := s.cur, x := x, pc := pc, act := act, con := x.guarded s.stamp i.body act, i := i, b := i.body, span := span }

/-! ## Taking a trap -/

/-- The register number of the frame's REG field: class in [10:8], index in [7:0] (R258). -/
def regCode : RegRef → Nat
  | .v n => 0x100 + n
  | .s n => 0x200 + n
  | .k n => 0x300 + n

/-- The code of a cause (R257). -/
def Cause.code : Cause → Nat
  | .illegalOpcode => 0x01 | .illegalEncoding => 0x02 | .illegalOperand => 0x03 | .stallShort => 0x04
  | .fetchFault => 0x05 | .targetFault => 0x06 | .fpException => 0x07 | .userTrap => 0x08 | .breakpoint => 0x09
  | .watchpoint => 0x0A | .debugStop => 0x0B | .misaligned => 0x10 | .pageFault => 0x11 | .accessFault => 0x12
  | .scratchRange => 0x13 | .windowPerm => 0x14 | .dataPoison => 0x15 | .mlLimit => 0x18 | .mlState => 0x19
  | .barrierLimit => 0x1A | .barrierBusy => 0x1B | .syncRange => 0x1C | .reinPerm => 0x1D | .harnessRfBusy => 0x20
  | .harnessMismatch => 0x21 | .harnessState => 0x22 | .harnessRecord => 0x23 | .harnessRange => 0x24
  | .sparseMetadata => 0x25 | .workRecord => 0x28 | .beamRecord => 0x29

/-- The wave control word as RCSR reads it: the writable bits and ALLOC (R76). -/
def Wave.wcwRead (x : Wave) : Word := x.wcw ||| (BitVec.ofNat 32 x.alloc <<< 16)

/-- The epochs of all lanes, lane l at [4l+3:4l] (R258). -/
def Wave.stv (x : Wave) : Nat :=
  (List.range 32).foldl (fun a l => a + (x.lane l).ep * 16 ^ l) 0

/-- WHO of R258: slot number and wave index. -/
def whoOf (w : Nat) (x : Wave) : Nat := slotOf w * 2 ^ 16 + x.widx * 2 ^ 8

/-- A frame filled from the wave as it stands (R258). -/
def mkFrame (s : State) (w : Nat) (x : Wave) (t : Trap) (issueSet : Word) (pc : Nat) (iwords : List Byte)
    (dbg replay imprecise : Bool) (skidCause : Option Cause) (skid : Nat) : Frame :=
  { trap := t, dbg := dbg, replay := replay, imprecise := imprecise, skidCause := skidCause, issueSet := issueSet
    pc := pc, iwords := iwords, skid := skid, who := whoOf w x, time := s.timeNs, stv := x.stv
    live := x.lanesIn .live, parked := x.lanesIn .parked, exited := x.lanesIn .exited, wcw := x.wcwRead }

/-- A wave's transaction is lost when it is not empty (R192). -/
def Txn.lose (t : Txn) : Txn :=
  if t.lines.isEmpty && t.buf.isEmpty then t else { lines := [], disturbed := [], buf := [], lost := true }

/-- A wave stops with a frame: it issues nothing more, every lane keeps its PC, epoch and state, and its transaction
is lost (R98, R192, R262). The frame and the report follow once its producers have completed. -/
def Wave.stopWith (x : Wave) (f : Frame) : Wave :=
  { x with run := .stopping, trapped := true, dbg := x.dbg || f.dbg, frame := some f, reported := false, replay := none, hit := none,
           txn := x.txn.lose }

/-- A lane row has issued in this clock, last from this slot (R83). -/
def State.rowIssued (s : State) (w : Nat) : State :=
  { s with co := { s.co with
      issued := ladd s.co.issued (deviceRow w)
      rr := mput s.co.rr (deviceRow w) (w % 16) } }

/-- The issue PC at a debug stop, with the lanes that stand there; with no live lane the PC of a parked one (R258, R274). -/
def Wave.stopAt (x : Wave) : Nat × Word :=
  match x.issuePc with
  | some p => (p, x.activeAt p)
  | none => (((x.lanes.find? fun (y : Lane) => y.st == LaneState.parked).map fun (y : Lane) => y.pc.toNat).getD 0, 0#32)

/-- A wave takes its debug stop: the frame of R272, R274 and R319, whose REPLAY is 0 as its IWORDS are (R318, R319). An instruction it
was still to replay (R261) stays with the wave, which issues it first after its resume (log entry 39). -/
def State.takeHit (s : State) (w : Nat) (x : Wave) (h : Hit) : State :=
  let t := if h.pc.isSome then h.trap else { h.trap with mask := x.stopAt.2 }
  let f := mkFrame s w x t h.issueSet (h.pc.getD x.stopAt.1) h.iwords true false false none (x.issues - h.issues)
  s.putWave w { x.stopWith f with replay := x.replay }

/-- A trap found after its instruction has issued (R139, R254, R260): a running wave stops with it. One that has a debug stop to take, or
has stopped already, for debug or for a save, does not take it: `again` is the wave with the instruction to be issued again (R274; log
entry 39). -/
def State.lateTrap (s : State) (w : Nat) (x again : Wave) (f : Frame) : State :=
  if x.run = .running then
    match x.hit with
    | none => s.putWave w (x.stopWith f)
    | some h => s.takeHit w again h
  else s.putWave w again

/-- A translation check that is pending in SKID mode (R260). -/
def Work.isCheck : Work → Bool
  | .check .. => true
  | _ => false

/-- The cause of a younger instruction's trap held behind a pending check (R260). -/
def Work.holding (k : Work) (c : Cause) : Work :=
  match k with
  | .check t n none => .check t n (some c)
  | _ => k

/-- One younger instruction issued behind a pending check (R260). -/
def Work.countSkid (k : Work) : Work :=
  match k with
  | .check t n h => .check t (n + 1) h
  | _ => k

/-- TAKING A TRAP at an instruction that issues (R70, R98, R258). A precise trap behind a pending SKID check does not
issue: its cause is held (R260). A wave that has a debug stop to take takes that instead, but for a BKPT that joins a stop
(R115): its frame is its own. A stepped instruction that traps gives its frame with DBG = 1 (R275), a replayed one with
REPLAY = 1 (R261; log entry 39). The flags a trapping instruction raised are ORed in (R36). -/
def State.takeTrap (s : State) (c : Issue) (iwords : List Byte) (t : Trap) (fl : Cond := 0#5)
    (post : State → State := id) : State :=
  match c.x.pend.find? fun p => p.work.isCheck with
  | some p => s.putWave c.w (c.x.setWork p.stamp (p.work.holding t.cause))
  | none =>
    match c.x.hit.filter fun h => !t.dbg || h.pc.isSome with
    | some h => s.takeHit c.w c.x h
    | none =>
    let x := c.x.orFlags fl
    let f := mkFrame s c.w x t c.con c.pc iwords (x.stepping || t.dbg) c.replay false none 0
    post ((s.putWave c.w (x.stopWith f)).rowIssued c.w)

/-! ## Issuing -/

/-- The effect of an instruction that does not trap. `work` is what is left to do after the issue, due no earlier than
`lat` clocks on; `jump` sends a lane elsewhere than to the fall-through (R86). -/
structure Fx where
  s : State
  work : Option Work := none
  lat : Nat := 1
  hold : Bool := false
  jump : Nat → Option Nat := fun _ => none
  extra : Nat := 0
  stay : Bool := false      -- the instruction will trap: the lanes keep this PC and their epochs (R98, R139)
  skid : Bool := false      -- its check will fail behind it: the lanes go on, and keep their epochs (R98, R260)
  late : Bool := false      -- the instruction may still trap when it completes (R254)
  parts : List Piece := []

/-- What an effect comes to: a trap, an effect, or no issue yet (R192). -/
inductive Eff where
  | wait
  | trap (t : Trap) (fl : Cond := 0#5) (post : State → State := id)
  | go (f : Fx)

/-- A trap of one cause at a set of lanes. -/
def Eff.raise (cause : Cause) (mask : Word) (sub addr : Nat := 0) : Eff :=
  .trap { cause := cause, sub := sub, addr := addr, mask := mask }

/-- A wave has a live lane, and every live lane has an epoch of at least 1 (R88). -/
def Wave.epochsAhead (x : Wave) : Bool :=
  x.lanes.any (fun y => y.st == .live) && x.lanes.all (fun y => y.st != .live || decide (y.ep ≥ 1))

/-- R88: when every live lane has an epoch of at least 1, every lane that is not exited loses one. -/
def Wave.renormalise (x : Wave) : Wave :=
  if x.epochsAhead then x.mapLanes fun _ y => if y.st == .exited then y else { y with ep := y.ep - 1 } else x

/-- The renormalisation of an issue taken back, when the instruction traps after all (R88, R98). -/
def Wave.restoreEpochs (x : Wave) : Wave :=
  x.mapLanes fun _ y => if y.st == .exited then y else { y with ep := y.ep + 1 }

/-- R89: neglect counts after an issue with an active set, by the lanes that were live as it issued. -/
def Wave.countNeglect (x : Wave) (act live : Word) : Wave :=
  x.mapLanes fun l y =>
    if act.getLsbD l then { y with neglect := 0 }
    else if live.getLsbD l && y.st == .live then { y with neglect := min (y.neglect + 1) 1024 }
    else y

/-- The instruction's bytes are held with a pending entry, for a frame that names it later. -/
def Issue.pend (c : Issue) (s : State) (iwords : List Byte) (f : Fx) : Option Pend :=
  let u := c.i.uses
  match f.work with
  | some k =>
    some { stamp := s.stamp, slot := c.b.set.toNat, due := s.clock + f.lat, hold := f.hold, pc := c.pc, act := c.act
           con := c.con, iwords := iwords, dst := u.writes, src := u.reads ++ [.k c.b.gk.toNat], work := k, parts := f.parts
           late := f.late, at' := s.timeFs }
  | none =>
    if c.b.set = 0#3 then none
    else
      some { stamp := s.stamp, slot := c.b.set.toNat, due := s.clock + 1, hold := false, pc := c.pc, act := c.act
             con := c.con, iwords := iwords, dst := [], src := [], work := .slot }

/-- A claim of a slot at issue (R64). -/
def Wave.claim (x : Wave) (slot : Nat) : Wave :=
  if slot = 0 then x else { x with d := x.d.set (slot - 1) (x.d.getD (slot - 1) 0 + 1) }

/-- What every issue does besides its effect: slot claim, PCs (R86), neglect counts (R89), renormalisation unless it traps
(R88), the STALL bound (R60), the row's selection (R83). Instructions behind a pending SKID check are counted (R260); those
of the clock of a debug hit are not (R274). A breakpoint passed once is armed again for this wave (R273). Only an instruction that
may still trap keeps what a trap at it takes back (R254). -/
def State.retire (s : State) (c : Issue) (iwords : List Byte) (f : Fx) : State :=
  let s1 := f.s.modWave c.w fun x =>
    let x := x.countNeglect c.act c.x.liveMask
    let x := if f.stay || c.replay then x else
      x.mapLanes fun l y =>
        if c.act.getLsbD l && y.st != .exited then
          { y with pc := BitVec.ofNat 64 ((f.jump l).getD (c.pc + c.span)) }
        else y
    let due := !(f.stay || f.skid) && x.epochsAhead
    let x := if due then x.renormalise else x
    let x := x.claim c.b.set.toNat
    let x : Wave := { x with pend := x.pend.map fun (p : Pend) => { p with work := p.work.countSkid } }
    let x := match c.pend s iwords f with
      | some p => { x with pend := x.pend ++ [{ p with undo := p.late && due }] }
      | none => x
    { x with next := max x.next (s.clock + 1 + c.b.stall.toNat + f.extra), issues := x.issues + 1
             hit := x.hit.map fun (h : Hit) => if h.clock = s.clock then { h with issues := h.issues + 1 } else h
             skipBp := x.skipBp.filter fun a => a != c.pc, replay := none }
  ({ s1 with stamp := s.stamp + 1 } : State).rowIssued c.w

/-- The halves of the i-th register of a group that hold some of the group's first n bits. -/
def halvesOf (n i : Nat) : Nat := if n ≤ 32 * i then 0 else if n ≤ 32 * i + 16 then 1 else 3

/-- The bits of a group that its first k elements lie in: of elements of 6 bits, four to a register (R127). -/
def elemSpan (bits k : Nat) : Nat := if bits = 6 then 32 * (k / 4) + 6 * (k % 4) else k * bits

/-- The halves read of a register by an instruction that needs the low half of its operand B alone: all of one that another
source of it names too, but for the registers of `idle`, those of a block that it ignores. -/
def onlyB (i : Instr) (idle : List RegRef) (r : RegRef) : Nat :=
  match i.sig with
  | none => 3
  | some (x, g) =>
    let a := if x.immOn g.role true then [] else g.a.regs x.aS x.a.toNat (Body.regs x.aW)
    let c := if g.role != .third then [] else
      if x.acc then g.d.regs true x.d.toNat (Body.regs x.dW) else g.c.regs x.cS x.cIdx (2 ^ x.cW)
    let used := fun (rs : List RegRef) => rs.filter fun q => !idle.contains q
    if ((if i.core matches .mxpack _ then a else used a) ++ c ++ used i.core.readExtra).contains r then 3
    else if !x.bS && r == .v x.b.toNat then 1 else 0

/-- The top two registers of an octet that holds a block of 6-bit elements (R136). -/
def mxIdle (b : Body) (octet : BitVec 8) : List RegRef :=
  if b.mdN % 8 = 2 ∨ b.mdN % 8 = 3 then [.v (octet.toNat + 6), .v (octet.toNat + 7)] else []

/-- The halves of a register that an instruction reads (R269): a store of one or two bytes, and FCLASS of a 16-bit
format, read the low half of their data register alone; FCVT and ICVT read the elements they convert, and the random values for
them; the counts of BFE, BFI and PRMT stand in the low half of B (R103); MXUNPK and MXPACK read the low half of B, and of an
octet of 6-bit elements not the top two registers (R136). -/
def instrHalves (i : Instr) (r : RegRef) : Nat :=
  match i.core with
  | .st b | .sts b | .stw b =>
    if memBytes (b.mdN % 8) ≤ 2 && !b.bS && r == .v b.b.toNat && !(Fld.regs (.vs 0) b.aS b.a.toNat (Body.regs b.aW)).contains r
    then 1 else 3
  | .fclass b => if b.mdN = 0 then 3 else 1
  | .bfe _ | .bfi _ | .prmt _ => onlyB i [] r
  | .mxunpk b => onlyB i (mxIdle b b.a) r
  | .mxpack b => onlyB i (mxIdle b b.d) r
  | .fcvt b =>
    match r with
    | .v n =>
      let k := fcvtCount b
      if n < b.a.toNat + Body.regs b.aW then halvesOf (elemSpan (fcvtFmt (b.b.toNat / 8 % 8)).bits k) (n - b.a.toNat)
      else halvesOf (16 * k) (n - (fcvtRandom b).1)
    | _ => 3
  | .icvt b =>
    match r with
    | .v n =>
      let src := icvtBits (b.b.toNat / 16)
      halvesOf (min (capacity src (Body.regs b.aW)) (capacity (icvtBits (b.b.toNat % 16)) (Body.regs b.dW)) * src) (n - b.a.toNat)
    | _ => 3
  | _ => 3

/-- The contributors that read a poisoned half of a register (R269). -/
def State.poisonedIn (s : State) (c : Issue) (r : RegRef) : Word :=
  match r with
  | .v n => maskOf fun l => c.con.getLsbD l && (s.vbad c.w c.x n l &&& instrHalves c.i r) != 0
  | _ => 0#32

/-- The first register in the order D, A, B, C that a contributor reads poisoned, with every lane that reads a poisoned
half (R269). -/
def State.poisoned (s : State) (c : Issue) : Option (RegRef × Word) :=
  if s.co.rfBad.isEmpty then none
  else
    (c.i.uses.reads.find? fun r => s.poisonedIn c r != 0#32).map fun r =>
      (r, c.i.uses.reads.foldl (fun m q => m ||| s.poisonedIn c q) 0#32)

/-- The first register, in the order D, A, B, C and then the guard, with a pending write (R65). -/
def Wave.stallShort (x : Wave) (i : Instr) (gk : Nat) : Option RegRef :=
  let u := i.uses
  (u.writes ++ u.reads ++ [RegRef.k gk]).find? fun r => x.pend.any fun p => p.dst.contains r

/-- Harness instructions, OP 0x1E0 to 0x1EF (R69). -/
def isHarnessOp (op : Nat) : Bool := decide (0x1E0 ≤ op) && decide (op ≤ 0x1EF)

/-- Operations that use a lane datapath, which a harnessed lead may not issue (R223). -/
def usesDatapath (i : Instr) : Bool :=
  let op := i.op
  decide (op ≤ 0x019) || (decide (0x080 ≤ op) && decide (op ≤ 0x0B8))
    || (decide (0x100 ≤ op) && decide (op ≤ 0x116))

/-- The harnessed grid a wave is a member of (R220, R223). -/
def State.gridOfWave (s : State) (w : Nat) : Option (Nat × HGrid) :=
  s.wk.hgrids.find? fun p => p.2.state != 0 && p.2.signed.contains w

/-- Whether a wave is the lead of a harnessed grid. -/
def State.isLead (s : State) (w : Nat) : Bool :=
  match s.gridOfWave w with
  | some (_, g) => g.lead == some w && decide (g.state ≥ 2)
  | none => false

/-- Rows 5 to 7 of R70 as far as they need the wave, then harness mode (R223) and poisoned sources (R269). Rows 5 to 7 are
checks of the fault table, made whatever the guard: that R68 means row 7 too is the model's reading (log entry 27). HARNESS_STATE of a
lead's lane-datapath operation names its contributors, as the other harness causes do: R223 names no lanes (log entry 21). -/
def State.precheck (s : State) (c : Issue) : Option Trap :=
  if c.i.vTop > 8 * c.x.alloc then some { cause := .illegalOperand, mask := c.act }
  else if isHarnessOp c.i.op && c.con != 0#32 && c.con != c.act then some { cause := .illegalOperand, mask := c.act }
  else
    match if c.x.sbchk then c.x.stallShort c.i c.b.gk.toNat else none with
    | some r => some { cause := .stallShort, mask := c.act, reg := regCode r }
    | none =>
      if c.con = 0#32 then none
      else if usesDatapath c.i && s.isLead c.w then some { cause := .harnessState, mask := c.con }
      else
        match s.poisoned c with
        | some (r, m) => some { cause := .dataPoison, sub := 1, mask := m, reg := regCode r }
        | none => none

/-- The bytes of an instruction for a frame: its parcels, unused bytes 0 (R258). -/
def frameWords (bs : List Byte) : List Byte := (bs ++ List.replicate 12 0#8).take 12

/-- THE ISSUE of an instruction by the wave `cur`, given in I64 terms with its length and its bytes: the checks of R70, the guard (R68), then its effect. -/
def issue (i : Instr) (span : Nat) (iwords : List Byte) (s : State) (eff : Issue → State → Eff) : Out :=
  match s.issuer i span with
  | none => .fault .noIssuer
  | some c =>
    match s.precheck c with
    | some t => .next (s.takeTrap c iwords t)
    | none =>
      if c.con = 0#32 then .next (s.retire c iwords { s := s })
      else
        match eff c s with
        | .wait => .next (s.putWave c.w { c.x with next := s.clock + 1 })
        | .trap t fl post => .next (s.takeTrap c iwords t fl post)
        | .go f => .next (s.retire c iwords f)

end Sys2Proof.Machine
end

