-- ==== Sys2Proof/Machine/Operands.lean ====
section
/-! DEFINITION. Operands.lean: how an instruction reads its operands and what it leaves to be written (01 R11, R15,
R36; 02 R52 to R57, R61 to R65). -/

namespace Sys2Proof.Machine

/-! ## Reading registers -/

/-- The value a known result has for a register (and lane). -/
def RegWrite.find (ws : List RegWrite) (r : RegRef) (lane : Nat) : Option Word :=
  ws.findSome? fun q =>
    match q, r with
    | .v n l x _, .v m => if n = m ∧ l = lane then some x else none
    | .s n x, .s m => if n = m then some x else none
    | _, _ => none

/-- A register read while a write of it is pending (R65): the value before a fixed-latency write; before or after a
variable-latency one, word by word. A value that is to be written and is not known yet cannot be read (log entry 7). -/
def Wave.early (x : Wave) (stamp : Nat) (r : RegRef) (lane : Nat) (old : Word) : Word :=
  match x.pend.reverse.find? fun p =>
      p.dst.contains r && p.work.variable && (lane = 32 || p.con.getLsbD lane) with
  | none => old
  | some p => if Config.earlyOld stamp (regCode r) lane then old else (RegWrite.find p.work.known r lane).getD old

/-- A lane word of vN as an instruction reads it. -/
def Issue.v (c : Issue) (s : State) (n lane : Nat) : Word := c.x.early s.stamp (.v n) lane (s.vread c.w c.x n lane)

/-- An s register as an instruction reads it. -/
def Issue.s (c : Issue) (s : State) (n : Nat) : Word := if n = 0 then 0#32 else c.x.early s.stamp (.s n) 32 (c.x.sread n)

/-- A predicate as an instruction reads it. -/
def Issue.k (c : Issue) (s : State) (n : Nat) : Word := c.x.earlyK s.stamp n

/-- A group of lane words as one number, the lowest register least significant (R11, R53). -/
def Issue.vGroup (c : Issue) (s : State) (n lane : Nat) : Nat → Nat
  | 0 => 0
  | m + 1 => (c.v s n lane).toNat + 2 ^ 32 * c.vGroup s (n + 1) lane m

/-- A group of s registers as one number. -/
def Issue.sGroup (c : Issue) (s : State) (n : Nat) : Nat → Nat
  | 0 => 0
  | m + 1 => (c.s s n).toNat + 2 ^ 32 * c.sGroup s (n + 1) m

/-- A source of class v or s: an s group gives every lane the same value (R15). -/
def Issue.group (c : Issue) (s : State) (isS : Bool) (n cnt lane : Nat) : Nat :=
  if isS then c.sGroup s n cnt else c.vGroup s n lane cnt

/-- The A operand's register. -/
def Issue.regA (c : Issue) (s : State) (lane : Nat) : Nat := c.group s c.b.aS c.b.a.toNat (Body.regs c.b.aW) lane

/-- The B operand's register. -/
def Issue.regB (c : Issue) (s : State) (lane : Nat) : Nat := c.group s c.b.bS c.b.b.toNat (Body.regs c.b.bW) lane

/-- The D operand read as a v group. -/
def Issue.regD (c : Issue) (s : State) (lane : Nat) : Nat := c.vGroup s c.b.d.toNat lane (Body.regs c.b.dW)

/-- A literal in place of a source of `w` bits: sign-extended for the types .i8 to .i64 (R56). -/
def litExt (signed : Bool) (w : Nat) (l : Word) : Nat :=
  if signed then wrapInt w l.toInt else l.toNat % 2 ^ w

/-- The last register source or the literal that stands for it (R55, R56). -/
def Issue.lastB (c : Issue) (s : State) (signed : Bool) (w lane : Nat) : Nat :=
  match c.b.lit with
  | some l => litExt signed w l
  | none => c.regB s lane

/-- A single source A or the literal that stands for it. -/
def Issue.lastA (c : Issue) (s : State) (signed : Bool) (w lane : Nat) : Nat :=
  match c.b.lit with
  | some l => litExt signed w l
  | none => c.regA s lane

/-- The third source: C of the literal, or D of the accumulating form (R55). `dIsS` for a uniform form. -/
def Issue.third (c : Issue) (s : State) (dIsS : Bool) (lane : Nat) : Nat :=
  if c.b.acc then c.group s dIsS c.b.d.toNat (Body.regs c.b.dW) lane
  else c.group s c.b.cS c.b.cIdx (2 ^ c.b.cW) lane

/-- An s operand B or the literal in its place, 32 bits. -/
def Issue.sB (c : Issue) (s : State) : Nat :=
  match c.b.lit with
  | some l => l.toNat
  | none => (c.s s c.b.b.toNat).toNat

/-- An s operand A or the literal in its place, 32 bits. -/
def Issue.sA (c : Issue) (s : State) : Nat :=
  match c.b.lit with
  | some l => l.toNat
  | none => (c.s s c.b.a.toNat).toNat

/-- A global or window address: the base A plus the signed literal, modulo 2^64 (R57). -/
def Issue.addr (c : Issue) (s : State) (lane : Nat) : Nat :=
  (c.regA s lane + litExt true 64 (c.b.lit.getD 0#32)) % 2 ^ 64

/-- A scratchpad address: modulo 2^18 (R57, R158). -/
def Issue.spAddr (c : Issue) (s : State) (lane : Nat) : Nat :=
  (c.regA s lane + litExt true 64 (c.b.lit.getD 0#32)) % 2 ^ 18

/-- The contributors, ascending. -/
def Issue.lanes (c : Issue) : List Nat := lanesOf c.con

/-- The lowest contributor (R105). -/
def Issue.low (c : Issue) : Nat := c.lanes.headD 0

/-! ## Writing results -/

/-- A value of `cnt` words written to a lane of v group `n`. -/
def vWords (n lane : Nat) (x : Nat) : Nat → List RegWrite
  | 0 => []
  | m + 1 => .v n lane (BitVec.ofNat 32 x) 0 :: vWords (n + 1) lane (x / 2 ^ 32) m

/-- A value of `cnt` words written to s group `n`. -/
def sWords (n : Nat) (x : Nat) : Nat → List RegWrite
  | 0 => []
  | m + 1 => .s n (BitVec.ofNat 32 x) :: sWords (n + 1) (x / 2 ^ 32) m

/-- Every contributor's value written to its lane of D. -/
def Issue.toD (c : Issue) (f : Nat → Nat) : List RegWrite :=
  c.lanes.flatMap fun l => vWords c.b.d.toNat l (f l) (Body.regs c.b.dW)

/-- A value written to the s group D. -/
def Issue.toSD (c : Issue) (x : Nat) : List RegWrite := sWords c.b.d.toNat x (Body.regs c.b.dW)

/-- Results of fixed latency (R61). -/
def Issue.fixed (c : Issue) (s : State) (ws : List RegWrite) : Eff :=
  .go { s := s, work := some (.regs ws), lat := c.i.latency }

/-- The conditions of all contributors. -/
def condsOf (rs : List (Nat × Nat × Cond)) : Cond := rs.foldl (fun a r => a ||| r.2.2) 0#5

/-- FP_EXCEPTION of R36, when some contributor raised a condition that is enabled. -/
def Wave.fpTrap (x : Wave) (rs : List (Nat × Nat × Cond)) : Option Trap :=
  let all := condsOf rs
  let en := x.enabled all
  if en = 0#5 then none
  else
    some { cause := .fpException, sub := all.toNat + 256 * en.toNat
           mask := maskOf fun l => rs.any fun r => r.1 == l && x.enabled r.2.2 != 0#5 }

/-- A binary32 instruction settles: each contributor's lane, value and conditions. Flags are ORed in; an enabled
condition traps and writes nothing (R35, R36). -/
def Issue.settleFp (c : Issue) (s : State) (rs : List (Nat × Nat × Cond)) (ws : List RegWrite) : Eff :=
  match c.x.fpTrap rs with
  | some t => .trap t (condsOf rs)
  | none => c.fixed (s.modWave c.w fun x => x.orFlags (condsOf rs)) ws

/-- A lane-wise binary32 instruction whose value goes to D. -/
def Issue.fpLanes (c : Issue) (s : State) (f : Nat → Nat × Cond) : Eff :=
  let rs := c.lanes.map fun l => (l, f l)
  c.settleFp s rs (rs.flatMap fun r => vWords c.b.d.toNat r.1 r.2.1 (Body.regs c.b.dW))

/-- A meaning: the issue of an I64 or I96 instruction, with its own bytes for a frame. -/
def run (i : Instr) (s : State) (eff : Issue → State → Eff) : Out := issue i i.span (frameWords (encode i)) s eff

/-- The issue of a C16 instruction of an op4 value, with the I64 form it stands for (R49). -/
def run16 (op : Nat) (x : C16) (i : Instr) (s : State) (eff : Issue → State → Eff) : Out :=
  issue i 2 (frameWords (leBytes 2 (joinC16 op x).toNat)) s eff

/-- The issue of an I32 instruction of an op6 value, with the I64 form it stands for (R50). -/
def run32 (op : Nat) (x : I32) (i : Instr) (s : State) (eff : Issue → State → Eff) : Out :=
  issue i 4 (frameWords (leBytes 4 (joinI32 op x).toNat)) s eff

end Sys2Proof.Machine
end

