-- ==== Sys2Proof/Machine/Phys.lean ====
section
/-! DEFINITION. Phys.lean: the physical memory of the device: L1 lines with their dirty bytes, the L2 bytes above
memory, ownership, the release tables, poison (07 R165; 11 R269; 18 R339, R342; 19 R358, R364, R370, R372;
21 R388 to R391, R398, R399). Log entry 11. -/

namespace Sys2Proof.Machine

/-- The line of a physical address (R165). -/
def lineOf (pa : Nat) : Nat := pa / 128

def l1Key (core line : Nat) : Nat := line * 128 + core

def relKey (die line : Nat) : Nat := line * 4 + die

/-- The home slice of a line within a die: the exclusive OR of the 5-bit groups of the address from bit 7 to 55
(R339). -/
def homeSlice (line : Nat) : Nat :=
  (List.range 10).foldl (fun a i => a ^^^ (line % 2 ^ 49 / 2 ^ (5 * i) % 32)) 0

/-- A byte as the SLC and memory hold it: what its home hub answers (R390). -/
def Mem.hubByte (m : Mem) (pa : Nat) : Byte := (mget m.slc pa).getD (memGet m.mem pa)

/-- A byte as the levels below the L1s hold it: the last write in its coherence order that has reached them (R364). -/
def Mem.lower (m : Mem) (pa : Nat) : Byte :=
  match mget m.l2 pa with
  | some p => p.2
  | none => m.hubByte pa

/-- The bytes of a line as the levels below the L1s hold them. -/
def Mem.lowerLine (m : Mem) (line : Nat) : Map Byte :=
  (mslice m.l2 (line * 128) 128).foldl (fun b p => cput b p.1 unlisted p.2.2)
    ((mslice m.slc (line * 128) 128).foldl (fun b p => cput b p.1 unlisted p.2) (mslice m.mem (line * 128) 128))

/-! ## What a core has come to see (R364 to R368) -/

/-- Whether a write covers an address. -/
def Late.covers (e : Late) (pa : Nat) : Bool := e.bytes.any fun b => b.1 == pa

/-- The lines a write covers. -/
def Late.lines (e : Late) : List Nat := e.bytes.foldl (fun a b => ladd a (lineOf b.1)) []

/-- A byte below the L1s as a core sees it: by the latest write that it has seen, or as it was before all of them (log entry 11). -/
def Mem.view (m : Mem) (core pa : Nat) : Byte :=
  match m.late.filter fun e => e.covers pa with
  | [] => m.lower pa
  | e :: es =>
    match (e :: es).reverse.find? fun e => e.seen.contains core with
    | some e => ((e.bytes.find? fun b => b.1 == pa).map fun b => b.2.2).getD (m.lower pa)
    | none => ((e.bytes.find? fun b => b.1 == pa).map fun b => b.2.1).getD (m.lower pa)

/-- The bytes of a line as a core sees them below the L1s. -/
def Mem.viewLine (m : Mem) (core line : Nat) : Map Byte :=
  if m.late.isEmpty then m.lowerLine line
  else (List.range 128).foldl (fun b i => cput b i unlisted (m.view core (line * 128 + i))) []

/-- The writes that a core has seen, among those that some core has not. -/
def Mem.seenBy (m : Mem) (core : Nat) : List Nat := m.late.filterMap fun e => if e.seen.contains core then some e.id else none

/-- Number of an agent of the device that no core stands for, and of the host. -/
def unitAgent : Nat := 128
def hostAgent : Nat := 129

/-- Whether one instance of a scope holds two agents, given by their cores (R358). -/
def scopeHolds (scope a b : Nat) : Bool :=
  match scope with
  | 0 => false
  | 1 => a == b
  | 2 => clusterOf a == clusterOf b
  | 3 => dieOf a == dieOf b || a == unitAgent || b == unitAgent
  | 4 => a != hostAgent && b != hostAgent
  | _ => true

/-- The releases that a wave's fences make of its later writes (R368). -/
def Wave.fences (x : Wave) (core : Nat) : List Rel :=
  x.fenced.map fun q => { core := core, scope := q.1, deps := q.2, lazy := false }

/-- Releases joined without repeats. -/
def joinRels (a b : List Rel) : List Rel := b.foldl (fun a r => if a.contains r then a else a ++ [r]) a

/-- The release that a write makes of what its core has seen (R361, R367). -/
def Mem.release (m : Mem) (core scope : Nat) (lazy : Bool) : Rel := { core := core, scope := scope, deps := m.seenBy core, lazy := lazy }

/-- The releases that a read-modify-write of bytes hands on: those of the writes before it in their coherence order (R366). -/
def Mem.relsAt (m : Mem) (as : List Nat) : List Rel :=
  (m.late.filter fun e => as.any e.covers).foldl (fun a e => joinRels a e.rels) []

/-- Writes have reached the levels below the L1s: they stand last in the coherence order of their bytes, and the agent that made
them has seen them. `m` is the memory before them; `stamp` names a release store, and `done` is the TIME at which a release is complete
already. -/
def Mem.noteWrites (m' m : Mem) (agent : Nat) (as : List Nat) (rels : List Rel) (stamp done : Option Nat := none) : Mem :=
  { m' with
    writes := m.writes + 1
    late := m'.late ++ [{ id := m.writes, bytes := as.map fun a => (a, m.lower a, m'.lower a), seen := [agent]
                          rels := rels, stamp := stamp, done := done }] }

/-- The writes from number `n` on that cover the same bytes are one write: from the first one's old bytes to the last one's new ones
(R186). -/
def Mem.merged (m : Mem) (n : Nat) : Mem :=
  let same := fun (a b : Late) => a.bytes.map (·.1) == b.bytes.map (·.1)
  { m with late := m.late.foldl (fun (l : List Late) e =>
      if decide (n ≤ e.id) && (l.any fun o => decide (n ≤ o.id) && same o e) then
        l.map fun o => if decide (n ≤ o.id) && same o e then
          { o with bytes := (o.bytes.zip e.bytes).map fun b => (b.1.1, b.1.2.1, b.2.2.2), rels := joinRels o.rels e.rels } else o
      else l ++ [e]) [] }

/-- Writes that every core and the host have seen, and whose releases order nothing that some core has not seen, are forgotten. -/
def Mem.prune (m : Mem) : Mem :=
  { m with late := m.late.dropWhile fun e =>
      e.seen.contains hostAgent && (List.range Config.cores).all (e.seen.contains ·)
        && e.rels.all fun r => !r.lazy && r.deps.all fun d => !(m.late.any fun o => o.id == d) }

/-- The clean bytes of the lines of a core that a test selects go, but for owned lines. -/
def Mem.dropClean (m : Mem) (core : Nat) (p : Nat → Bool) : Mem :=
  { m with l1 := m.l1.filterMap fun q =>
      if q.1 % 128 == core && p (q.1 / 128) && mget m.own (q.1 / 128) != some core then
        if q.2.dirty.isEmpty then none else some (q.1, { q.2 with full := false, snap := [] })
      else some q }

/-- A core sees the writes that a test selects. One over several lines is seen in all of them: no clean copy from before it stays
(R373). -/
def Mem.see (m : Mem) (core : Nat) (p : Late → Bool) : Mem :=
  let new := m.late.filter fun e => p e && !e.seen.contains core
  if new.isEmpty then m
  else
    let wide := (new.filter fun e => decide (e.lines.length > 1)).flatMap Late.lines
    let m1 := { m with late := m.late.map fun e => if p e then { e with seen := ladd e.seen core } else e }
    ((if wide.isEmpty then m1 else m1.dropClean core wide.contains) : Mem).prune

/-- A core sees every write to a line. -/
def Mem.seeLine (m : Mem) (core line : Nat) : Mem := m.see core fun e => e.lines.contains line

/-- The writes whose values a core reads at some addresses. -/
def Mem.readFrom (m : Mem) (core : Nat) (as : List Nat) : List Late :=
  as.filterMap fun a => m.late.reverse.find? fun e => e.covers a && e.seen.contains core

/-- A core learns of writes that happen before what it does next. -/
def Mem.learn (m : Mem) (core : Nat) (ids : List Nat) : Mem := if ids.isEmpty then m else m.see core fun e => ids.contains e.id

/-- An acquire at a scope by a core that has read values with some releases: it sees what they order, where both scopes hold both
agents (R366, R367). -/
def Mem.hear (m : Mem) (core scope : Nat) (rs : List Rel) : Mem :=
  m.learn core (rs.flatMap fun r => if scopeHolds r.scope r.core core && scopeHolds scope r.core core then r.deps else [])

/-- The same for a core that has read some writes. -/
def Mem.sync (m : Mem) (core scope : Nat) (es : List Late) : Mem := m.hear core scope (es.flatMap Late.rels)

/-- 4 µs in fs, the time by which an acquire read returns a release that is complete (R371). -/
def releaseBound : Nat := 4000000000

/-- A release of some of the bytes that an acquire read at a scope has to return, as it was complete 4 µs before the read's issue
(R371). -/
def Late.overdue (e : Late) (core scope issued : Nat) (as : List Nat) : Bool :=
  (e.done.any fun t => decide (t + releaseBound ≤ issued)) && as.any e.covers
    && e.rels.any fun r => scopeHolds r.scope r.core core && scopeHolds scope r.core core

/-- The release of an issue stamp is complete (R371). -/
def Mem.released (m : Mem) (stamp time : Nat) : Mem :=
  { m with late := m.late.map fun e => if e.stamp == some stamp && e.done.isNone then { e with done := some time } else e }

/-! ## L1 lines -/

def Mem.l1Line (m : Mem) (core line : Nat) : Option L1Line := mget m.l1 (l1Key core line)

def Mem.putL1 (m : Mem) (core line : Nat) (x : L1Line) : Mem := { m with l1 := mput m.l1 (l1Key core line) x }

def Mem.dropL1 (m : Mem) (core line : Nat) : Mem := { m with l1 := mdel m.l1 (l1Key core line) }

/-- The cores whose L1 holds anything of a line. -/
def Mem.holders (m : Mem) (line : Nat) : List Nat := (mslice m.l1 (line * 128) 128).map Prod.fst

/-- The lines an L1 holds. -/
def Mem.linesOf (m : Mem) (core : Nat) : List Nat :=
  (m.l1.filter fun p => p.1 % 128 == core).map fun p => p.1 / 128

/-- A byte as a core reads it through its L1: its own dirty byte, its clean copy, else the byte below as it sees it (R165, R364). -/
def Mem.coreByte (m : Mem) (core pa : Nat) : Byte :=
  match m.l1Line core (lineOf pa) with
  | none => m.view core pa
  | some x =>
    match mget x.dirty (pa % 128) with
    | some b => b
    | none => if x.full then cget x.snap (pa % 128) unlisted else m.view core pa

/-- `n` bytes read by a function of the address. -/
def readBytes (f : Nat → Byte) (a : Nat) : Nat → List Byte
  | 0 => []
  | n + 1 => f a :: readBytes f (a + 1) n

/-- Bytes with their addresses. -/
def atAddrs (a : Nat) : List Byte → List (Nat × Byte)
  | [] => []
  | b :: bs => (a, b) :: atAddrs (a + 1) bs

/-- Whether a wave watches or reserves a line. -/
def Wave.heeds (x : Wave) (line : Nat) : Bool := x.mon.line == some line || x.txn.lines.any fun p => p.1 == line

/-- The supervisors of some cores hold a line reserved no longer. -/
def State.unreserve (s : State) (line : Nat) (p : Nat → Bool) : State :=
  let held := fun (u : Nat × Sup) => p u.1 && u.2.hart.resv == some line
  let lose := fun (u : Nat × Sup) => if held u then (u.1, { u.2 with hart := { u.2.hart with resv := none } }) else u
  if s.co.sups.any held then { s with co := { s.co with sups := s.co.sups.map lose } } else s

/-- A byte of a line has been written: monitors on it have an event (R200), transactions that reserve it are disturbed (R191), and a
supervisor's reservation is lost. -/
def State.wrote (s0 : State) (line : Nat) : State :=
  let s := s0.unreserve line fun _ => true
  if s.waves.any fun p => p.2.heeds line then
    s.mapWaves fun _ x =>
      if x.heeds line then
        { x with
          mon := if x.mon.line == some line then { x.mon with event := true } else x.mon
          txn := if x.txn.lines.any fun p => p.1 == line then { x.txn with disturbed := ladd x.txn.disturbed line } else x.txn }
      else x
  else s

/-- Another core asks for exclusive ownership: transactions of the other cores that reserve the line are disturbed
(R191), and their supervisors' reservations lost. -/
def State.disturbFrom (s0 : State) (core line : Nat) : State :=
  let s := s0.unreserve line fun c => c != core
  if s.waves.any fun p => p.2.txn.lines.any fun q => q.1 == line then
    s.mapWaves fun w x =>
      if coreOf w != core && (x.txn.lines.any fun p => p.1 == line) then
        { x with txn := { x.txn with disturbed := ladd x.txn.disturbed line } }
      else x
  else s

def State.mapMem (s : State) (f : Mem → Mem) : State := { s with m := f s.m }

/-- Bytes written by a core to the L2 of its die, where the dies' slices and the hubs keep them coherent (R339, R390), as one write
with the releases that it carries. -/
def State.toL2 (s : State) (core : Nat) (bs : List (Nat × Byte)) (rels : List Rel) (stamp : Option Nat := none) : State :=
  if bs.isEmpty then s
  else
    s.mapMem fun m =>
      ({ m with
        l2 := bs.foldl (fun l p => mput l p.1 (dieOf core, p.2)) m.l2
        snoop := m.snoop.filter fun l => !(bs.any fun p => lineOf p.1 == l) } : Mem).noteWrites m core (bs.map Prod.fst) rels stamp

/-- The 8-byte units of a line whose bytes an L1 line has written in part, and in whole. -/
def L1Line.units (x : L1Line) (p : Nat → Bool) : List Nat :=
  (List.range 16).filter fun u => p ((x.dirty.filter fun b => b.1 / 8 == u).length)

/-- Marks that go down with the dirty bytes of a line: a poisoned unit stays poisoned below, a unit written in whole is so no longer
(R269, R391). -/
def L1Line.marksDown (x : L1Line) (line : Nat) (marks : List Nat) : List Nat :=
  let bad := (x.units fun n => n ≠ 0).filter x.bad.contains
  let whole := (x.units fun n => n = 8).filter fun u => !x.bad.contains u
  bad.foldl (fun l u => ladd l (line * 16 + u)) (marks.filter fun u => !(u / 16 == line && whole.contains (u % 16)))

/-- Marks that a fetched copy of a line carries: those below, but for units that the core has written in whole, and those of its own
(R269, R391). -/
def L1Line.marksUp (x : L1Line) (line : Nat) (marks : List Nat) : List Nat :=
  let whole := x.units fun n => n = 8
  marks.foldl (fun l u => if u / 16 = line ∧ !whole.contains (u % 16) then ladd l (u % 16) else l)
    (x.bad.filter fun u => (x.units fun n => n ≠ 0).contains u)

/-- The lines that a core's release tagged and that have now been written join what that release orders (R342). -/
def Mem.joinLazy (m : Mem) (core id : Nat) : Mem :=
  { m with late := m.late.map fun e => { e with rels := e.rels.map fun r =>
      if r.lazy && r.core == core then { r with deps := r.deps ++ [id] } else r } }

/-- The dirty bytes of a line in an L1 are written back: only the bytes its core wrote (R364 d). Bytes of an owned line may stand
for read-modify-writes, and hand on the releases before them (R366). -/
def State.writeBack (s : State) (core line : Nat) : State :=
  match s.m.l1Line core line with
  | none => s
  | some x =>
    let bs := x.dirty.map fun p => (line * 128 + p.1, p.2)
    let rels := if mget s.m.own line = some core then joinRels x.rels (s.m.relsAt (bs.map Prod.fst)) else x.rels
    let s1 := s.toL2 core bs rels
    s1.mapMem fun m =>
      let m1 := if x.tagged ∧ !x.dirty.isEmpty then m.joinLazy core s.m.writes else m
      let m2 := { m1 with memPoison := x.marksDown line m1.memPoison }
      if x.full then
        m2.putL1 core line
          { full := true, snap := x.dirty.foldl (fun b p => cput b p.1 unlisted p.2) x.snap, dirty := [], tagged := false, bad := x.bad }
      else m2.dropL1 core line

/-- A line leaves an L1, its dirty bytes first. -/
def State.expel (s : State) (core line : Nat) : State :=
  let s1 := s.writeBack core line
  s1.mapMem fun m => { m.dropL1 core line with own := if mget m.own line = some core then mdel m.own line else m.own }

/-- Every dirty line of an L1 that a test selects is written back. -/
def State.writeBackAll (s : State) (core : Nat) (p : L1Line → Bool) : State :=
  (s.m.linesOf core).foldl (fun s line =>
    match s.m.l1Line core line with
    | some x => if !x.dirty.isEmpty && p x then s.writeBack core line else s
    | none => s) s

/-- Ownership held by another core is recalled, as a plain store or a slice operation asks (R372). -/
def State.recallFrom (s : State) (core line : Nat) : State :=
  match mget s.m.own line with
  | some d => if d = core then s else (s.expel d line).disturbFrom core line
  | none => s

/-- Ownership of a line is recalled from whichever L1 holds it (R187, R340). -/
def State.recall (s : State) (line : Nat) : State :=
  match mget s.m.own line with
  | some d => s.expel d line
  | none => s

/-- A read miss fills the line with the bytes below as the core sees them; bytes the core wrote stay. -/
def State.fill (s : State) (core line : Nat) : State :=
  match mget s.m.own line with
  | some d => if d = core then s else s
  | none =>
    let x := (s.m.l1Line core line).getD { full := false, snap := [], dirty := [], tagged := false }
    if x.full then s
    else s.mapMem fun m => m.putL1 core line { x with full := true, snap := m.viewLine core line, bad := x.marksUp line m.memPoison }

/-- Exclusive ownership of a line for a core: every other copy is written back and dropped, and the clean bytes are
fetched anew, with every write to them (R187, R364 e, R372, R373). -/
def State.exclusive (s : State) (core line : Nat) : State :=
  if mget s.m.own line = some core then s
  else
    let s1 := (s.m.holders line).foldl (fun s d => if d = core then s else s.expel d line) s
    let s2 := (s1.recallFrom core line).disturbFrom core line
    s2.mapMem fun m =>
      let m := m.seeLine core line
      let x := (m.l1Line core line).getD { full := true, snap := [], dirty := [], tagged := false }
      { m.putL1 core line { x with full := true, snap := m.lowerLine line, bad := x.marksUp line m.memPoison } with
        own := mput m.own line core
        snoop := m.snoop.filter fun l => l != line }

/-- Poisoned units that a range of addresses touches (R391). -/
def Mem.poisoned (m : Mem) (pa n : Nat) : Bool :=
  m.memPoison.any fun u => decide (u * 8 < pa + n) && decide (pa < u * 8 + 8)

/-- Whether a core that reads a byte reads it poisoned: by the mark of its own copy, or by the mark below for a unit that its copy does
not hold whole (R269, R391). -/
def Mem.corePoisoned (m : Mem) (core pa : Nat) : Bool :=
  match m.l1Line core (lineOf pa) with
  | none => m.poisoned pa 1
  | some x =>
    let u := pa % 128 / 8
    x.bad.contains u || (!x.full && !(x.units fun n => n = 8).contains u && m.poisoned pa 1)

/-- Whether bytes at some addresses are all those of an 8-byte unit. -/
def wholeUnit (bs : List (Nat × Byte)) (u : Nat) : Bool := (List.range 8).all fun i => bs.any fun b => b.1 == 8 * u + i

/-- Units wholly rewritten below the L1s lose their marks (R269, R391). -/
def State.cleanse (s : State) (bs : List (Nat × Byte)) : State :=
  if s.m.memPoison.isEmpty then s
  else s.mapMem fun m => { m with memPoison := m.memPoison.filter fun u => !(wholeUnit bs u) }

/-- The core's own copy of a byte is marked, with its unit (R269). -/
def State.poisonCopy (s : State) (core pa : Nat) : State :=
  s.mapMem fun m =>
    match m.l1Line core (lineOf pa) with
    | some x => m.putL1 core (lineOf pa) { x with bad := ladd x.bad (pa % 128 / 8) }
    | none => m

/-- A unit below the L1s is marked (R269). -/
def State.poison (s : State) (pa : Nat) : State := s.mapMem fun m => { m with memPoison := ladd m.memPoison (pa / 8) }

/-- The marks of an L1 line after a store: units wholly rewritten lose theirs (R269). -/
def L1Line.rewritten (x : L1Line) (line : Nat) (bs : List (Nat × Byte)) : List Nat :=
  x.bad.filter fun u => !(wholeUnit bs (16 * line + u))

/-- A plain store of bytes that lie in one line: the core's L1 takes them with the releases that their writer's fences make of them, and
another core's ownership is recalled first (R165, R368, R372). -/
def State.storeLine (s : State) (core pa : Nat) (bs : List Byte) (rels : List Rel := []) : State :=
  let line := lineOf pa
  let s1 := s.recallFrom core line
  let s2 := s1.mapMem fun m =>
    let x := (m.l1Line core line).getD { full := false, snap := [], dirty := [], tagged := false }
    { m.putL1 core line { x with
        dirty := (atAddrs (pa % 128) bs).foldl (fun d p => mput d p.1 p.2) x.dirty, bad := x.rewritten line (atAddrs pa bs)
        rels := joinRels x.rels rels } with
      snoop := m.snoop.filter fun l => l != line }
  s2.wrote line

/-- The core's own copy of a line follows bytes that it writes at the L2. -/
def Mem.follow (m : Mem) (core line : Nat) (bs : List (Nat × Byte)) : Mem :=
  match m.l1Line core line with
  | none => m
  | some x =>
    let here := bs.filter fun b => lineOf b.1 == line
    let dirty := here.foldl (fun d b => mdel d (b.1 % 128)) x.dirty
    m.putL1 core line { x with
      dirty := dirty
      rels := if dirty.isEmpty then [] else x.rels
      snap := if x.full then here.foldl (fun d b => cput d (b.1 % 128) unlisted b.2) x.snap else x.snap
      bad := x.rewritten line here }

/-- Whether bytes overwrite dirty bytes that a release of the core has tagged. -/
def Mem.overTagged (m : Mem) (core : Nat) (bs : List (Nat × Byte)) : Bool :=
  bs.any fun b => (m.l1Line core (lineOf b.1)).any fun x => x.tagged && (mget x.dirty (b.1 % 128)).isSome

/-- Bytes written at the L2 at once, as one write with the releases that it carries: the core's own copies follow, other copies of the
lines stay as they are (R342, R364). A write over bytes that a release tagged stands for them in what that release orders. -/
def State.storeThrough (s : State) (core : Nat) (bs : List (Nat × Byte)) (rels : List Rel) (stamp : Option Nat := none) : State :=
  let lines := bs.foldl (fun a b => ladd a (lineOf b.1)) []
  let s1 := lines.foldl (fun s l => s.recallFrom core l) s
  let s2 := s1.mapMem fun m =>
    lines.foldl (fun m l => m.follow core l bs) (if m.overTagged core bs then m.joinLazy core m.writes else m)
  (lines.foldl State.wrote (s2.toL2 core bs rels stamp)).cleanse bs

/-- L2 bytes that a test of the address selects are written to the SLC of their home hub (R390). -/
def State.l2ToMem (s : State) (p : Nat → Bool) : State :=
  s.mapMem fun m =>
    { m with
      slc := m.l2.foldl (fun a q => if p q.1 then mput a q.1 q.2.2 else a) m.slc
      l2 := m.l2.filter fun q => !(p q.1) }

/-- SLC bytes that a test of the address selects are written to memory. -/
def State.slcToMem (s : State) (p : Nat → Bool) : State :=
  s.mapMem fun m =>
    { m with
      mem := m.slc.foldl (fun a q => if p q.1 then memPut a q.1 q.2 else a) m.mem
      slc := m.slc.filter fun q => !(p q.1) }

/-- Whether a physical address lies in a granule of device bias (R398). -/
def State.deviceBias (s : State) (pa : Nat) : Bool := s.m.bias.contains ((pa - s.pk.topo.mbase) / 65536)

/-- What a release at a scope does below the L1s, for addresses that a test selects: from system scope on they go to the SLC, but for
bytes in device bias, where system and fabric scope act as device scope (R358, R378). -/
def State.pushDown (s : State) (scope : Nat) (p : Nat → Bool) : State :=
  if scope ≥ 5 then s.l2ToMem fun a => p a && !s.deviceBias a else s

/-! ## Where a line lies (R389, R417) -/

/-- The channels in service at boot, ascending: L of R389. -/
def State.channels (s : State) : List Nat := (List.range 96).filter s.pk.chans.testBit

/-- The channel of a place, a line of memory counted from its base: stripes of two lines go round the channels (R389). -/
def channelOf (chs : List Nat) (place : Nat) : Nat := chs.getD (place / 2 % chs.length) 0

/-- The row within its channel of a place (R389). -/
def channelRow (chs : List Nat) (place : Nat) : Nat := place / 2 / chs.length

/-- The hub of a channel (R5, R389). -/
def hubOf (channel : Nat) : Nat := channel / 48

/-- How many of the lines below a number lie on a channel at boot. -/
def linesAtBoot (chs : List Nat) (k x : Nat) : Nat :=
  if chs.contains k then x / (2 * chs.length) * 2 + min 2 (x % (2 * chs.length) - 2 * chs.idxOf k) else 0

/-- The j-th line from m on that `cnt` does not count, where `cnt x` lines below x are counted: by halving, from the highest bit. -/
def nthFree (cnt : Nat → Nat) (m j : Nat) : Nat → Nat → Nat
  | 0, lo => lo
  | b + 1, lo =>
    let mid := lo + 2 ^ b
    if mid - m - (cnt mid - cnt m) ≤ j then nthFree cnt m j b mid else nthFree cnt m j b lo

/-- How many of the lines below a number lie on a channel after retirements, of which the latest stands first: each has moved the
lines of its channel to the freed lines from m on (R417). -/
def linesOn (chs : List Nat) : List (Nat × Nat) → Nat → Nat → Nat
  | [], k, x => linesAtBoot chs k x
  | (r, m) :: rest, k, x =>
    if k = r then 0
    else
      let past := nthFree (linesOn chs rest r) m (linesOn chs rest r x) 27 m
      linesOn chs rest k x + (linesOn chs rest k past - linesOn chs rest k m)

/-- The place of a line after retirements: the j-th line of the channel retired has gone to the j-th freed line on another
(R417). -/
def placeOf (chs : List Nat) : List (Nat × Nat) → Nat → Nat
  | [], l => l
  | (r, m) :: rest, l =>
    let p := placeOf chs rest l
    if channelOf chs p = r then placeOf chs rest (nthFree (linesOn chs rest r) m (linesOn chs rest r l) 27 m) else p

/-- The place of an address. -/
def State.place (s : State) (pa : Nat) : Nat := placeOf s.channels s.pk.moved ((pa - s.pk.topo.mbase) / 128)

/-- The channel on which an address lies now. -/
def State.channel (s : State) (pa : Nat) : Nat := channelOf s.channels (s.place pa)

/-- Its row of that channel. -/
def State.channelRow (s : State) (pa : Nat) : Nat := Sys2Proof.Machine.channelRow s.channels (s.place pa)

/-- The home hub of an address (R389). -/
def State.homeHub (s : State) (pa : Nat) : Nat := hubOf (s.channel pa)

/-! ## Release and acquire (R342, R370) -/

/-- A drain: the core writes back every dirty line tagged with an earlier release; nothing is left to join those releases. -/
def State.drain (s : State) (core : Nat) : State :=
  (s.writeBackAll core (·.tagged)).mapMem fun m =>
    { m with late := m.late.map fun e => { e with rels := e.rels.map fun r => if r.core = core then { r with lazy := false } else r } }

/-- The dirty lines of a core are tagged with its release. -/
def State.tagDirty (s : State) (core : Nat) : State :=
  s.mapMem fun m =>
    { m with l1 := m.l1.map fun p => if p.1 % 128 == core && !p.2.dirty.isEmpty then (p.1, { p.2 with tagged := true }) else p }

/-- The cores of a die that an entry names, but for one. -/
def Mem.recorded (m : Mem) (die line but : Nat) : List Nat :=
  match mget m.relTab (relKey die line) with
  | none => []
  | some (mask, _) => ((List.range 32).filter fun i => mask.testBit i && 32 * die + i != but).map fun i => 32 * die + i

/-- The bit of a core cleared in an entry; an entry without bits is free. -/
def Mem.unrecord (m : Mem) (die line core : Nat) : Mem :=
  match mget m.relTab (relKey die line) with
  | none => m
  | some (mask, age) =>
    let mask := mask &&& (2 ^ 32 - 1 - 2 ^ (core % 32))
    { m with relTab := if mask = 0 then mdel m.relTab (relKey die line) else mput m.relTab (relKey die line) (mask, age) }

/-- Core `core` of the die answers a drain for the entry of a line. -/
def State.acknowledge (s : State) (die core line : Nat) : State :=
  (s.drain core).mapMem fun m => m.unrecord die line core

/-- All cores an entry names are drained, at once. -/
def State.drainEntry (s : State) (die line but : Nat) : State :=
  (s.m.recorded die line but).foldl (fun s d => s.acknowledge die d line) s

/-- The lines of a die's entries. -/
def Mem.entriesOf (m : Mem) (die : Nat) : List (Nat × Nat) :=
  (m.relTab.filter fun p => p.1 % 4 == die).map fun p => (p.1 / 4, p.2.2)

/-- The oldest entry of a line's slice, when all 64 are in use and the line has none. -/
def Mem.fullFor (m : Mem) (die line : Nat) : Option Nat :=
  if (mget m.relTab (relKey die line)).isSome then none
  else
    let es := (m.entriesOf die).filter fun e => homeSlice e.1 == homeSlice line
    if es.length < 64 then none
    else (es.foldl (fun (b : Option (Nat × Nat)) e =>
      match b with
      | none => some e
      | some o => if e.2 < o.2 then some e else some o) none).map Prod.fst

/-- The releasing core is recorded at the home slice: an entry is allocated when there is none. -/
def State.record (s : State) (core line : Nat) : State :=
  let die := dieOf core
  let s1 := match s.m.fullFor die line with
    | some old => s.drainEntry die old 128
    | none => s
  (s1.tagDirty core).mapMem fun m =>
    let e := (mget m.relTab (relKey die line)).getD (0, m.relAge)
    { m with relTab := mput m.relTab (relKey die line) (e.1 ||| 2 ^ (core % 32), e.2), relAge := m.relAge + 1 }

/-- An acquire at cluster scope or wider, its drains done: the core drops every line it holds neither dirty nor owned,
and the clean bytes of the others. -/
def State.acquire (s : State) (core : Nat) : State := s.mapMem fun m => m.dropClean core fun _ => true

/-- A release without a synchronisation line at global memory: below cluster scope nothing; from cluster scope on the
dirty lines go to the L2; from system scope on to the SLC (R342, R358). -/
def State.releaseEager (s : State) (core scope : Nat) : State :=
  if scope < 2 then s else (s.writeBackAll core fun _ => true).pushDown scope fun _ => true

/-- Every entry of a core's die is drained, its own among them (R342, FENCE). -/
def State.drainAll (s : State) (core : Nat) : State :=
  (s.m.entriesOf (dieOf core)).foldl (fun s e => s.drainEntry (dieOf core) e.1 unitAgent) s

/-- An acquire that an event makes (R369): the core sees the writes that happen before the release it observes. Below cluster scope the
agents share what they see. -/
def State.acquireAt (s : State) (core scope : Nat) (ids : List Nat) : State :=
  if scope < 2 then s else (s.mapMem fun m => m.learn core ids).acquire core

/-- An acquiring fence: the core sees what the releases of all writes that it has seen order, and those that its wave's reads of
scratchpads returned (R342, R366, R368). -/
def State.fenceAcq (s : State) (core scope : Nat) (heard : List Rel) : State :=
  if scope < 2 then s
  else
    ((s.drainAll core).mapMem fun m =>
      (m.sync core scope (m.late.filter fun e => e.seen.contains core)).hear core scope heard).acquire core

/-- The total order of FENCE.ar: the core sees what happens before every earlier one whose scope, and whose core's, hold both (R368). -/
def State.fenceTotal (s : State) (core scope : Nat) : State :=
  if scope < 2 then s
  else
    s.mapMem fun m =>
      let ids := m.totals.flatMap fun q => if scopeHolds (q.1 % 8) (q.1 / 8) core && scopeHolds scope (q.1 / 8) core then q.2 else []
      let m1 := m.learn core ids
      { m1 with totals := mput m1.totals (8 * core + scope) (m1.seenBy core) }

/-! ## The host's view (R377, R378, R399) -/

/-- A byte as the host reads it: under host bias as an agent of .sys that may not have seen the latest writes yet, under device bias at
the hub (R364, R377, R378, R397). -/
def State.hostByte (s : State) (pa : Nat) : Byte := if s.deviceBias pa then s.m.hubByte pa else s.m.view hostAgent pa

/-- The host is about to read some bytes: it has to see a release of them that has been complete for 4 µs (R371, R397). -/
def State.hostDue (s : State) (as : List Nat) : State := s.mapMem fun m => m.see hostAgent fun e => e.overdue hostAgent 6 s.timeFs as

/-- What the releases of the bytes that the host has read order, it has seen: its loads are taken as acquires, and its stores as
releases (R377; log entry 11). -/
def State.hostSees (s : State) (as : List Nat) : State := s.mapMem fun m => m.sync hostAgent 6 (m.readFrom hostAgent as)

/-- The release of a host store. -/
def Mem.hostRel (m : Mem) : Rel := { core := hostAgent, scope := 6, deps := m.seenBy hostAgent, lazy := false }

/-- A host read snoops the L1s of a line of host bias: their dirty bytes are written back first, and the hub lists the line
(R377, R390). -/
def State.hostSnoop (s : State) (line : Nat) : State :=
  if s.deviceBias (line * 128) then s
  else
    ((s.m.holders line).foldl (fun s c => s.writeBack c line) s).mapMem fun m => { m with snoop := ladd m.snoop line }

/-- Bytes of one line written to the SLC. The hub lists a host that has written a line of host bias (R390). -/
def State.putMem (s : State) (host : Bool) (pa : Nat) (bs : List Byte) : State :=
  s.mapMem fun m =>
    { m with slc := (atAddrs pa bs).foldl (fun a p => mput a p.1 p.2) m.slc
             snoop := if host then ladd m.snoop (lineOf pa) else m.snoop.filter fun l => l != lineOf pa }

/-- Bytes written to one line at the point of coherence, by the host or by a unit of the device, with the releases that the write
carries: every device copy of the line is recalled first (R285, R377). -/
def State.cohStore (s : State) (host : Bool) (pa : Nat) (bs : List Byte) (rels : List Rel := []) : State :=
  let line := lineOf pa
  let who := if host then hostAgent else unitAgent
  let s1 := (s.m.holders line).foldl (fun s c => s.expel c line) s
  let s2 := s1.l2ToMem fun a => lineOf a == line
  let s3 := (s2.putMem host pa bs).mapMem fun m =>
    m.noteWrites s2.m who ((atAddrs pa bs).map Prod.fst) rels none (some s.timeFs)
  (s3.wrote line).cleanse (atAddrs pa bs)

/-- Bytes written by the host to one line. Under device bias they go to the hub alone, and the device's own bytes above it stay
(R378, R399). -/
def State.hostStore (s : State) (pa : Nat) (bs : List Byte) : State :=
  if s.deviceBias pa then
    let s1 := s.putMem true pa bs
    let s2 := s1.mapMem fun m =>
      { m.noteWrites s.m hostAgent ((atAddrs pa bs).map Prod.fst) [] with snoop := s.m.snoop }
    (s2.wrote (lineOf pa)).cleanse (atAddrs pa bs)
  else s.cohStore true pa bs [s.m.hostRel]

end Sys2Proof.Machine
end

