-- ==== Sys2Proof/Machine/Translate.lean ====
section
/-! DEFINITION. Translate.lean: address translation (21 R402 to R406). The formats of the RISC-V IOMMU and of the page
tables are those of the published standard (log entry 13). -/

namespace Sys2Proof.Machine

/-- Kinds of access (R404). -/
inductive AccKind where
  | load | store | rmw | fetch
deriving DecidableEq, Repr

/-- The access kind in a SUBCAUSE (R404). -/
def AccKind.code : AccKind → Nat
  | .load => 0 | .store => 1 | .rmw => 2 | .fetch => 0

/-- Reasons 1 to 4 are page faults, the others access faults (R404). -/
def isPageFault (reason : Nat) : Bool := decide (reason ≤ 4)

/-- Whether a physical address is device memory in service (R388). -/
def State.inMemory (s : State) (pa : Nat) : Bool :=
  decide (s.pk.topo.mbase ≤ pa) && decide (pa < s.pk.topo.mbase + s.pk.topo.memsize)

/-- Bytes read by an address as the device's own agents read them (R405). -/
def State.sysBytes (s : State) (pa n : Nat) : List Byte := readBytes s.m.lower pa n

/-- A table read of 8 bytes after others, of which `dev` says whether one was from a device-bias granule. A read that has no value ends the
walk at once (R404, reasons 9 and 10; log entry 13): with reason 8, which comes first, where one of them was. -/
def State.tableRead (s : State) (dev : Bool) (pa : Nat) : Except Nat (Nat × Bool) :=
  let dev := dev || (s.inMemory pa && s.deviceBias pa)
  if !(s.inMemory pa) then .error (if dev then 8 else 10)
  else if s.m.poisoned pa 8 then .error (if dev then 8 else 9)
  else .ok (leVal (s.sysBytes pa 8), dev)

/-- A step through a directory of 8-byte entries: a valid entry gives the next table's page. -/
def State.dirStep (s : State) (dev : Bool) (table idx : Nat) : Except Nat (Nat × Bool) := do
  let (e, dev) ← s.tableRead dev (table + 8 * idx)
  if e % 2 = 0 then .error 1 else .ok (bitsOf e 53 10 * 4096, dev)

/-- The device context: the process-directory pointer of the one device ID, with iohgatp Bare (R402). -/
def State.deviceCtx (s : State) : Except Nat (Nat × Bool) := do
  let root := bitsOf s.m.iommu.ddtp 53 10 * 4096
  let id := s.pk.topo.devid
  let (leaf, dev) ← match s.m.iommu.ddtp % 16 with
    | 2 => .ok (root, false)
    | 3 => s.dirStep false root (id / 128 % 512)
    | 4 => do
      let (t, dev) ← s.dirStep false root (id / 65536 % 256)
      s.dirStep dev t (id / 128 % 512)
    | _ => .error 1
  let (tc, dev) ← s.tableRead dev (leaf + 32 * (id % 128))
  let (gatp, dev) ← s.tableRead dev (leaf + 32 * (id % 128) + 8)
  if tc % 2 = 0 ∨ !(tc.testBit 5) ∨ gatp / 2 ^ 60 ≠ 0 then .error 1
  else s.tableRead dev (leaf + 32 * (id % 128) + 24)

/-- The process context of a PASID, read through the process directory. -/
def State.readProc (s : State) (dev : Bool) (pdtp pid : Nat) : Except Nat (ProcCtx × Bool) := do
  let root := pdtp % 2 ^ 44 * 4096
  let (leaf, dev) ← match pdtp / 2 ^ 60 with
    | 1 => if pid < 2 ^ 8 then .ok (root, dev) else .error 1
    | 2 => if pid < 2 ^ 17 then s.dirStep dev root (pid / 256) else .error 1
    | 3 => do
      let (t, dev) ← s.dirStep dev root (pid / 2 ^ 17 % 8)
      s.dirStep dev t (pid / 256 % 512)
    | _ => .error 1
  let (ta, dev) ← s.tableRead dev (leaf + 16 * (pid % 256))
  let (fsc, dev) ← s.tableRead dev (leaf + 16 * (pid % 256) + 8)
  if ta % 2 = 0 then .error 1
  else
    match fsc / 2 ^ 60 with
    | 9 => .ok ({ pid := pid, pscid := bitsOf ta 31 12, levels := 4, root := fsc % 2 ^ 44, ade := ta.testBit 8 }, dev)
    | 10 => .ok ({ pid := pid, pscid := bitsOf ta 31 12, levels := 5, root := fsc % 2 ^ 44, ade := ta.testBit 8 }, dev)
    | _ => .error 1

/-- The process context of a PASID, from the walker's cache or from memory; one whose reads touched a device-bias granule is not kept,
for its accesses fault. -/
def State.procCtx (s : State) (pid : Nat) : State × Except Nat (ProcCtx × Bool) :=
  match s.m.iommu.procs.find? fun p => p.pid == pid with
  | some p => (s, .ok (p, false))
  | none =>
    match (match s.m.iommu.pdtp with | some p => Except.ok (p, false) | none => s.deviceCtx) with
    | .error e => (s, .error e)
    | .ok (d, dev) =>
      match s.readProc dev d pid with
      | .error e => (s, .error e)
      | .ok (p, true) => (s, .ok (p, true))
      | .ok (p, false) =>
        (s.mapMem fun m => { m with iommu := { m.iommu with pdtp := some d, procs := p :: m.iommu.procs } }, .ok (p, false))

/-- Reserved PTE bits and encodings (R404, reason 2): bits 60:54; W without R; PBMT 3; N but for 64 KiB pages; in a
pointer also N, PBMT, D, A and U. -/
def pteReserved (pte level : Nat) : Bool :=
  bitsOf pte 60 54 != 0 || (pte.testBit 2 && !pte.testBit 1) || bitsOf pte 62 61 == 3
    || (if pte.testBit 1 || pte.testBit 3 then
          pte.testBit 63 && (level != 0 || bitsOf pte 13 10 != 8)
        else level == 0 || pte.testBit 63 || bitsOf pte 62 61 != 0 || pte.testBit 7 || pte.testBit 6 || pte.testBit 4)

/-- A leaf that a walk has found, and whether a read of the walk was from a device-bias granule. -/
structure Leaf where
  at' : Nat
  pte : Nat
  level : Nat
  dev : Bool
deriving DecidableEq, Repr

/-- The walk from a table page. -/
def State.walk (s : State) (va : Nat) : Nat → Nat → Bool → Except Nat Leaf
  | 0, _, _ => .error 1
  | l + 1, ppn, dev => do
    let at' := ppn * 4096 + va / 2 ^ (12 + 9 * l) % 512 * 8
    let (pte, dev) ← s.tableRead dev at'
    if pte % 2 = 0 then .error 1
    else if pteReserved pte l then .error 2
    else if pte.testBit 1 || pte.testBit 3 then
      if bitsOf pte 53 10 % 2 ^ (9 * l) ≠ 0 then .error 2 else .ok ⟨at', pte, l, dev⟩
    else s.walk va l (bitsOf pte 53 10) dev

/-- Whether A, and D for a write, are set. -/
def pteUsed (k : AccKind) (pte : Nat) : Bool := pte.testBit 6 && ((k != .store && k != .rmw) || pte.testBit 7)

/-- Reasons 5 to 7 of a leaf (R404). -/
def pteDenies (k : AccKind) (pte : Nat) : Option Nat :=
  if !pte.testBit 4 then some 5
  else if (match k with
    | .load => !pte.testBit 1
    | .store => !pte.testBit 2
    | .rmw => !(pte.testBit 1 && pte.testBit 2)
    | .fetch => !pte.testBit 3) then some 6
  else if bitsOf pte 62 61 = 2 then some 7
  else none

/-- Address bits that a leaf leaves to the offset: its level's, or 16 for a 64 KiB page. -/
def pteBits (pte level : Nat) : Nat := if pte.testBit 63 then 16 else 12 + 9 * level

/-- The physical address a leaf gives. -/
def pteAddr (pte bits va : Nat) : Nat := bitsOf pte 53 10 * 4096 / 2 ^ bits * 2 ^ bits + va % 2 ^ bits

/-- A canonical address: bits above the mode's top bit equal it (R404, reason 3). -/
def canonical (levels va : Nat) : Bool :=
  let top := 11 + 9 * levels
  va / 2 ^ top == 0 || va / 2 ^ top == 2 ^ (64 - top) - 1

/-- A TLB takes an entry; the oldest goes when it is full (R405; log entry 12). -/
def tlbInsert (t : List TlbEntry) (e : TlbEntry) (cap : Nat) : List TlbEntry :=
  let mine := t.filter fun x => x.unit == e.unit && !(x.pscid == e.pscid && x.page == e.page && x.bits == e.bits)
  (e :: mine).take cap ++ t.filter fun x => x.unit != e.unit

/-- A translation of one address by a unit, in a context, for a kind of access (R404). -/
def State.translate (s : State) (core ctx va : Nat) (k : AccKind) : State × Except Nat Nat :=
  let rec' := mgetD s.wk.ctxs ctx {}
  if !rec'.valid then (s, .error 1)
  else
    match s.procCtx rec'.pasid with
    | (s, .error e) => (s, .error e)
    | (s, .ok (p, dev)) =>
      if !canonical p.levels va then (s, .error 3)
      else
        let hit := s.m.tlb.find? fun e =>
          (e.unit == core || e.unit == 128 + dieOf core) && e.pscid == p.pscid && e.page == va / 2 ^ e.bits && pteUsed k e.pte
        let found : State × Except Nat (Nat × Nat) :=
          match hit with
          | some e => (s, .ok (e.pte, e.bits))
          | none =>
            match s.walk va p.levels p.root dev with
            | .error e => (s, .error e)
            | .ok ⟨at', pte, l, dev⟩ =>
              if !pteUsed k pte && !p.ade then (s, .error 4)
              else
                match (pteDenies k pte).orElse fun _ => if dev then some 8 else none with
                | some r => (s, .error r)
                | none =>
                  let pte' := pte ||| 2 ^ 6 ||| (if k = .store ∨ k = .rmw then 2 ^ 7 else 0)
                  let s := if pte' = pte then s else s.cohStore false at' (leBytesOf 8 pte')
                  let bits := pteBits pte l
                  let e := fun u => ({ unit := u, pscid := p.pscid, page := va / 2 ^ bits, bits := bits, pte := pte' } : TlbEntry)
                  (s.mapMem fun m => { m with
                    tlb := tlbInsert (tlbInsert m.tlb (e (128 + dieOf core)) 16384) (e core) 512 }, .ok (pte', bits))
        match found with
        | (s, .error e) => (s, .error e)
        | (s, .ok (pte, bits)) =>
          match (pteDenies k pte).orElse fun _ => if dev then some 8 else none with
          | some r => (s, .error r)
          | none => if s.inMemory (pteAddr pte bits va) then (s, .ok (pteAddr pte bits va)) else (s, .error 10)

/-- A range of bytes translated page by page (4 KiB steps): the physical address of each byte's start, or the first
failing address with its reason. Pieces never cross a page, so this is used byte-run by byte-run. -/
def State.translateRun (s : State) (core ctx : Nat) (k : AccKind) : Nat → Nat → Nat → State × Except (Nat × Nat) (List (Nat × Nat))
  | 0, _, _ => (s, .ok [])
  | fuel + 1, va, n =>
    if n = 0 then (s, .ok [])
    else
      let m := min n (4096 - va % 4096)
      match s.translate core ctx va k with
      | (s, .error e) => (s, .error (va, e))
      | (s, .ok pa) =>
        match s.translateRun core ctx k fuel ((va + m) % 2 ^ 64) (n - m) with
        | (s, .error e) => (s, .error e)
        | (s, .ok r) => (s, .ok ((pa, m) :: r))

/-- Entries of a queue of the IOMMU, and where it lies. -/
def ringSize (base : Nat) : Nat := 2 ^ (base % 32 + 1)
def ringBase (base : Nat) : Nat := bitsOf base 53 10 * 4096

/-- The fault queue's interrupt, pending when it is enabled. -/
def Iommu.faultSent (i : Iommu) : Iommu := if i.fqcsr.testBit 1 && !i.ipsr.testBit 1 then { i with ipsr := i.ipsr + 2 } else i

/-- A fault of a copy, a query, the spill engine or a landing goes to the fault queue, when it is on and has room (R402, R404). -/
def State.logFault (s : State) (ctx : Nat) (k : AccKind) (reason va : Nat) : State :=
  let pid := (mgetD s.wk.ctxs ctx {}).pasid
  let cause := match k, isPageFault reason with
    | .load, true => 13 | .load, false => 5 | .fetch, true => 12 | .fetch, false => 1 | _, true => 15 | _, false => 7
  let ttyp := match k with | .load => 2 | .fetch => 1 | _ => 3
  let q := s.m.iommu
  if !q.fqcsr.testBit 16 ∨ q.fqcsr.testBit 8 ∨ q.fqcsr.testBit 9 then s
  else if (q.fqt + 1) % ringSize q.fqb = q.fqh then s.mapMem fun m => { m with iommu := { q with fqcsr := q.fqcsr + 2 ^ 9 }.faultSent }
  else
    let at' := ringBase q.fqb + 32 * q.fqt
    if !s.inMemory at' then s.mapMem fun m => { m with iommu := { q with fqcsr := q.fqcsr + 2 ^ 8 }.faultSent }
    else
      let word := cause + pid % 2 ^ 20 * 2 ^ 12 + 2 ^ 32 + ttyp * 2 ^ 34 + s.pk.topo.devid % 2 ^ 24 * 2 ^ 40
      (s.cohStore false at' (leBytesOf 8 word ++ leBytesOf 8 0 ++ leBytesOf 8 va ++ leBytesOf 8 0)).mapMem fun m =>
        { m with iommu := { q with fqt := (q.fqt + 1) % ringSize q.fqb }.faultSent }

end Sys2Proof.Machine
end

