-- ==== Sys2Proof/Machine/Grid.lean ====
section
/-! DEFINITION. Grid.lean: a harness grid's shape, its storage by window offset, and the two words that describe it
(09 R217, R218, R227, R236; 10 R242). -/

namespace Sys2Proof.Machine

/-- Rows of a group by shape code (R217). -/
def groupRows (shape : Nat) : Nat := 2 ^ (shape + 1)

/-- Grid rows GR (R217). -/
def gridRows (shape : Nat) : Nat := match shape with | 0 => 8 | 1 => 16 | 2 => 16 | _ => 32

/-- Grid columns GC (R217). -/
def gridCols (shape : Nat) : Nat := match shape with | 0 => 8 | 1 => 8 | _ => 16

/-- N = 8·GC (R218). -/
def gridN (shape : Nat) : Nat := 8 * gridCols shape

/-- Accumulator rows, ACCU·8,192 / N (R227). -/
def HGrid.accRows (g : HGrid) : Nat := g.accu * 8192 / gridN g.shape

/-- What a byte of grid storage holds when nothing is listed: 0x7F in the scale stores (R222). -/
def gridDefault (off : Nat) : Byte := if 0x58000 ≤ off ∧ off < 0x5B000 then 0x7F#8 else 0#8

def HGrid.get (g : HGrid) (off : Nat) : Byte := cget g.store off (gridDefault off)

def HGrid.put (g : HGrid) (off : Nat) (b : Byte) : HGrid := { g with store := cput g.store off (gridDefault off) b }

/-- `n` bytes of storage as a number. -/
def HGrid.num (g : HGrid) (off n : Nat) : Nat := leVal (readBytes g.get off n)

def HGrid.putNum (g : HGrid) (off n x : Nat) : HGrid :=
  (atAddrs off (leBytesOf n x)).foldl (fun g p => g.put p.1 p.2) g

/-- Offset of accumulator element (m, n). -/
def HGrid.accOff (g : HGrid) (m n : Nat) : Nat := 0x80000 + 4 * (m * gridN g.shape + n)

/-- The grid status of R242 as a number. -/
def HGrid.status (g : HGrid) : Nat :=
  let c := (if g.fl &&& Cond.nv = 0#5 then 0 else 8) + (g.fl &&& 7#5).toNat
  c + g.desc0 * 2 ^ 22 + g.desc1 * 2 ^ 38 + min g.poison 0xFFFF * 2 ^ 80 + g.rows % 2 ^ 32 * 2 ^ 96

/-- The tile-progress word of R236 as a number. -/
def HGrid.progress (g : HGrid) : Nat :=
  let common := g.scb1.toNat * 2 ^ 65 + g.scb0.toNat * 2 ^ 66 + g.sca.toNat * 2 ^ 67 + g.idxv.toNat * 2 ^ 73
    + g.abuf * 2 ^ 74 + g.curb * 2 ^ 75
  match if g.cut then g.ops.head? else none with
  | none => common
  | some o =>
    o.pc + 2 ^ 64 + common + o.args.getD 9 0 * 2 ^ 76 + (o.args.getD 0 1 - 1) % 512 * 2 ^ 77 + o.done % 1024 * 2 ^ 86

/-- A byte of the harness range by its offset, when the offset is not reserved (R227). -/
def HGrid.byte (g : HGrid) (off : Nat) : Option Byte :=
  if off < 0x5B000 then some (g.get off)
  else if off < 0x5B010 then some (BitVec.ofNat 8 (g.progress / 256 ^ (off - 0x5B000)))
  else if off < 0x5B020 then some (BitVec.ofNat 8 (g.status / 256 ^ (off - 0x5B010)))
  else if 0x5C000 ≤ off ∧ off < 0x5C100 then some (g.get off)
  else if 0x80000 ≤ off ∧ off < 0x80000 + g.accu * 0x8000 then some (g.get off)
  else none

/-- A byte written through the window: the two words are read-only (R236, R242), and reserved offsets take nothing.
An accumulator's mark stays (R235). -/
def HGrid.poke (g : HGrid) (off : Nat) (b : Byte) : HGrid :=
  if 0x5B000 ≤ off ∧ off < 0x5B020 then g
  else if (g.byte off).isSome then { g.put off b with marks := if off < 0x80000 then g.marks.filter fun m => m != off else g.marks }
  else g

/-- An accumulator element marked, and counted when it was not (R235, R242). -/
def HGrid.markAcc (h : HGrid) (off : Nat) : HGrid :=
  if h.marks.contains off then h else { h with marks := ladd h.marks off, poison := min (h.poison + 1) 0xFFFF }

/-- A byte of storage becomes poisoned: an accumulator's mark is its element's (R235). -/
def HGrid.mark (h : HGrid) (off : Nat) : HGrid :=
  if 0x80000 ≤ off then h.markAcc (off / 4 * 4) else { h with marks := ladd h.marks off }

/-- One byte written through the window, poisoned or not. -/
def HGrid.pokeBad (h : HGrid) (off : Nat) (b : Byte) (bad : Bool) : HGrid :=
  let h1 := h.poke off b
  if bad && (h.byte off).isSome && !(decide (0x5B000 ≤ off) && decide (off < 0x5B020)) then h1.mark off else h1

/-- Window writes that waited for the end of a pass take effect (R227). -/
def HGrid.flush (g : HGrid) : HGrid :=
  { g.waiting.foldl (fun h w => (w.2.1.zipIdx).foldl (fun h p => h.pokeBad (w.1 + p.2) p.1 (w.2.2.getD p.2 false)) h) g with waiting := [] }

/-- The poison of a byte written through the window goes with the byte: a write that still waits keeps it (R227, R235). -/
def HGrid.markWritten (h : HGrid) (off : Nat) : HGrid :=
  match h.waiting.getLast? with
  | some w =>
    { h with waiting := h.waiting.dropLast ++ [(w.1, w.2.1, (List.range w.2.1.length).map fun i => w.2.2.getD i false || decide (w.1 + i = off))] }
  | none => if (h.byte off).isSome && !(decide (0x5B000 ≤ off) && decide (off < 0x5B020)) then h.mark off else h

/-- The harnessed grid whose lead stands on a core (R227), of a context where one is given. Where several do, which is possible for
grids of shape 0, the harness range shows the one of the lowest register (log entry 41). -/
def State.gridOnCore (s : State) (core : Nat) (ctx : Option Nat := none) : Option (Nat × HGrid) :=
  s.wk.hgrids.find? fun p => p.2.state == 2 && p.2.sw && (p.2.lead.map coreOf) == some core && (ctx.isNone || ctx == some p.2.ctx)

/-- Whether an HMMA of the grid has been entered in part. -/
def HGrid.entered (h : HGrid) : Bool :=
  h.ops.any fun o => o.code == 0x1E6 && decide (0 < o.done) && decide (o.done < o.args.getD 0 0)

/-- Whether pass rows may enter: not while a save or a debug stop of the block drains the grid, nor in a STEP of the lead, which does not
end the stop (R237, R275). -/
def State.rowsMayEnter (s : State) (w : Nat) (h : HGrid) : Bool :=
  !(((s.block h.blk).map Block.saving).getD false) && !(((s.wave w).map fun x => x.dbg || x.stepping).getD false)

/-- Whether a pass of the grid is under way and runs on: a window write waits for its end (R227). -/
def State.midPass (s : State) (h : HGrid) : Bool := h.entered && h.lead.any fun w => s.rowsMayEnter w h

/-- Bytes written to a grid through the window, between two harness instructions: while an HMMA is entered in part, whether its pass runs
on or a stop holds it, they wait for its end (R227). -/
def HGrid.write (h : HGrid) (off : Nat) (bs : List Byte) : HGrid :=
  let h1 := { h with waiting := h.waiting ++ [(off, bs, [])] }
  if h.entered then h1 else h1.flush

def State.putGrid (s : State) (g : Nat) (h : HGrid) : State := { s with wk := { s.wk with hgrids := mput s.wk.hgrids g h } }

def State.modGrid (s : State) (g : Nat) (f : HGrid → HGrid) : State := { s with wk := { s.wk with hgrids := mmod s.wk.hgrids g f } }

end Sys2Proof.Machine
end

