-- ==== Sys2Proof/Machine/Access.lean ====
section
/-! DEFINITION. Access.lean: an access from its addresses to its bytes: the checks of 08 R177, the window of 07 R162 and
R163, the atomic parts of 00 R16, and how each part is read or written. -/

namespace Sys2Proof.Machine

/-! ## The window (R162, R163, R173) -/

def windowBase : Nat := 0xE000000000000

/-- The window range (R173). -/
def inWindow (va : Nat) : Bool := decide (windowBase ≤ va) && decide (va < windowBase + 0x20000000)

/-- An access of `n` bytes that has one in the window range: none of it is translated (R173; log entry 23). -/
def onWindow (va n : Nat) : Bool := decide (windowBase < va + n) && decide (va < windowBase + 0x20000000)

/-- A block's region on a core: base and size (R158). -/
def Block.region (b : Block) (core : Nat) : Option (Nat × Nat) :=
  (b.sp.find? fun p => p.1 == core).map Prod.snd

/-- What a window access of a block's program reaches, or none for WINDOW_PERM (R163, R227). -/
def State.windowLoc (s : State) (blk va n : Nat) : Option Loc := do
  let b ← s.block blk
  let core := (va - windowBase) / 0x400000
  let o := (va - windowBase) % 0x400000
  if 0x80000 ≤ o ∧ o < 0x100000 then
    let w := 64 * core + (o - 0x80000) / 0x2000
    let r := o % 0x2000 / 128
    let x ← s.wave w
    if s.ctxNo x = b.ctx ∧ r < 8 * x.alloc then some (.reg w x.uid r (o % 128 / 4) (o % 4)) else none
  else if 0x180000 ≤ o ∧ o < 0x1C0000 then
    let r ← b.region core
    if o - 0x180000 + n ≤ r.2 then some (.sp core (o - 0x180000) blk) else none
  else if 0x200000 ≤ o ∧ o < 0x300000 then
    let g ← s.gridOnCore core (some b.ctx)
    if (List.range n).all fun i => (g.2.byte (o - 0x200000 + i)).isSome then some (.grid g.1 g.2.uid (o - 0x200000)) else none
  else none

/-! ## Bytes by location -/

/-- Scratchpad key of a region offset, while the block holds a region there. -/
def State.spKey (s : State) (core off blk : Nat) : Option Nat := do
  let b ← s.block blk
  let r ← b.region core
  if off < r.2 then some (2 ^ 18 * core + r.1 + off) else none

/-- The wave a register location still names (R449). -/
def State.regTarget (s : State) (w uid n : Nat) : Option Wave :=
  match s.wave w with
  | some x => if x.uid = uid ∧ n < 8 * x.alloc then some x else none
  | none => none

/-- The grid a grid location still names (R449). -/
def State.gridTarget (s : State) (g uid : Nat) : Option HGrid := (mget s.wk.hgrids g).filter fun h => h.uid == uid

/-- What a window read finds where its target has gone since its check: the spec states no value, so it is free, by moment
and place (R164; log entry 23). -/
def State.goneByte (s : State) (a b : Nat) : Byte := BitVec.ofNat 8 (Config.openValue ((s.clock * 2 ^ 32 + a) * 2 ^ 32 + b))

/-- A byte `i` places into a location, as a core reads it. -/
def State.locByte (s : State) (core : Nat) (l : Loc) (i : Nat) : Byte :=
  match l with
  | .mem pa => s.m.coreByte core (pa + i)
  | .sp c off blk =>
    match s.spKey c (off + i) blk with
    | some k => cget s.co.sp k 0#8
    | none => s.goneByte c (off + i)
  | .reg w uid n lane byte =>
    match s.regTarget w uid n with
    | some x => (s.vread w x n (lane + (byte + i) / 4)).extractLsb' (8 * ((byte + i) % 4)) 8
    | none => s.goneByte w (128 * n + 4 * lane + byte + i)
  | .grid g uid off => ((s.gridTarget g uid).bind fun h => h.byte (off + i)).getD (s.goneByte g (off + i))

def State.locBytes (s : State) (core : Nat) (l : Loc) (n : Nat) : List Byte := (List.range n).map (s.locByte core l)

/-- Whether a core reads any of the bytes poisoned (R178, R269). -/
def State.locBad (s : State) (core : Nat) (l : Loc) (n : Nat) : Bool :=
  match l with
  | .mem pa => (List.range n).any fun i => s.m.corePoisoned core (pa + i)
  | .sp c off blk =>
    !s.co.spBad.isEmpty && (List.range n).any fun i =>
      match s.spKey c (off + i) blk with
      | some k => (mget s.co.spBad (k / 2)).isSome
      | none => false
  | .reg w uid r lane byte =>
    !s.co.rfBad.isEmpty && (List.range n).any fun i =>
      match s.regTarget w uid r with
      | some x => s.vbad w x r (lane + (byte + i) / 4) / 2 ^ ((byte + i) % 4 / 2) % 2 == 1
      | none => false
  | .grid g uid off =>
    match s.gridTarget g uid with
    | some h => h.marks.any fun m => decide (off ≤ if m < 0x80000 then m else m + 3) && decide (m < off + n)
    | none => false

/-- A byte of a scratchpad written; marks of half-words wholly rewritten are cleared by `spCleanse`. -/
def State.spPut (s : State) (k : Nat) (b : Byte) : State := { s with co := { s.co with sp := cput s.co.sp k 0#8 b } }

def State.spCleanse (s : State) (k n : Nat) : State :=
  if s.co.spBad.isEmpty then s
  else { s with co := { s.co with spBad := s.co.spBad.filter fun p => !(decide (k ≤ 2 * p.1) && decide (2 * p.1 + 2 ≤ k + n)) } }

/-- The releases that the values of scratchpad bytes carry from now on (R366). -/
def State.spRelease (s : State) (k n : Nat) (rels : List Rel) : State :=
  if s.co.spRels.isEmpty && rels.isEmpty then s
  else { s with co := { s.co with spRels := (List.range n).foldl (fun m i => cput m (k + i) [] rels) s.co.spRels } }

/-- Bytes written to a scratchpad region, with the releases that they carry. A target that has gone takes nothing (R449). -/
def State.spWrite (s : State) (core off blk : Nat) (bs : List Byte) (rels : List Rel := []) : State :=
  match s.spKey core off blk, s.spKey core (off + bs.length - 1) blk with
  | some k, some _ => (((atAddrs k bs).foldl (fun s p => s.spPut p.1 p.2) s).spCleanse k bs.length).spRelease k bs.length rels
  | _, _ => s

/-- The releases that a read of a location returns where it is a scratchpad's (R366). -/
def State.locRels (s : State) (l : Loc) (n : Nat) : List Rel :=
  match l with
  | .sp c off blk =>
    if s.co.spRels.isEmpty then []
    else (List.range n).foldl (fun a i =>
      match s.spKey c (off + i) blk with
      | some k => joinRels a (cget s.co.spRels k [])
      | none => a) []
  | _ => []

/-- Bytes of a word replaced, from byte `byte` on. -/
def spliceWord (old : Word) (byte : Nat) (bs : List Byte) : Word :=
  BitVec.ofNat 32 (leVal ((List.range 4).map fun i =>
    if byte ≤ i ∧ i < byte + bs.length then bs.getD (i - byte) 0#8 else old.extractLsb' (8 * i) 8))

/-- A window write to a register, in one clock (R164, R449). -/
def State.regWrite (s : State) (w uid n lane byte : Nat) (bs : List Byte) : State :=
  match s.regTarget w uid n with
  | none => s
  | some x =>
    let put := fun (s : State) (lane byte : Nat) (bs : List Byte) =>
      let keep := (List.range 2).foldl (fun a h =>
        if byte ≤ 2 * h ∧ 2 * h + 2 ≤ byte + bs.length then a else a + s.vbad w x n lane / 2 ^ h % 2 * 2 ^ h) 0
      s.vwrite w x n lane (spliceWord (s.vread w x n lane) byte bs) keep
    if bs.length = 8 then put (put s lane 0 (bs.take 4)) (lane + 1) 0 (bs.drop 4) else put s lane byte bs

/-- Bytes written at a location by a core, with the releases that they carry: a plain store carries those of its wave's fences. -/
def State.locWrite (s : State) (core : Nat) (l : Loc) (bs : List Byte) (rels : List Rel := []) : State :=
  match l with
  | .mem pa => s.storeLine core pa bs rels
  | .sp c off blk => s.spWrite c off blk bs rels
  | .reg w uid n lane byte => s.regWrite w uid n lane byte bs
  | .grid g uid off =>
    match s.gridTarget g uid with
    | some h => s.putGrid g (h.write off bs)
    | none => s

/-! ## From an instruction's addresses to its parts -/

/-- One lane's access before it is checked. -/
structure Want where
  lane : Nat
  va : Nat
  n : Nat
deriving DecidableEq, Repr

/-- What an access asks of its addresses. `align` is the alignment that global addresses need, `win` admits the window
range, `only` admits nothing else (R173), `spOnly` admits only scratchpads in it and `w2`
nothing of it (R187), `whole` keeps an access of 16 bytes in one part (R181). -/
structure Ask where
  kind : AccKind
  align : Nat
  win : Bool
  only : Bool := false
  spOnly : Bool := false
  w2 : Bool := false
  whole : Bool := false

/-- The parts of an access: one when it is naturally aligned and at most 8 bytes (or `whole`), else one per aligned
4-byte unit (R16). -/
def splitParts (whole : Bool) : Nat → Nat → Nat → List (Nat × Nat)
  | 0, _, _ => []
  | fuel + 1, a, n =>
    if n = 0 then []
    else if (whole && n = 16 && a % 16 = 0) || ((n = 8 || n = 4 || n = 2 || n = 1) && a % n = 0 && fuel = 31) then [(a, n)]
    else
      let m := min n (4 - a % 4)
      (a, m) :: splitParts whole fuel (a + m) (n - m)

/-- A trap of the lanes that fail with one cause (R177). -/
def accessTrap (cause : Cause) (sub : Nat) (ls : List (Nat × Nat)) : Trap :=
  { cause := cause, sub := sub, addr := (ls.headD (0, 0)).2, mask := maskOfList (ls.map Prod.fst) }

/-- The worse of two reasons of one lane: a page fault comes before an access fault, else the earlier part's (R177). -/
def worseReason (a b : Nat) : Nat := if !isPageFault a && isPageFault b then b else a

/-- The parts of one lane's access to global memory, translated: the reason why it fails, or the parts. -/
def State.partsOf (s : State) (core ctx : Nat) (q : Want) (k : AccKind) :
    List (Nat × Nat) → State × Except Nat (List Piece)
  | [] => (s, .ok [])
  | (a, n) :: r =>
    match s.translate core ctx (a % 2 ^ 64) k with
    | (s, .error e) =>
      match s.partsOf core ctx q k r with
      | (s, .error e') => (s, .error (worseReason e e'))
      | (s, .ok _) => (s, .error e)
    | (s, .ok pa) =>
      match s.partsOf core ctx q k r with
      | (s, .error e) => (s, .error e)
      | (s, .ok ps) => (s, .ok ({ lane := q.lane, off := a - q.va, len := n, va := a % 2 ^ 64, loc := .mem pa } :: ps))

/-- A lane's result of the translation check. -/
abbrev Checked := List (Nat × Nat × Except Nat (List Piece))

/-- Translation of every lane's access (R177, rows 3 and 4). -/
def State.translateAll (s : State) (core ctx : Nat) (a : Ask) : List Want → State × Checked
  | [] => (s, [])
  | q :: qs =>
    match s.partsOf core ctx q a.kind (splitParts a.whole 32 q.va q.n) with
    | (s, r) =>
      match s.translateAll core ctx a qs with
      | (s, rs) => (s, (q.lane, q.va, r) :: rs)

/-- A window access's one part. -/
def State.windowPart (s : State) (blk : Nat) (q : Want) : Option Piece :=
  if q.va % q.n ≠ 0 then none
  else (s.windowLoc blk q.va q.n).map fun l => { lane := q.lane, off := 0, len := q.n, va := q.va, loc := l }

/-- The checks of R177 over all lanes of a global-form instruction, with the window rules of R173: the parts of every
lane, in lane order, or the trap. -/
def State.checkGlobal (s : State) (core ctx blk : Nat) (a : Ask) (qs : List Want) : State × Except Trap (List Piece) :=
  let wide := qs.filter fun q => a.win && onWindow q.va q.n && (a.w2 || decide (q.n > 8))
  let mis := qs.filter fun q => q.va % a.align != 0 || (a.win && onWindow q.va q.n && q.va % min q.n 8 != 0)
  if !wide.isEmpty then (s, .error (accessTrap .illegalOperand 0 (wide.map fun q => (q.lane, q.va))))
  else if !mis.isEmpty then (s, .error (accessTrap .misaligned 0 (mis.map fun q => (q.lane, q.va))))
  else
    let perm := qs.filter fun q =>
      if onWindow q.va q.n then !a.win || (s.windowPart blk q).isNone || (a.spOnly && !((s.windowPart blk q).any fun p => match p.loc with | .sp .. => true | _ => false)) else a.only
    if !perm.isEmpty then (s, .error (accessTrap .windowPerm 0 (perm.map fun q => (q.lane, q.va))))
    else
      match s.translateAll core ctx a (qs.filter fun q => !onWindow q.va q.n) with
      | (s, rs) =>
        let bad := rs.filterMap fun r => match r.2.2 with | .error e => some (r.1, r.2.1, e) | .ok _ => none
        let page := bad.filter fun r => isPageFault r.2.2
        let fail := if page.isEmpty then bad else page
        match fail with
        | r :: _ =>
          (s, .error (accessTrap (if page.isEmpty then .accessFault else .pageFault)
            (a.kind.code + 16 * r.2.2) (fail.map fun r => (r.1, r.2.1))))
        | [] =>
          (s, .ok (qs.flatMap fun q =>
            if onWindow q.va q.n then (s.windowPart blk q).toList
            else (rs.findSome? fun r => if r.1 = q.lane ∧ r.2.1 = q.va then r.2.2.toOption else none).getD []))

/-- The checks of a scratchpad form (R158, R177): the parts, one per aligned word or one for a naturally aligned access
up to 8 bytes. -/
def State.checkSp (s : State) (core blk align : Nat) (whole : Bool) (qs : List Want) : Except Trap (List Piece) :=
  let mis := qs.filter fun q => q.va % align != 0
  if !mis.isEmpty then .error (accessTrap .misaligned 0 (mis.map fun q => (q.lane, q.va)))
  else
    let size := (((s.block blk).bind fun b => b.region core).getD (0, 0)).2
    let out := qs.filter fun q => decide (q.va + q.n > size)
    if !out.isEmpty then .error (accessTrap .scratchRange 0 (out.map fun q => (q.lane, q.va)))
    else
      .ok (qs.flatMap fun q => (splitParts whole 32 q.va q.n).map fun p =>
        { lane := q.lane, off := p.1 - q.va, len := p.2, va := p.1, loc := .sp core p.1 blk })

end Sys2Proof.Machine
end

