-- ==== Sys2Proof/Machine/Debug.lean ====
section
/-! DEFINITION. Debug.lean: the debug unit's matching and stop-the-cluster (11 R271 to R275; 15 R318 to R321). -/

namespace Sys2Proof.Machine

def State.dbg (s : State) (q : Nat) : Dbg := mgetD s.wk.dbgs q {}

def State.putDbg (s : State) (q : Nat) (d : Dbg) : State := { s with wk := { s.wk with dbgs := mput s.wk.dbgs q d } }

/-- Cluster of a wave. -/
def clusterOfWave (w : Nat) : Nat := clusterOf (coreOf w)

/-- Whether a wave's context is observed by a cluster's unit, on that cluster. -/
def State.observed (s : State) (q w : Nat) (x : Wave) : Bool := clusterOfWave w == q && s.ctxNo x == (s.dbg q).dctx

/-- The range of a data watchpoint: first byte and length, when it is armed for the kind of access (R272). -/
def Watch.range (p : Watch) (isW isR : Bool) : Option (Nat × Nat) :=
  let len := bitsOf p.ctl 12 8
  if p.ctl.testBit 24 && ((isW && p.ctl.testBit 23) || (isR && p.ctl.testBit 22)) && decide (len ≤ 20) then
    some (p.addr / 2 ^ len * 2 ^ len, 2 ^ len)
  else none

/-- The space a part lies in for a watchpoint: none for global, or the core and physical offset of a scratchpad byte. -/
def State.pieceSpace (s : State) (p : Piece) : Option (Option Nat × Nat) :=
  match p.loc with
  | .mem _ => some (none, p.va)
  | .sp c off blk => (s.spKey c off blk).map fun k => (some c, k % 2 ^ 18)
  | _ => none

/-- The first byte of a part that a watchpoint's range holds, as the instruction addressed it (R318). -/
def State.watchTouch (s : State) (q : Nat) (p : Watch) (isW isR : Bool) (agentQ : Option Nat) (pc : Piece) : Option Nat := do
  let r ← p.range isW isR
  let sp ← s.pieceSpace pc
  let ok := match sp.1 with
    | none => bitsOf p.ctl 14 13 == 0 && agentQ == some q
    | some c => bitsOf p.ctl 14 13 == 1 && bitsOf p.ctl 21 15 == c
  let first := max r.1 sp.2
  if ok && decide (first < min (r.1 + r.2) (sp.2 + pc.len)) then some (pc.va + (first - sp.2)) else none

/-- Every running wave of DCTX on the cluster is to stop, within 24 clocks (R274). -/
def State.broadcastStop (s : State) (q : Nat) (but : Option Nat) : State :=
  s.mapWaves fun w x =>
    if s.observed q w x && some w != but && x.run == .running && x.hit.isNone then
      { x with hit := some { clock := s.clock, issues := x.issues, trap := { cause := .debugStop }, pc := none,
                             issueSet := 0#32, iwords := [] } }
    else x

/-- DBGSTAT for a hit (R271). -/
def dbgStat (kind idx : Nat) (w : Option Nat) (bkpt : Bool) : Nat :=
  2 ^ 31 + kind * 2 ^ 30 + idx * 2 ^ 28
    + (match w with | some w => 2 ^ 27 + coreOf w * 2 ^ 20 + slotOf w * 2 ^ 14 | none => 0) + bkpt.toNat * 2 ^ 13

/-- A hit while the unit runs: it is recorded and the cluster is told to stop (R274). -/
def State.debugHit (s : State) (q kind idx : Nat) (w : Option Nat) (bkpt : Bool) : State :=
  let d := s.dbg q
  if d.state = 0 then
    (s.putDbg q { d with state := 1, stat := dbgStat kind idx w bkpt }).broadcastStop q w
  else s

/-- One data watchpoint of a cluster against an access that has just been performed. `w` is the wave that made it, with
its pending entry; `now` are the parts performed. A wave that issues no more, for its block's save, stops at once. -/
def State.watchOne (s : State) (q i : Nat) (w : Option (Nat × Pend)) (ctx : Nat) (now : List Piece) (isW isR : Bool) : State :=
  let d := s.dbg q
  let p := d.watch.getD i {}
  let agentQ := w.map fun a => clusterOfWave a.1
  let touch := s.watchTouch q p isW isR agentQ
  let seen := match w with | some a => a.2.counted.contains (4 * q + i) | none => false
  if !d.den || ctx != d.dctx || seen || !(now.any fun c => (touch c).isSome) then s
  else
    let s1 := s.putDbg q { d with watch := d.watch.set i { p with hits := (p.hits + 1) % 2 ^ 32 } }
    let hitter := (w.map Prod.fst).filter fun w => clusterOfWave w == q
    let s2 := s1.debugHit q 0 i hitter false
    match w with
    | none => s2
    | some (wn, pe) =>
      let s3 := s2.modWave wn fun x =>
        { x with pend := x.pend.map fun (r : Pend) => if r.stamp == pe.stamp then { r with counted := (4 * q + i) :: r.counted } else r }
      match s3.wave wn with
      | none => s3
      | some x =>
        let ts := pe.parts.filterMap fun c => (touch c).map fun a => (c.lane, a)
        let h : Hit :=
          { clock := s.clock, issues := x.issues, pc := some pe.pc, issueSet := pe.con, iwords := pe.iwords
            trap := { cause := .watchpoint, sub := i + (if isW then 4 else 0), addr := (ts.headD (0, 0)).2
                      mask := maskOfList (ts.map Prod.fst) } }
        if d.state ≠ 0 ∨ hitter.isNone ∨ x.hit.isSome then s3
        else if x.run = .running then s3.putWave wn { x with hit := some h }
        else if x.run = .saving then s3.takeHit wn x h
        else s3

/-- All data watchpoints against an access (R272): those of the agent's cluster for global memory, and every unit's for a
scratchpad. -/
def State.watch (s : State) (w : Option (Nat × Pend)) (ctx : Nat) (now : List Piece) (isW isR : Bool) : State :=
  if s.wk.dbgs.all fun d => !d.2.den then s
  else
    s.wk.dbgs.foldl (fun s d => (List.range 4).foldl (fun s i => s.watchOne d.1 i w ctx now isW isR) s) s

/-- The instruction breakpoint that a wave's candidate address matches (R273). -/
def State.breakAt (s : State) (w : Nat) (x : Wave) (pc : Nat) : Option Nat :=
  let q := clusterOfWave w
  let d := s.dbg q
  if !d.den || !s.observed q w x || x.skipBp.contains pc then none
  else (List.range 4).find? fun i =>
    let b := d.brk.getD i {}
    b.ctl.testBit 0 && b.addr / 2 * 2 == pc

end Sys2Proof.Machine
end

