-- ==== Sys2Proof/Machine/Special.lean ====
section
/-! DEFINITION. Special.lean: the special functions of 05 R138, correctly rounded. A result that is not
exact is enclosed between two fixed-point bounds (log entry 10); both ends round to the same code, or
the value is Config.specialTie's. Table evaluation (R145) and Philox (R146) stand here as well. -/

namespace Sys2Proof.Machine

/-- Fraction bits of the fixed-point work. -/
def fxBits : Nat := 288

/-- 1 in fixed point. -/
def fxOne : Nat := 2 ^ 288

/-- π, rounded down to 2^-288. -/
def fxPi : Nat := 0x3243f6a8885a308d313198a2e03707344a4093822299f31d0082efa98ec4e6c89452821e6

/-- ln 2, rounded down to 2^-288. -/
def fxLn2 : Nat := 0xb17217f7d1cf79abc9e3b39803f2f6af40f343267298b62d8a0d175b8baafa2be7b87620

/-- 2/√π, rounded down to 2^-288. -/
def fxTwoOverSqrtPi : Nat := 0x120dd750429b6d11ae3a914fed7fd8688281341d7587cea2e7342b06199cc416180eb39f0

/-- Product in fixed point, rounded down. -/
def fxMul (a b : Nat) : Nat := a * b / fxOne

/-- A dyadic m · 2^e in fixed point, rounded down. -/
def fxOf (m : Nat) (e : Int) : Nat :=
  let k := e + 288
  if k ≥ 0 then m * 2 ^ k.toNat else m / 2 ^ (-k).toNat

/-- The first `n` terms of 1 + x + x²/2! + …, each term from the one before. -/
def expSum (x : Nat) : Nat → Nat → Nat → Nat → Nat
  | 0, _, _, acc => acc
  | n + 1, k, t, acc => let t' := fxMul t x / k; expSum x n (k + 1) t' (acc + t')

/-- e^x for 0 ≤ x < 1. -/
def fxExp (x : Nat) : Nat := expSum x 80 1 fxOne fxOne

/-- Σ z^(2k+1)/(2k+1), the series of artanh z. -/
def atanhSum (z2 : Nat) : Nat → Nat → Nat → Nat → Nat
  | 0, _, _, acc => acc
  | n + 1, k, t, acc => let t' := fxMul t z2; atanhSum z2 n (k + 2) t' (acc + t' / k)

/-- artanh z for 0 ≤ z ≤ 1/3. -/
def fxAtanh (z : Nat) : Nat := atanhSum (fxMul z z) 100 3 z z

/-- Alternating series Σ (−1)^k x^(2k) / ((c+1)(c+2)…(c+2k)) with x² given; c = 0 is cosine, c = 1 is sin x / x. The
positive and the negative terms are summed apart. -/
def altSum (x2 : Nat) : Nat → Nat → Nat → Nat → Nat → Bool → Nat
  | 0, _, _, p, q, _ => p - q
  | n + 1, c, t, p, q, sub =>
    let t' := fxMul t x2 / ((c + 1) * (c + 2))
    if sub then altSum x2 n (c + 2) t' p (q + t') false else altSum x2 n (c + 2) t' (p + t') q true

/-- cos x and sin x / x for 0 ≤ x < 1, from x². -/
def fxCos (x2 : Nat) : Nat := altSum x2 50 0 fxOne fxOne 0 true
def fxSinc (x2 : Nat) : Nat := altSum x2 50 1 fxOne fxOne 0 true

/-- Series with positive terms: cosh x (c = 0) and sinh x / x (c = 1), from x². -/
def hypSum (x2 : Nat) : Nat → Nat → Nat → Nat → Nat
  | 0, _, _, acc => acc
  | n + 1, c, t, acc => let t' := fxMul t x2 / ((c + 1) * (c + 2)); hypSum x2 n (c + 2) t' (acc + t')

/-- Σ (−1)^n x^(2n) / (n! (2n+1)), the series of erf x · √π / (2x). -/
def erfSum (x2 : Nat) : Nat → Nat → Nat → Nat → Nat → Bool → Nat
  | 0, _, _, p, q, _ => p - q
  | k + 1, n, t, p, q, sub =>
    let t' := fxMul t x2 / n
    let y := t' / (2 * n + 1)
    if sub then erfSum x2 k (n + 1) t' p (q + y) false else erfSum x2 k (n + 1) t' (p + y) q true

/-- Integer square root, bit by bit from bit `k`. -/
def isqrtFrom (x : Nat) : Nat → Nat → Nat
  | 0, r => r
  | k + 1, r => let c := r + 2 ^ k; isqrtFrom x k (if c * c ≤ x then c else r)

/-- ⌊√x⌋ for x below 2^256. -/
def isqrt (x : Nat) : Nat := isqrtFrom x 128 0

/-- The result of a value known to lie strictly between lo · 2^e and hi · 2^e: rounded to binary32 by RNE, always
inexact. When the ends round differently the value is free (log entry 10). -/
def roundBetween (op a : Nat) (neg : Bool) (lo hi : Nat) (e : Int) : Nat × Cond :=
  let x := Fmt.f32.settle .rne false neg 0 (2 * lo + 1) (e - 1)
  let y := Fmt.f32.settle .rne false neg 0 (2 * hi - 1) (e - 1)
  if x.1 = y.1 && x.2 = y.2 then x
  else if Config.specialTie op a then x else y

/-- An approximation in fixed point, with its error below 2^40 units, times 2^e. -/
def roundApprox (op a : Nat) (neg : Bool) (y : Nat) (e : Int) : Nat × Cond :=
  roundBetween op a neg (y - 2 ^ 40) (y + 2 ^ 40) (e - 288)

/-- 1/y, √y or 1/√y by integer division or root: the quotient with a sticky bit, settled by RNE. -/
def roundSticky (neg : Bool) (q : Nat) (rest : Bool) (e : Int) : Nat × Cond :=
  Fmt.f32.settle .rne false neg 0 (2 * q + (if rest then 1 else 0)) (e - 1)

/-- The special-function operations in the order of OP 0x0A0 to 0x0A8. -/
inductive Sfu where
  | exp2 | log2 | rcp | rsq | sqrt | sin | cos | tanh | erf
deriving DecidableEq, Repr

def Sfu.code : Sfu → Nat
  | .exp2 => 0 | .log2 => 1 | .rcp => 2 | .rsq => 3 | .sqrt => 4 | .sin => 5 | .cos => 6 | .tanh => 7 | .erf => 8

/-- +∞, −∞ and 1.0 in binary32. -/
def f32Inf (neg : Bool) : Nat := Fmt.f32.sign neg + 0x7F800000
def f32One : Nat := 0x3F800000

/-- 2^a for finite a = (−1)^n m 2^e. -/
def exp2Fin (a : Nat) (n : Bool) (m : Nat) (e : Int) : Nat × Cond :=
  if m = 0 then (f32One, 0#5)
  else if (m.log2 : Int) + e ≥ 8 then
    if n then Fmt.f32.settle .rne false false 0 1 (-400) else (f32Inf false, Cond.of ||| Cond.nx)
  else
    -- a = k + f with 0 ≤ f < 1; f in fixed point, rounded down when it has more than 288 bits
    let whole : Nat := if e ≥ 0 then m * 2 ^ e.toNat else m / 2 ^ (-e).toNat
    let isInt : Bool := decide (e ≥ 0) || m % 2 ^ (-e).toNat == 0
    if isInt then
      let k : Int := if n then -(whole : Int) else whole
      Fmt.f32.settle .rne false false 0 1 k
    else
      let fr := fxOf m e - whole * fxOne
      let f := if n then fxOne - fr else fr
      let k : Int := if n then -(whole : Int) - 1 else whole
      roundApprox 0 a false (fxExp (fxMul f fxLn2)) k

/-- log₂ of a positive m 2^e. -/
def log2Fin (a m : Nat) (e : Int) : Nat × Cond :=
  let l := m.log2
  let k : Int := (l : Int) + e
  if m = 2 ^ l then Fmt.f32.settle .rne false (decide (k < 0)) 0 k.natAbs 0
  else
    -- m / 2^l = 1 + f; ln(1+f) = 2 artanh(f / (2+f))
    let num := m - 2 ^ l
    let den := m + 2 ^ l
    let y := 2 * fxAtanh (num * fxOne / den) * fxOne / fxLn2
    if k ≥ 0 then roundApprox 1 a false (k.toNat * fxOne + y) 0
    else roundApprox 1 a true ((-k).toNat * fxOne - y) 0

/-- sin(π r) and cos(π r) for the dyadic r = m 2^e in [0, 1/4]: the first as a mantissa at 2^(e−288). -/
def sinQuarter (op a : Nat) (neg : Bool) (m : Nat) (e : Int) : Nat × Cond :=
  let x := fxMul (fxOf m e) fxPi
  let y := fxMul (fxSinc (fxMul x x)) fxPi
  roundBetween op a neg (m * (y - 2 ^ 40)) (m * (y + 2 ^ 40)) (e - 288)

def cosQuarter (op a : Nat) (neg : Bool) (m : Nat) (e : Int) : Nat × Cond :=
  let x := fxMul (fxOf m e) fxPi
  roundApprox op a neg (fxCos (fxMul x x)) 0

/-- sin(π r) for a dyadic r = m 2^e in [0, 2) that is not a multiple of 1/2 (e < −1): its sign is `neg` turned by the
half plane of r. -/
def sinPi (op a : Nat) (neg : Bool) (m : Nat) (e : Int) : Nat × Cond :=
  let half := 2 ^ (-e - 1).toNat          -- 1/2 in units of 2^e
  let q := m / half
  let r := m % half
  let neg' := neg != decide (q ≥ 2)
  -- in the first and third quarter sin grows from 0, in the others it falls to 0
  let t := if q % 2 = 0 then r else half - r
  if 2 * t ≤ half then sinQuarter op a neg' t e else cosQuarter op a neg' (half - t) e

/-- sin(π a), R138. -/
def sinFin (a : Nat) (n : Bool) (m : Nat) (e : Int) : Nat × Cond :=
  if m = 0 then (Fmt.f32.sign n, 0#5)
  else if e ≥ 0 || m % 2 ^ (-e).toNat == 0 then (Fmt.f32.sign n, 0#5)
  else
    let r := m % 2 ^ (1 - e).toNat          -- |a| mod 2 in units of 2^e
    if 2 * m % 2 ^ (-e).toNat == 0 then
      let q := 2 * r / 2 ^ (-e).toNat       -- 1 or 3
      (Fmt.f32.sign (n != decide (q = 3)) + f32One, 0#5)
    else sinPi 5 a n r e

/-- cos(π a), R138: an even function, the sine of |a| + 1/2. -/
def cosFin (a : Nat) (m : Nat) (e : Int) : Nat × Cond :=
  if m = 0 then (f32One, 0#5)
  else if e ≥ 0 then (if e > 0 || m % 2 = 0 then f32One else f32One + 2 ^ 31, 0#5)
  else
    let r := m % 2 ^ (1 - e).toNat
    if 2 * r % 2 ^ (-e).toNat == 0 then
      let q := 2 * r / 2 ^ (-e).toNat       -- 0, 1, 2 or 3 halves
      if q = 0 then (f32One, 0#5)
      else if q = 2 then (f32One + 2 ^ 31, 0#5)
      else (0, 0#5)
    else sinPi 6 a false ((r + 2 ^ (-e - 1).toNat) % 2 ^ (1 - e).toNat) e

/-- tanh of a nonzero finite value. -/
def tanhFin (a : Nat) (n : Bool) (m : Nat) (e : Int) : Nat × Cond :=
  if m = 0 then (Fmt.f32.sign n, 0#5)
  else if (m.log2 : Int) + e ≥ 5 then roundBetween 7 a n (2 ^ 60 - 1) (2 ^ 60) (-60)
  else if (m.log2 : Int) + e ≥ 0 then
    -- 1 − 2/(e^(2x) + 1), with e^(2x) = 2^k · e^r
    let x2 := 2 * fxOf m e
    let k := x2 / fxLn2
    let E := fxExp (x2 % fxLn2) * 2 ^ k
    roundApprox 7 a n (fxOne - 2 * fxOne * fxOne / (E + fxOne)) 0
  else
    let x := fxOf m e
    let s := hypSum (fxMul x x) 60 1 fxOne fxOne
    let c := hypSum (fxMul x x) 60 0 fxOne fxOne
    let y := s * fxOne / c
    roundBetween 7 a n (m * (y - 2 ^ 40)) (m * (y + 2 ^ 40)) (e - 288)

/-- erf of a nonzero finite value. -/
def erfFin (a : Nat) (n : Bool) (m : Nat) (e : Int) : Nat × Cond :=
  if m = 0 then (Fmt.f32.sign n, 0#5)
  else if fxOf m e ≥ 5 * fxOne then roundBetween 8 a n (2 ^ 38 - 1) (2 ^ 38) (-38)
  else
    let x := fxOf m e
    let s := erfSum (fxMul x x) 260 1 fxOne fxOne 0 true
    let y := fxMul s fxTwoOverSqrtPi
    roundBetween 8 a n (m * (y - 2 ^ 100)) (m * (y + 2 ^ 100)) (e - 288)

/-- 1/√x or √x of a positive m 2^e: the exponent made even, the root taken with 40 extra bits. -/
def sqrtFin (m : Nat) (e : Int) : Nat × Cond :=
  let (m', e') : Nat × Int := if e % 2 = 0 then (m, e) else (2 * m, e - 1)
  let x := m' * 2 ^ 80
  let r := isqrt x
  roundSticky false r (r * r != x) (e' / 2 - 40)

def rsqFin (m : Nat) (e : Int) : Nat × Cond :=
  let (m', e') : Nat × Int := if e % 2 = 0 then (m, e) else (2 * m, e - 1)
  let x := 2 ^ 120 / m'
  let r := isqrt x
  roundSticky false r (r * r * m' != 2 ^ 120) (-60 - e' / 2)

/-- A special function's binary32 result and conditions for one lane (R138). -/
def sfuLane (f : Sfu) (a : Nat) : Nat × Cond :=
  let nan := Fmt.f32.nan
  match Fmt.f32.decode a with
  | .nan s => (nan, Cond.when s Cond.nv)
  | .inf n =>
    match f with
    | .exp2 => (if n then 0 else f32Inf false, 0#5)
    | .log2 => if n then (nan, Cond.nv) else (f32Inf false, 0#5)
    | .rcp => (Fmt.f32.sign n, 0#5)
    | .rsq => if n then (nan, Cond.nv) else (0, 0#5)
    | .sqrt => if n then (nan, Cond.nv) else (f32Inf false, 0#5)
    | .sin | .cos => (nan, Cond.nv)
    | .tanh | .erf => (Fmt.f32.sign n + f32One, 0#5)
  | .num n m e =>
    match f with
    | .exp2 => exp2Fin a n m e
    | .log2 =>
      if m = 0 then (f32Inf true, Cond.dz)
      else if n then (nan, Cond.nv)
      else log2Fin a m e
    | .rcp =>
      if m = 0 then (f32Inf n, Cond.dz)
      else
        let q := 2 ^ 80 / m
        roundSticky n q (q * m != 2 ^ 80) (-80 - e)
    | .rsq =>
      if m = 0 then (f32Inf n, Cond.dz)
      else if n then (nan, Cond.nv)
      else rsqFin m e
    | .sqrt =>
      if m = 0 then (Fmt.f32.sign n, 0#5)
      else if n then (nan, Cond.nv)
      else sqrtFin m e
    | .sin => sinFin a n m e
    | .cos => cosFin a m e
    | .tanh => tanhFin a n m e
    | .erf => erfFin a n m e

/-- R145: one lane of TBLEVAL, over the bank's 32-bit words (`word i` is the word at byte 4i). -/
def tblLane (word : Nat → Nat) (x : Nat) : Nat :=
  let f := Fmt.f32
  let u := (fpMul f .rne false (fpSub f .rne false x (word 0)).1 (word 1)).1
  let uv := f.decode u
  let y :=
    if (f.decode x).isNan || uv.isNan then f.nan
    else if uv.lt (.num false 0 0) then word 2
    else if !uv.lt (.num false 63 0) then word 3
    else
      match uv with
      | .num _ m e =>
        let i := (quant .rtz false 0 m e 0).1
        let t := (f.result .rne false (uv.add .rne (.num true i 0)).1).1
        let c := fun k => word (4 + 4 * i + k)
        let y3 := (fpFma f .rne false (c 3) t (c 2)).1
        let y2 := (fpFma f .rne false y3 t (c 1)).1
        (fpFma f .rne false y2 t (c 0)).1
      | _ => f.nan
  if (f.decode y).isNan then f.nan else y

/-- R146: ten rounds of Philox4x32. -/
def philox : Nat → Nat × Nat × Nat × Nat → Nat → Nat → Nat × Nat × Nat × Nat
  | 0, x, _, _ => x
  | r + 1, (x0, x1, x2, x3), k0, k1 =>
    let m0 := 0xD2511F53 * x0
    let m1 := 0xCD9E8D57 * x2
    let y := ((m1 / 2 ^ 32) ^^^ x1 ^^^ k0, m1 % 2 ^ 32, (m0 / 2 ^ 32) ^^^ x3 ^^^ k1, m0 % 2 ^ 32)
    philox r y ((k0 + 0x9E3779B9) % 2 ^ 32) ((k1 + 0xBB67AE85) % 2 ^ 32)

end Sys2Proof.Machine
end

