-- ==== Sys2Proof/Machine/Perform.lean ====
section
/-! DEFINITION. Perform.lean: how a wave's issued accesses are performed: loads, store queues, scratchpad passes and
atomics, and what orders them (07 R160 to R166; 08 R178 to R188, R201, R202; 18 R342; 19 R361 to R364). -/

namespace Sys2Proof.Machine

/-! ## What orders accesses -/

/-- The location `i` bytes on. -/
def Loc.plus (l : Loc) (i : Nat) : Loc :=
  match l with
  | .mem pa => .mem (pa + i)
  | .sp c off b => .sp c (off + i) b
  | .reg w u n lane byte => .reg w u n (lane + (byte + i) / 4) ((byte + i) % 4)
  | .grid g uid off => .grid g uid (off + i)

/-- Two ranges of bytes have a byte in common. -/
def Loc.meets (a : Loc) (n : Nat) (b : Loc) (m : Nat) : Bool :=
  let hit := fun (p q : Nat) => decide (p < q + m) && decide (q < p + n)
  match a, b with
  | .mem p, .mem q => hit p q
  | .sp c p x, .sp d q y => c == d && x == y && hit p q
  | .reg w u i l k, .reg w' u' i' l' k' => w == w' && u == u' && i == i' && hit (4 * l + k) (4 * l' + k')
  | .grid g x p, .grid h y q => g == h && x == y && hit p q
  | _, _ => false

/-- The bytes a pending access has still to touch. -/
def Work.reach : Work → List (Loc × Nat)
  | .load _ _ _ todo _ _ _ => todo.map fun p => (p.loc, p.len)
  | .near _ _ todo _ _ _ => todo.map fun p => (p.loc, p.len)
  | .far _ _ todo _ _ _ => todo.map fun p => (p.loc, p.len)
  | .tblset _ _ todo _ => todo.map fun p => (p.loc, p.len)
  | _ => []

/-- Work that is an access to memory, the gather and the scratchpad writes of a grid among them (R357, R361). -/
def Work.isAccess : Work → Bool
  | .load .. | .spLoad .. | .spStore .. | .spAtom .. | .near .. | .far .. | .store | .grid .. | .hmma _ => true
  | .tblset _ _ todo _ => !todo.isEmpty
  | _ => false

/-- A load of the wave's program order (R362). -/
def Work.isLoad : Work → Bool
  | .load .. => true
  | .tblset _ _ todo _ => !todo.isEmpty
  | _ => false

/-- An atomic. -/
def Work.isAtomic : Work → Bool
  | .near .. | .far .. => true
  | _ => false

/-- A scratchpad instruction (R161). -/
def Work.isSp : Work → Bool
  | .spLoad .. | .spStore .. | .spAtom .. => true
  | _ => false

/-- Work behind which every younger access waits: an acquire, or a fence but for the loads behind a releasing one
(R361, R368). -/
def Work.holds (k : Work) (load : Bool) : Bool :=
  match k with
  | .load _ _ (some _) .. | .spLoad _ _ (some _) .. => true
  | .fence kind _ => kind != 2 || !load
  | _ => false

/-- Every older pending instruction passes a test. -/
def Wave.older (x : Wave) (stamp : Nat) (f : Pend → Bool) : Bool := x.pend.all fun q => decide (stamp ≤ q.stamp) || f q

/-- A location in a core's own scratchpad. -/
def Loc.inSp (l : Loc) (core : Nat) : Bool := match l with | .sp c _ _ => c == core | _ => false

/-- Work on the core's own scratchpad: by a scratchpad form, through the window, or by the wave's grid (R161, R363). -/
def Work.onSp (k : Work) (core : Nat) : Bool :=
  match k with
  | .grid .. | .hmma _ => true
  | k => k.isSp || k.reach.any fun a => a.1.inSp core

/-- A queued store that touches a location. -/
def SqEntry.meets (e : SqEntry) (l : Loc) (n : Nat) : Bool := e.puts.any fun q => q.at'.loc.meets q.at'.len l n

/-- A queued store into the core's own scratchpad. -/
def SqEntry.onSp (e : SqEntry) (core : Nat) : Bool := e.puts.any fun q => q.at'.loc.inSp core

/-- An HMMA whose rows wait for the wave's stop or save to end: younger accesses do not wait for it (R237). -/
def Wave.cutShort (x : Wave) (k : Work) : Bool := x.run != .running && (match k with | .hmma _ => true | _ => false)

/-- The access of a pending instruction may be performed now, as far as the wave's older ones go: loads in order, the
core's own scratchpad in issue order, an atomic after every older access of its bytes, and nothing before an older acquire
or fence (R161, R361, R362, R363, R364). -/
def Wave.inTurn (x : Wave) (core : Nat) (p : Pend) : Bool :=
  (x.older p.stamp fun q =>
    !q.work.holds p.work.isLoad
      && !(p.work.isLoad && q.work.isLoad) && !(p.work.onSp core && q.work.onSp core && !x.cutShort q.work)
      && !((p.work.isAtomic || q.work.isAtomic)
        && p.work.reach.any fun a => q.work.reach.any fun b => a.1.meets a.2 b.1 b.2))
    && x.sq.all fun e => decide (p.stamp ≤ e.stamp) ||
      (!(p.work.onSp core && e.onSp core) && !(p.work.isAtomic && p.work.reach.any fun a => e.meets a.1 a.2))

/-- Every older access of the wave has been performed (a release waits for them, R361). -/
def Wave.settledBefore (x : Wave) (stamp : Nat) : Bool :=
  x.older stamp (fun q => !q.work.isAccess || x.cutShort q.work) && x.sq.all fun e => decide (stamp ≤ e.stamp)

/-- Every access that the wave has issued has been performed, and no fence of it is pending: an instruction that releases as it
issues may do so now (R361, R368; log entry 21). -/
def Wave.settled (x : Wave) : Bool :=
  x.sq.isEmpty && x.pend.all fun q => !q.work.holds false && (!q.work.isAccess || x.cutShort q.work)

/-- An instruction that is a release, or that reads memory, as it issues: it does not issue before the wave's older accesses have
been performed (log entry 21). -/
def Issue.settled (c : Issue) (k : Eff) : Eff := if c.x.settled then k else .wait

/-- A store of the wave's own queue holds a byte (R166): the youngest older entry, its highest lane. -/
def Wave.forward (x : Wave) (stamp : Nat) (l : Loc) : Option Byte :=
  (x.sq.filter fun e => decide (e.stamp < stamp)).reverse.findSome? fun e =>
    e.puts.reverse.findSome? fun p =>
      (List.range p.bytes.length).findSome? fun i =>
        if (p.at'.loc.plus i).meets 1 l 1 then p.bytes[i]? else none

/-- A part overlaps a queued entry in some of its bytes of an aligned 4-byte unit but not in all (R166). -/
def Wave.partlyQueued (x : Wave) (stamp : Nat) (p : Piece) : Bool :=
  x.sq.any fun e => decide (e.stamp < stamp) &&
    (List.range ((p.len + 3) / 4)).any fun u =>
      let bytes := (List.range (min 4 (p.len - 4 * u))).map fun i => p.loc.plus (4 * u + i)
      let held := bytes.filter fun l => e.puts.any fun q => q.at'.loc.meets q.at'.len l 1
      !held.isEmpty && decide (held.length < bytes.length)

/-! ## Loads -/

/-- Extension of a loaded value (R176). -/
def extLoad (ty n x : Nat) : Nat :=
  if ty = 1 then wrapInt 32 (signedOf 8 x) else if ty = 3 then wrapInt 32 (signedOf 16 x) else x % 256 ^ n

/-- The poisoned halves of a lane's loaded group. -/
def badHalves (bad : List Nat) (lane n : Nat) : Nat :=
  (List.range ((n + 1) / 2)).foldl (fun a h =>
    if bad.contains (32 * lane + 2 * h) || bad.contains (32 * lane + 2 * h + 1) then a + 2 ^ h else a) 0

/-- The register results of a load whose bytes are all read. -/
def loadWrites (con : Word) (ty n : Nat) (got : Map Byte) (bad : List Nat) (d : Dst) : List RegWrite :=
  (lanesOf con).flatMap fun l =>
    d.writes l (extLoad ty n (leVal ((List.range n).map fun i => cget got (32 * l + i) 0#8))) (badHalves bad l n)

/-- A byte read by an acquire at cluster scope or wider: the core's own dirty byte, else the byte below as it sees it (R342). -/
def State.acquireByte (s : State) (core : Nat) (l : Loc) : Byte :=
  match l with
  | .mem pa =>
    match (s.m.l1Line core (lineOf pa)).bind fun x => mget x.dirty (pa % 128) with
    | some b => b
    | none => s.m.view core pa
  | _ => s.locByte core l 0

/-- The bytes of a line that another core owns are written back; it keeps the line, and what it reserves (R191, R340). -/
def State.fetchBack (s : State) (core line : Nat) : State :=
  match mget s.m.own line with
  | some d => if d = core then s else s.writeBack d line
  | none => s

/-- What a read of a part needs of the caches first: a fill, or for an acquire the owner's bytes. -/
def State.prepareRead (s : State) (core : Nat) (wide : Bool) (l : Loc) : State :=
  match l with
  | .mem pa => if wide then s.fetchBack core (lineOf pa) else s.fill core (lineOf pa)
  | _ => s

/-- One part of a load: the bytes, and which of them are poisoned; a byte of the wave's own queue is not (R178). -/
def State.readPiece (s : State) (core : Nat) (x : Wave) (stamp : Nat) (wide : Bool) (p : Piece) :
    State × Map Byte × List Nat :=
  let s1 := s.prepareRead core wide p.loc
  let byte := fun i =>
    let l := p.loc.plus i
    match x.forward stamp l with
    | some b => b
    | none => if wide then s1.acquireByte core l else s1.locByte core l 0
  (s1, (List.range p.len).map (fun i => (32 * p.lane + p.off + i, byte i)),
    (List.range p.len).filterMap fun i =>
      if (x.forward stamp (p.loc.plus i)).isNone && s1.locBad core (p.loc.plus i) 1 then some (32 * p.lane + p.off + i) else none)

/-- Parts chosen to be performed now: those the free choice selects, or all when it selects none (log entry 1). -/
def chosen {α : Type} (free : Nat) (l : List α) : List α :=
  let m := (l.zipIdx).filter fun p => Config.part free p.2
  if m.isEmpty then l else m.map Prod.fst

/-- The rest of a list after a choice. -/
def unchosen {α : Type} (free : Nat) (l : List α) : List α :=
  if ((l.zipIdx).filter fun p => Config.part free p.2).isEmpty then []
  else ((l.zipIdx).filter fun p => !Config.part free p.2).map Prod.fst

/-- The parts of a load that are read next: those of the lanes before a chosen one, and some of that one's; the rest follow. The lanes
are read in ascending order, the parts of one lane in any (R17, R178). -/
def laneSplit (free : Nat) (ps : List Piece) : List Piece × List Piece :=
  let ls := (ps.map Piece.lane).eraseDups
  let k := ls.length - 1 - Config.choice free % ls.length
  let some' := chosen free (ps.filter fun p => p.lane == ls.getD k 0)
  ps.partition fun p => (ls.take k).contains p.lane || some'.contains p

/-- The releases that reads of parts return where they lie in scratchpads (R366). -/
def State.partRels (s : State) (ps : List Piece) : List Rel := ps.foldl (fun a p => joinRels a (s.locRels p.loc p.len)) []

/-- What a wave's reads of scratchpads have returned is kept for its next acquiring fence (R368). -/
def State.noteHeard (s : State) (w : Nat) (rs : List Rel) : State :=
  let new := rs.filter fun r => r.deps.any fun d => s.m.late.any fun e => e.id == d
  if new.isEmpty then s else s.modWave w fun x => { x with heard := joinRels x.heard new }

/-- Reads of a list of parts. -/
def State.readPieces (s : State) (core : Nat) (x : Wave) (stamp : Nat) (wide : Bool) (ps : List Piece)
    (got : Map Byte) (bad : List Nat) : State × Map Byte × List Nat :=
  ps.foldl (fun a p =>
    match a.1.readPiece core x stamp wide p with
    | (s, g, b) => (s, g.foldl (fun m q => cput m q.1 0#8 q.2) a.2.1, a.2.2 ++ b)) (s, got, bad)

/-- An access of a pending instruction has been performed: data watchpoints (R272). -/
def State.watchPend (s : State) (w : Nat) (p : Pend) (now : List Piece) (isW isR : Bool) : State :=
  match s.wave w with
  | some x => s.watch (some (w, p)) (s.ctxNo x) now isW isR
  | none => s

/-- The lines of global memory that parts name. -/
def memLines (ps : List Piece) : List Nat :=
  ps.foldl (fun a p => match p.loc with | .mem pa => ladd a (lineOf pa) | _ => a) []

/-- The addresses of global memory that parts name. -/
def memAddrs (ps : List Piece) : List Nat :=
  ps.flatMap fun p => match p.loc with | .mem pa => (List.range p.len).map (pa + ·) | _ => []

/-- Whether an acquire has no drain left to wait for (R342). -/
def State.drained (s : State) (core : Nat) (ps : List Piece) : Bool :=
  (memLines ps).all fun l => (s.m.recorded (dieOf core) l core).isEmpty

/-- A global or window load, or an acquire load, reads parts of its data; when none is left its result is known, and comes back in a
time of its own (R178). An acquire returns a release that has been complete for 4 µs (R371). -/
def State.performLoad (s : State) (w : Nat) (x : Wave) (p : Pend) (ty n : Nat) (scope : Option Nat) (now later : List Piece)
    (got : Map Byte) (bad : List Nat) (d : Dst) : State :=
  let core := coreOf w
  let wide := decide (scope.getD 0 ≥ 2)
  let sc := scope.getD 0
  let s0 := if wide then s.mapMem fun m => m.see core fun e => e.overdue core sc p.at' (memAddrs now) else s
  match s0.readPieces core x p.stamp wide now got bad with
  | (s1, got, bad) =>
    let rels := s1.partRels now
    let s1 := if wide then s1.mapMem fun m => (m.sync core sc (m.readFrom core (memAddrs now))).hear core sc rels else s1
    let s2 := if wide && later.isEmpty then s1.acquire core else s1
    let s3 := s2.modWave w fun x =>
      if later.isEmpty then x.bind p.stamp (s.clock + Config.returnDelay s.free p.stamp) (loadWrites p.con ty n got bad d)
      else x.setWork p.stamp (.load ty n scope later got bad d)
    (s3.noteHeard w rels).watchPend w p now false true

/-- TBLSET reads parts of its table (R143). -/
def State.performTblset (s : State) (w : Nat) (x : Wave) (p : Pend) (pair bank : Nat) (now later : List Piece)
    (got : Map Byte) : State :=
  match s.readPieces (coreOf w) x p.stamp false now got [] with
  | (s1, got, _) => (s1.modWave w fun x => x.setWork p.stamp (.tblset pair bank later got)).watchPend w p now false true

/-- An older pending instruction of a core whose work a test selects. -/
def State.tblOlder (s : State) (core n : Nat) (f : Work → Bool) : Bool :=
  s.waves.any fun q => coreOf q.1 == core && q.2.pend.any fun r => decide (r.stamp < n) && f r.work

/-- Work on a table pair: its TBLSETs, and its TBLEVALs of the banks a test selects (R143, R144). -/
def Work.onTable (k : Nat) (evals : Nat → Bool) : Work → Bool
  | .tblset k' .. => k' == k
  | .tbleval k' b .. => k' == k && evals b
  | _ => false

/-- A TBLSET that has read its table writes its bank, when no older TBLSET of the pair and no older TBLEVAL of the bank is pending
(R143). -/
def State.bankWrite (s : State) (w n k bank : Nat) (got : Map Byte) : State :=
  match mget s.co.tbls k with
  | some t =>
    if s.tblOlder (coreOf w) n (Work.onTable k fun b => b == bank) then s
    else
      let t' := if bank = 0 then { t with bank0 := got } else { t with bank1 := got }
      ({ s with co := { s.co with tbls := mput s.co.tbls k t' } } : State).modWave w fun x => x.complete n
  | none => s.modWave w fun x => x.complete n

/-- A TBLEVAL is looked up, when no older TBLSET of its bank is pending (R144, R145). -/
def State.tableLookup (s : State) (w n k bank : Nat) (xs : List (Nat × Word)) (d : Dst) : State :=
  match mget s.co.tbls k with
  | some t =>
    if s.tblOlder (coreOf w) n fun o => match o with | .tblset k' b .. => k' == k && b == bank | _ => false then s
    else
      let m := if bank = 0 then t.bank0 else t.bank1
      let word := fun i => leVal ((List.range 4).map fun j => cget m (4 * i + j) 0#8)
      s.modWave w fun x => x.bind n s.clock (xs.flatMap fun a => d.writes a.1 (tblLane word a.2.toNat) 0)
  | none => s

/-! ## Store queues (R165, R179, R181) -/

/-- The releases that a write of a wave carries: those of its fences, and its own at a scope, of what its core has seen (R361, R366). -/
def State.relsOf (s : State) (core : Nat) (fs : List Rel) (scope : Option Nat) (lazy : Bool) : List Rel :=
  match scope with
  | some sc => if sc < 2 then fs else s.m.release core sc lazy :: fs
  | none => fs

/-- A part of a store that leaves the queue, with the releases of the wave's fences; a release at cluster scope or wider is performed at
the L2 or beyond, and carries what its core has seen. At cluster and die scope the lines that it tagged have still to join it
(R342). -/
def State.performPut (s : State) (core : Nat) (fs : List Rel) (stamp : Nat) (scope : Option Nat) (q : Put) : State :=
  match scope, q.at'.loc with
  | some sc, .mem pa =>
    if sc < 2 then s.storeLine core pa q.bytes fs
    else
      (s.storeThrough core (atAddrs pa q.bytes) (s.relsOf core fs (some sc) (decide (sc ≤ 3))) (some stamp)).pushDown sc
        fun a => lineOf a == lineOf pa
  | _, l => s.locWrite core l q.bytes (s.relsOf core fs scope false)

/-- What a release does at its scope before its store is performed (R342). -/
def State.releaseBefore (s : State) (core sc : Nat) (ps : List Piece) : State :=
  if sc < 2 then s
  else
    let lines := memLines ps
    if sc ≤ 3 && !lines.isEmpty then lines.foldl (fun s l => s.record core l) s
    else s.releaseEager core sc

/-- The head of a wave's store queue leaves it: all its lanes' writes are performed in order (R17, R165). -/
def State.leaveQueue (s : State) (w : Nat) : State :=
  match s.wave w with
  | none => s
  | some x =>
    match x.sq with
    | [] => s
    | e :: rest =>
      let s1 := s.modWave w fun x => { x with sq := rest }
      let s2 := match e.scope with
        | some sc => s1.releaseBefore (coreOf w) sc (e.puts.map Put.at')
        | none => s1
      let s3 := e.puts.foldl (fun s q => s.performPut (coreOf w) (x.fences (coreOf w)) e.stamp e.scope q) s2
      let s4 := s3.modWave w fun x =>
        match e.scope with
        | some sc => x.setWork e.stamp (.release sc)
        | none => x.complete e.stamp
      match x.pending e.stamp with
      | some p => s4.watchPend w p (e.puts.map Put.at') true false
      | none => s4

/-- The conditions on the head of a queue (R361, R362): every older load satisfied, no older acquire or fence or
overlapping atomic pending, and for a release every older access performed. -/
def Wave.mayLeave (x : Wave) (core : Nat) : Bool :=
  match x.sq with
  | [] => false
  | e :: _ =>
    x.older e.stamp (fun q =>
      !q.work.isLoad && !q.work.holds false && !(q.work.onSp core && e.onSp core && !x.cutShort q.work)
        && !(q.work.isAtomic && q.work.reach.any fun b => e.meets b.1 b.2))
      && (e.scope.isNone || x.older e.stamp fun q => !q.work.isAccess || x.cutShort q.work)

/-! ## Scratchpad passes (R158 to R161) and the copy ring's NOTIFY (R202) -/

/-- The bank of a region offset (R159). -/
def bankOf (swz : Bool) (off : Nat) : Nat :=
  let b := off / 4 % 128
  if swz then b ^^^ (off / 512 % 128) else b

/-- The region offset of a scratchpad part. -/
def Piece.spOff (p : Piece) : Nat := match p.loc with | .sp _ o _ => o | _ => p.va

/-- Its offset and its length. -/
def Piece.spPart (p : Piece) : Nat × Nat := (p.spOff, p.len)

/-- The words that one pass has to serve together with a word: those of the single-copy atomic part that names it, else the word alone
(R16, R160). Parts are given by offset and length. -/
def passUnit (ps : List (Nat × Nat)) (word : Nat) : Nat × Nat :=
  match ps.find? fun p => decide (p.2 > 4) && decide (p.1 / 4 ≤ word) && decide (word < p.1 / 4 + p.2 / 4) with
  | some p => (p.1 / 4, p.2 / 4)
  | none => (word, 1)

/-- The banks of a unit. -/
def unitBanks (swz : Bool) (u : Nat × Nat) : List Nat := (List.range u.2).map fun i => bankOf swz (4 * (u.1 + i))

/-- Units placed in passes, in lane order: each in the first pass in which its banks are free (R160). -/
def placeUnit (swz : Bool) (a : List ((Nat × Nat) × Nat)) (u : Nat × Nat) : List ((Nat × Nat) × Nat) :=
  if a.any fun q => q.1 == u then a
  else
    let free := fun (i : Nat) => a.all fun q => q.2 != i || !((unitBanks swz q.1).any (unitBanks swz u).contains)
    a ++ [(u, ((List.range (a.length + 1)).find? free).getD a.length)]

/-- The pass of every part, given by offset and length in lane order (R160). -/
def passRanks (swz : Bool) (ps : List (Nat × Nat)) : List Nat :=
  let units := ps.map fun p => passUnit ps (p.1 / 4)
  let placed := units.foldl (placeUnit swz) []
  units.map fun u => ((placed.find? fun q => q.1 == u).map Prod.snd).getD 0

/-- Items grouped into passes by the offset and length each has. -/
def passesOf {α : Type} (swz : Bool) (part : α → Nat × Nat) (xs : List α) : List (List α) :=
  let rs := (passRanks swz (xs.map part)).zip xs
  let n := rs.foldl (fun m p => max m (p.1 + 1)) 0
  (List.range n).map fun i => (rs.filter fun p => p.1 == i).map Prod.snd

def ringKey (blk core : Nat) : Nat := blk * 128 + core

def State.ring (s : State) (blk core : Nat) : Ring :=
  mgetD s.co.rings (ringKey blk core) { notify := 0, taken := 0, done := 0, failed := 0, credits := [], busy := [] }

def State.putRing (s : State) (blk core : Nat) (r : Ring) : State :=
  { s with co := { s.co with rings := mput s.co.rings (ringKey blk core) r } }

/-- A byte of a block's region on a core. -/
def State.spByte (s : State) (core blk off : Nat) : Byte := s.locByte core (.sp core off blk) 0

/-- `n` bytes of a block's region as a number. -/
def State.spNum (s : State) (core blk off n : Nat) : Nat := leVal ((List.range n).map fun i => s.spByte core blk (off + i))

/-- The DISCARDABLE indicator is cleared (R268). -/
def State.notDiscardable (s : State) (blk : Nat) : State :=
  { s with wk := { s.wk with blocks := mmod s.wk.blocks blk fun b => { b with discardable := false } } }

/-- NOTIFY has been written by STL.n32.core or wider: the entries up to the new count are credited to the wave
(R202). -/
def State.publish (s : State) (core blk w : Nat) (v : Nat) : State :=
  match s.block blk, s.wave w with
  | some b, some x =>
    let r := s.ring blk core
    let k := (v + 2 ^ 32 - r.notify % 2 ^ 32) % 2 ^ 32
    if k = 0 then s
    else
      let n := 2 ^ b.rlog
      let coll := (List.range (min k n)).any fun i =>
        let opc := (s.spByte core blk (b.rbase * 32 + 32 + 32 * ((r.notify + i) % n))).toNat
        decide (0x10 ≤ opc) && decide (opc ≤ 0x14)
      let s1 := s.putRing blk core { r with notify := r.notify + k, credits := r.credits ++ [(r.notify + k, x.uid)] }
      let s2 := s1.modWave w fun x => { x with credit := x.credit ++ [(r.notify, r.notify + k, k)] }
      if coll then s2.notDiscardable blk else s2
  | _, _ => s

/-- The releases of a wave's fences. -/
def State.fencesOf (s : State) (w : Nat) : List Rel := ((s.wave w).map fun x => x.fences (coreOf w)).getD []

/-- One part of a scratchpad store. The block's ring sees a store to NOTIFY by STL.n32.core or wider. A store to a header word that a
program may only read changes its bytes, which the engine's next write replaces: the spec does not say (R201; log entry 32). -/
def State.spPutPiece (s : State) (w : Nat) (scope : Option Nat) (q : Put) : State :=
  let s1 := s.locWrite (coreOf w) q.at'.loc q.bytes (s.relsOf (coreOf w) (s.fencesOf w) scope false)
  match q.at'.loc, scope with
  | .sp core off blk, some sc =>
    match s.block blk with
    | some b =>
      if sc ≥ 1 ∧ q.at'.len = 4 ∧ off = b.rbase * 32 then s1.publish core blk w (leVal q.bytes) else s1
    | none => s1
  | _, _ => s1

/-- One pass of a scratchpad load; an acquire orders what the releases of the values it returns order (R181, R366). -/
def State.passLoad (s : State) (w : Nat) (p : Pend) (ty n : Nat) (scope : Option Nat) (now : List Piece)
    (later : List (List Piece)) (got : Map Byte) (bad : List Nat) (d : Dst) : State :=
  let core := coreOf w
  let got := now.foldl (fun g q => (List.range q.len).foldl (fun g i =>
    cput g (32 * q.lane + q.off + i) 0#8 (s.locByte core q.loc i)) g) got
  let bad := bad ++ now.flatMap fun q => (List.range q.len).filterMap fun i =>
    if s.locBad core (q.loc.plus i) 1 then some (32 * q.lane + q.off + i) else none
  let rels := s.partRels now
  let s1 := match scope with
    | some sc =>
      if sc < 2 then s
      else
        let s1 := s.mapMem fun m => m.hear core sc rels
        if later.isEmpty then s1.acquire core else s1
    | none => s
  let s2 := s1.modWave w fun x =>
    if later.isEmpty then x.bind p.stamp (s.clock + Config.returnDelay s.free p.stamp) (loadWrites p.con ty n got bad d)
    else x.setWork p.stamp (.spLoad ty n scope later got bad d)
  (s2.noteHeard w rels).watchPend w p now false true

/-- One pass of a scratchpad store; a releasing one releases at its scope first (R181). -/
def State.passStore (s : State) (w : Nat) (p : Pend) (scope : Option Nat) (now : List Put) (later : List (List Put)) : State :=
  let s0 := match scope with | some sc => s.releaseEager (coreOf w) sc | none => s
  let s1 := now.foldl (fun s q => s.spPutPiece w scope q) s0
  (s1.modWave w fun x =>
    if later.isEmpty then x.complete p.stamp else x.setWork p.stamp (.spStore scope later)).watchPend w p
      (now.map Put.at') true false

/-! ## Atomics (R185 to R188) -/

/-- The two 16-bit halves added in a format (R185, codes 13 and 14). -/
def addHalves (f : Fmt) (a b : Nat) : Nat :=
  (fpAdd f .rne false (a % 65536) (b % 65536)).1 + 65536 * (fpAdd f .rne false (a / 65536) (b / 65536)).1

/-- One word operation of R185 on `m` bytes: the new value. -/
def wordOp (code m old b bHigh : Nat) : Nat :=
  let w := 8 * m
  match code with
  | 0 => (old + b) % 2 ^ w
  | 1 => if signedOf w b < signedOf w old then b else old
  | 2 => if signedOf w old < signedOf w b then b else old
  | 3 => min old b
  | 4 => max old b
  | 5 => old &&& b
  | 6 => old ||| b
  | 7 => old ^^^ b
  | 8 => b
  | 9 => if old = b then bHigh else old
  | 10 => if old ≥ b then 0 else old + 1
  | 11 => if old = 0 ∨ old > b then b else old - 1
  | 12 => (fpAdd .f32 .rne false old b).1
  | 13 => addHalves .bf16 old b
  | _ => addHalves .f16 old b

/-- How a word operation reads and writes its location: in the issuing core's L1, at the home slice, or at a scratchpad. -/
inductive At where
  | l1 (core : Nat)
  | slice (core : Nat)

/-- The free counter moves on: the next free choice is another one. -/
def State.bump (s : State) : State := { s with free := s.free + 1 }

/-- An uncorrectable error in ERRSTAT of a core, and its report to the management core of the core's die (R270). -/
def State.logUce (s : State) (core arr off : Nat) : State :=
  let e := mgetD s.co.errstat core 0
  let uce := min (bitsOf e 31 16 + 1) 0xFFFF
  { s with
    co := { s.co with errstat := mput s.co.errstat core (arr % 4 * 2 ^ 62 + off % 2 ^ 30 * 2 ^ 32 + uce * 2 ^ 16 + e % 2 ^ 16) }
    pk := { s.pk with reports := s.pk.reports ++ [(core, arr, off)] } }

/-- The error that an atomic meets at a poisoned location is logged (R188, R270): at a scratchpad by its core, else by the issuing core
as one of its L1, whose place in the array is free (log entry 34). -/
def State.logAtomic (s : State) (core : Nat) (l : Loc) : State :=
  match l with
  | .sp c off blk => s.logUce c 1 ((s.spKey c off blk).getD 0 % 2 ^ 18)
  | _ => (s.logUce core 2 (Config.choice s.free)).bump

/-- A word operation performed: a poisoned location stays as it is, its old value is marked, and the error is logged (R188). -/
def State.doWordOp (s : State) (w : Nat) (place : At) (code : Nat) (o : WordOp) (got : Map Byte) (bad : List Nat) :
    State × Map Byte × List Nat :=
  let core := coreOf w
  let bytes := match place, o.loc with
    | .slice _, .mem pa => readBytes s.m.lower pa o.len
    | _, l => s.locBytes core l o.len
  let keys := (List.range o.len).map fun i => 32 * o.lane + 4 * o.half + i
  let got := (keys.zip bytes).foldl (fun g p => cput g p.1 0#8 p.2) got
  if (match place, o.loc with | .slice _, .mem pa => s.m.poisoned pa o.len | _, l => s.locBad core l o.len) then
    (s.logAtomic core o.loc, got, bad ++ keys)
  else
    let new := leBytesOf o.len (wordOp code o.len (leVal bytes) o.b o.bHigh)
    let fs := s.fencesOf w
    let s1 := match place, o.loc with
      | .slice c, .mem pa =>
        ((s.toL2 c (atAddrs pa new) (joinRels (s.m.relsAt ((atAddrs pa new).map Prod.fst)) fs)).wrote (lineOf pa)).cleanse (atAddrs pa new)
      | _, l => s.locWrite core l new (joinRels (s.locRels l o.len) fs)
    (s1, got, bad)

/-- Operations in lane order. Those at one location are one write to every reader below the L1s (R186). -/
def State.doWordOps (s : State) (w : Nat) (place : At) (code : Nat) (os : List WordOp) (got : Map Byte) (bad : List Nat) :
    State × Map Byte × List Nat :=
  match os.foldl (fun a o => a.1.doWordOp w place code o a.2.1 a.2.2) (s, got, bad) with
  | (s1, got, bad) => (s1.mapMem fun m => m.merged s.m.writes, got, bad)

/-- The parts of word operations, for watchpoints. -/
def opPieces (os : List WordOp) : List Piece :=
  os.map fun o => { lane := o.lane, off := 4 * o.half, len := o.len, va := o.va, loc := o.loc }

/-- The results of an atomic: each lane's old value. -/
def atomWrites (con : Word) (n : Nat) (got : Map Byte) (bad : List Nat) (d : Dst) : List RegWrite :=
  loadWrites con 4 n got bad d

/-- ATOM in the L1 or through the window: every line is owned first (R187). -/
def State.performNear (s : State) (w : Nat) (p : Pend) (code n : Nat) (now later : List WordOp) (got : Map Byte)
    (bad : List Nat) (d : Dst) : State :=
  let core := coreOf w
  let s1 := (memLines (opPieces now)).foldl (fun s l => s.exclusive core l) s
  match s1.doWordOps w (.l1 core) code now got bad with
  | (s2, got, bad) =>
    ((s2.modWave w fun x =>
      if later.isEmpty then x.bind p.stamp s.clock (atomWrites p.con n got bad d)
      else x.setWork p.stamp (.near code n later got bad d)).noteHeard w (s1.partRels (opPieces now))).watchPend w p (opPieces now) true true

/-- The home slice of a line has what a read-modify-write there needs: no L1 owns the line, the issuing core's own bytes are written
back, and it has seen every write to the line (R340, R364 e). -/
def State.atSlice (s : State) (core line : Nat) : State := ((s.recall line).expel core line).mapMem fun m => m.seeLine core line

/-- The operations of ATOMF or RED on one line at its home slice, merged in lane order (R186, R340). What they read and write stands
after every write that has reached the slice (R364 e). -/
def State.performFar (s : State) (w : Nat) (p : Pend) (code n : Nat) (now later : List WordOp) (got : Map Byte)
    (bad : List Nat) (d : Option Dst) : State :=
  let core := coreOf w
  let s1 := (memLines (opPieces now)).foldl (fun s l => s.atSlice core l) s
  match s1.doWordOps w (.slice core) code now got bad with
  | (s2, got, bad) =>
    (s2.modWave w fun x =>
      if later.isEmpty then
        match d with
        | some d => x.bind p.stamp s.clock (atomWrites p.con n got bad d)
        | none => x.complete p.stamp
      else x.setWork p.stamp (.far code n later got bad d)).watchPend w p (opPieces now) true true

/-- One pass of a scratchpad ATOM. -/
def State.passAtom (s : State) (w : Nat) (p : Pend) (code n : Nat) (now : List WordOp) (later : List (List WordOp))
    (got : Map Byte) (bad : List Nat) (d : Dst) : State :=
  match s.doWordOps w (.l1 (coreOf w)) code now got bad with
  | (s1, got, bad) =>
    ((s1.modWave w fun x =>
      if later.isEmpty then x.bind p.stamp s.clock (atomWrites p.con n got bad d)
      else x.setWork p.stamp (.spAtom code n later got bad d)).noteHeard w (s.partRels (opPieces now))).watchPend w p (opPieces now) true true

/-! ## One pending access, and all of them -/

/-- Operations with those that have to go with them: all at the same location (R186), and the low word of a lane before its high word
(R185). -/
def closeOps (os : List WordOp) : Nat → List WordOp → List WordOp
  | 0, now => now
  | n + 1, now => closeOps os n (os.filter fun o => now.any fun p => p.loc == o.loc || (p.lane == o.lane && decide (o.half ≤ p.half)))

/-- Operations chosen to be performed now, in lane order, and the rest. -/
def splitOps (free : Nat) (os : List WordOp) : List WordOp × List WordOp :=
  let now := closeOps os os.length (chosen free os)
  os.partition now.contains

/-- A fence of a kind does what it orders at its scope, for an agent whose reads of scratchpads returned some releases (R182, R342,
R368). -/
def State.fence (s : State) (core kind scope : Nat) (heard : List Rel) : State :=
  let s1 := if kind = 1 then s else s.releaseEager core scope
  let s2 := if kind = 0 then s1.fenceTotal core scope else s1
  if kind = 2 then s2 else s2.fenceAcq core scope heard

/-- A releasing fence makes every later write of its wave a release of what happened before it (R368). -/
def Wave.afterFence (x : Wave) (kind scope : Nat) (ids : List Nat) : Wave :=
  if kind = 1 ∨ scope < 2 then x else { x with fenced := mput x.fenced scope ids }

/-- A wave's fence is done. -/
def State.waveFence (s : State) (w : Nat) (x : Wave) (stamp kind scope : Nat) : State :=
  let s1 := s.fence (coreOf w) kind scope x.heard
  s1.modWave w fun x => (x.afterFence kind scope (s1.m.seenBy (coreOf w))).complete stamp

/-- A pending access or fence with everything left performed now, whatever its turn: what a retirement asks for. -/
def State.finish (s : State) (w stamp : Nat) : State :=
  match s.wave w with
  | none => s
  | some x =>
    match x.pending stamp with
    | none => s
    | some p =>
      match p.work with
      | .load ty n sc todo got bad d =>
        let s1 := if sc.getD 0 ≥ 2 then (memLines todo).foldl (fun s l => s.drainEntry (dieOf (coreOf w)) l (coreOf w)) s else s
        s1.performLoad w x p ty n sc todo [] got bad d
      | .tblset pair bank todo got =>
        let s1 := s.performTblset w x p pair bank todo [] got
        match ((s1.wave w).bind fun x => x.pending stamp).map Pend.work with
        | some (.tblset _ _ [] got) => s1.bankWrite w stamp pair bank got
        | _ => s1
      | .tbleval pair bank xs d => s.tableLookup w stamp pair bank xs d
      | .near code n todo got bad d => s.performNear w p code n todo [] got bad d
      | .far code n todo got bad d => s.performFar w p code n todo [] got bad d
      | .spLoad ty n sc ps got bad d => s.passLoad w p ty n sc ps.flatten [] got bad d
      | .spStore sc ps => s.passStore w p sc ps.flatten []
      | .spAtom code n ps got bad d => s.passAtom w p code n ps.flatten [] got bad d
      | .store => s.leaveQueue w
      | .fence kind scope => s.waveFence w x stamp kind scope
      | _ => s

/-- Pending instructions that a test selects, as wave and stamp, in the order in which they issued. -/
def State.inIssueOrder (s : State) (f : Nat → Wave → Pend → Bool) : List (Nat × Nat) :=
  (s.waves.flatMap fun a => (a.2.pend.filter (f a.1 a.2)).map fun p => (a.1, p.stamp)).foldl (fun l a =>
    let before := l.takeWhile fun b => decide (b.2 < a.2)
    before ++ a :: l.drop before.length) []

/-- Every access among some instructions is performed, in issue order (log entry 40). -/
def State.settle (s : State) (f : Nat → Wave → Pend → Bool) : State := (s.inIssueOrder f).foldl (fun s a => s.finish a.1 a.2) s

/-- The stamp of a wave's latest TBLSET. -/
def Wave.lastTblset (x : Wave) : Option Nat :=
  (x.pend.reverse.find? fun p => match p.work with | .tblset .. => true | _ => false).map Pend.stamp

/-- Every access of a wave is performed, and before a TBLSET of it those of its block on its core that it follows (R143; log entry 40). -/
def State.settleWave (s : State) (w : Nat) : State :=
  match s.wave w with
  | none => s
  | some x => s.settle fun v y p =>
      v == w || (coreOf v == coreOf w && y.blk == x.blk && match x.lastTblset with | some n => decide (p.stamp < n) | none => false)

end Sys2Proof.Machine
end

