-- ==== Sys2Proof/Machine/Barrier.lean ====
section
/-! DEFINITION. Barrier.lean: parking and releasing lanes, barrier phases, and what an exiting lane does to them
(03 R81, R82, R95, R96; 08 R193 to R197; 13 R282; 15 R321). -/

namespace Sys2Proof.Machine

/-! ## Parking (R81, R82) -/

/-- The lanes of a mask become parked. -/
def Wave.parkLanes (x : Wave) (m : Word) : Wave :=
  x.mapLanes fun l y => if m.getLsbD l && y.st == .live then { y with st := .parked } else y

/-- Lanes parked on a condition by the instruction of an issue stamp. -/
def Wave.park (x : Wave) (m : Word) (stamp : Nat) (k : ParkKind) : Wave :=
  if m = 0#32 then x else { x.parkLanes m with parks := x.parks ++ [{ mask := m, stamp := stamp, kind := k }] }

/-- The parked groups that a test selects are released: their lanes become live, with no neglect, and an instruction
none of whose lanes is left parked completes, with the result the release gives (R82, R89). -/
def Wave.unpark (x : Wave) (clock : Nat) (sel : Park → Bool) (val : Option Nat) : Wave :=
  let out := x.parks.filter sel
  if out.isEmpty then x
  else
    let m := out.foldl (fun (a : Word) p => a ||| p.mask) 0#32
    let x1 : Wave := { (x.mapLanes fun l y => if m.getLsbD l && y.st == .parked then { y with st := .live, neglect := 0 } else y) with
      parks := x.parks.filter fun p => !sel p }
    out.foldl (fun (x : Wave) (p : Park) =>
      if x.parks.any fun q => q.stamp == p.stamp then x
      else
        match (x.pending p.stamp).map Pend.work, val with
        | some (.park (some d)), some v => x.bind p.stamp clock (d.writes 0 v 0)
        | _, _ => x.complete p.stamp) x1

/-- Parked groups of every wave released. -/
def State.unparkAll (s : State) (sel : Nat → Park → Bool) (val : Option Nat) : State :=
  s.mapWaves fun w x => if x.parks.isEmpty then x else x.unpark s.clock (sel w) val

/-! ## Barriers (R193 to R197) -/

/-- The barrier an identifier names for a block on a core: a core barrier of the block's, or a cluster barrier of its
allocation; none beyond (R193). -/
def State.barKey (s : State) (core blk id : Nat) : Option Nat :=
  match s.block blk with
  | none => none
  | some b =>
    if id < 0x400 then if id < b.bars then some (2 * ((blk * 128 + core) * 1024 + id)) else none
    else if id < 0x440 ∧ id - 0x400 < b.cn then some (2 * (64 * clusterOf core + b.cb + (id - 0x400)) + 1)
    else none

/-- The scope of a barrier's completion: core or cluster (R197). -/
def barScope (key : Nat) : Nat := if key % 2 = 0 then 1 else 2

/-- A barrier as it stands; one that nothing has touched since placement has T = the block's thread count (R193). -/
def State.bar (s : State) (key threads : Nat) : Bar :=
  mgetD s.co.bars key { target := threads, phase := 0, arr := 0, dep := 0, full := false, startClk := 0 }

/-- What happens before the completion of a barrier's phases, for a core that has waited for some of them (R369). -/
def Bar.before (b : Bar) (phases : List Nat) : List Nat := phases.flatMap fun ph => (mget b.past ph).getD []

def State.putBar (s : State) (key : Nat) (b : Bar) : State := { s with co := { s.co with bars := mput s.co.bars key b } }

/-- The phase completes and the next starts from the departed count (R96, R196). -/
def Bar.next (b : Bar) (clock : Nat) : Bar :=
  { b with phase := b.phase + 1, arr := b.dep, full := decide (b.dep ≥ b.target), startClk := clock
           past := if b.deps.isEmpty then b.past else mput b.past b.phase b.deps, deps := [] }

/-- One arrival; a phase that started below its target completes when the count reaches it. -/
def Bar.arrive (b : Bar) (clock : Nat) : Bar :=
  if b.arr < b.target ∧ b.target ≤ b.arr + 1 then ({ b with arr := b.arr + 1 } : Bar).next clock else { b with arr := b.arr + 1 }

/-- Key of a lane's recorded arrival at a barrier. -/
def arrKey (key lane : Nat) : Nat := key * 32 + lane

/-- One lane arrives, unless it has arrived in the current phase; a departing lane counts as departed first, so that the
next phase starts with it (R96, R196). `seen` are the writes before it, which the phase's completion orders (R369). -/
def arriveLane (key clock : Nat) (depart : Bool) (seen : List Nat) (a : Bar × Map Nat) (lane : Nat) : Bar × Map Nat :=
  let b : Bar := { a.1 with dep := if depart then a.1.dep + 1 else a.1.dep, deps := seen.foldl ladd a.1.deps }
  if mget a.2 (arrKey key lane) = some b.phase then (b, a.2)
  else (b.arrive clock, mput a.2 (arrKey key lane) b.phase)

/-- Whether the cluster's stop holds the releases of a wave's barriers (R197, R275). -/
def State.barHeld (s : State) (w : Nat) (x : Wave) : Bool :=
  let d := s.dbg (clusterOfWave w)
  (d.state == 2 || d.stepRun) && s.ctxNo x == d.dctx

/-- A group parked on a phase of a barrier that has completed, whose lanes no earlier release has told when to wake. -/
def Park.passed (p : Park) (key phase : Nat) : Bool :=
  match p.kind with
  | .bar k ph => k == key && decide (ph < phase) && p.wake.isNone
  | _ => false

/-- The phases of a barrier, completed by `phase`, that lanes of a wave wait for. -/
def Wave.waitsOf (x : Wave) (key phase : Nat) : List Nat :=
  (x.parks.filter fun p => p.passed key phase).filterMap fun p => match p.kind with | .bar _ ph => some ph | _ => none

/-- The phases of a barrier before `phase` have completed: the lanes parked on them become live, as many clocks on as their core
has to wait, but for those a debug stop holds; each core with such a lane acquires at the barrier's scope what the arrivals and
departures of the phase released (R196, R197, R282, R369). -/
def State.releaseBar (s : State) (key phase : Nat) (delay : Nat → Nat) : State :=
  let waits := s.waves.flatMap fun p => (p.2.waitsOf key phase).map fun ph => (coreOf p.1, ph)
  let cores := waits.foldl (fun a p => ladd a p.1) ([] : List Nat)
  let before := fun c => ((mget s.co.bars key).map fun b => b.before ((waits.filter fun p => p.1 == c).map Prod.snd)).getD []
  let s1 := cores.foldl (fun s c => s.acquireAt c (barScope key) (before c)) s
  s1.mapWaves fun w x =>
    let n := delay (coreOf w)
    if x.parks.isEmpty || s.barHeld w x then x
    else if n = 0 then x.unpark s.clock (fun p => p.passed key phase) none
    else { x with parks := x.parks.map fun (p : Park) => if p.passed key phase then { p with wake := some (s.clock + n) } else p }

/-- A cluster's debug stop ends: the lanes of the waves it observes whose phases have completed, and that no release has told when to
wake, become live (R197, R275, R321). -/
def State.releaseHeld (s : State) (mine : Nat → Wave → Bool) : State :=
  s.mapWaves fun w x =>
    if x.parks.isEmpty || !mine w x then x
    else x.unpark s.clock (fun p => match p.kind with | .bar k _ => (mget s.co.bars k).any fun b => p.passed k b.phase | _ => false) none

/-- Clocks until parked lanes are live: none at a core barrier; at a cluster barrier one on the core that completes the phase, and
up to 8 on the others, as a free value says (R282). -/
def State.barDelay (s : State) (key : Nat) (by' : Option Nat) (core : Nat) : Nat :=
  if key % 2 = 0 then 0 else if by' = some core then 1 else Config.wakeDelay s.stamp core % 9

/-- A clock has begun in which released lanes become live (R282), unless a debug stop holds them. -/
def State.wakeBars (s : State) : State :=
  s.mapWaves fun w x =>
    if x.parks.isEmpty || s.barHeld w x then x else x.unpark s.clock (fun p => p.wake.any fun t => decide (t ≤ s.clock)) none

/-- The arrivals, or departures, of the lanes of one instruction: counted together in ascending lane order, as a release
at the barrier's scope; a phase they complete is released once (R96, R196). -/
def State.arriveAll (s : State) (w key : Nat) (lanes : List Nat) (depart : Bool) : State :=
  match s.wave w with
  | none => s
  | some x =>
    let threads := ((s.block x.blk).map Block.threads).getD 1
    let b := s.bar key threads
    let s1 := s.releaseEager (coreOf w) (barScope key)
    let seen := if key % 2 = 0 then [] else s1.m.seenBy (coreOf w)
    match lanes.foldl (arriveLane key s.clock depart seen) (b, x.arrivals) with
    | (b', a) =>
      let s2 := (s1.putBar key b').modWave w fun x => { x with arrivals := a }
      if b'.phase = b.phase then s2 else s2.releaseBar key b'.phase (s2.barDelay key (some (coreOf w)))

/-- The barrier enrolled in the wave's table, or none when the table is full (R95, R195). -/
def Wave.enrolled (x : Wave) (id : Nat) : Option (List Nat) :=
  if x.enrol.contains id then some x.enrol else if x.enrol.length < 8 then some (x.enrol ++ [id]) else none

/-! ## Leaving (R96, R113, R192, R226) -/

/-- The lead's last live lane has exited: the grid releases, as HREL would, after every earlier harness instruction
(R226). -/
def State.leadExit (s : State) (w : Nat) : State :=
  match s.gridOfWave w with
  | some (g, h) =>
    if h.lead = some w ∧ h.state = 2 then
      let o : HOp := { stamp := s.stamp, code := 0x1E1, pc := 0, args := [], start := s.clock, done := 0 }
      s.putGrid g { h with ops := h.ops ++ [o] }
    else s
  | none => s

/-- Lanes of a wave exit: departures at each barrier of its table in the table's order; the last live lane discards the
transaction and ends a harnessed grid. -/
def State.exitLanes (s : State) (w : Nat) (m : Word) : State :=
  match s.wave w with
  | none => s
  | some x =>
    let s1 := s.modWave w fun x => x.mapLanes fun l y =>
      if m.getLsbD l then { y with st := .exited, ep := 0, neglect := 0 } else y
    let s2 := x.enrol.foldl (fun s id =>
      match s.barKey (coreOf w) x.blk id with
      | some key => s.arriveAll w key (lanesOf m) true
      | none => s) s1
    match s2.wave w with
    | none => s2
    | some y => if y.liveMask = 0#32 then (s2.modWave w fun x => { x with txn := {} }).leadExit w else s2

end Sys2Proof.Machine
end

