-- ==== Sys2Proof/Machine/Memory.lean ====
section
/-! DEFINITION. Memory.lean: loads, stores, acquire, release, fences and cache maintenance, and the events that perform
them (07 R160 to R166; 08 R172 to R183; 11 R259, R260; 19 R361, R362, R368). -/

namespace Sys2Proof.Machine

/-! ## Issue -/

/-- Whether an access clears its block's DISCARDABLE indicator at its issue (R268). -/
def endsDiscard : Instr → Bool
  | .atom _ | .atomf _ | .red _ | .launch _ | .tqpush _ | .nrec _ => true
  | _ => false

/-- A failing access: in SKID mode a page or access fault stays pending (R260), and the instruction has issued: it clears DISCARDABLE
as it does when its check passes (R268), and it renormalises no epoch (R98). Every other trap is precise. -/
def Issue.fault (c : Issue) (s : State) (t : Trap) : Eff :=
  if (t.cause = .pageFault ∨ t.cause = .accessFault) ∧ (s.ctxRec c.x).skid ∧ !(c.x.pend.any fun p => p.work.isCheck) then
    .go { s := if endsDiscard c.i then s.notDiscardable c.x.blk else s, work := some (.check (some t) 0 none), skid := true }
  else .trap t

/-- The contributors' addresses for accesses of `n` bytes. -/
def Issue.wants (c : Issue) (s : State) (n : Nat) : List Want := c.lanes.map fun l => { lane := l, va := c.addr s l, n := n }

/-- The same in the scratchpad. -/
def Issue.spWants (c : Issue) (s : State) (n : Nat) : List Want := c.lanes.map fun l => { lane := l, va := c.spAddr s l, n := n }

/-- The checks of a global or window access, then what the parts lead to. -/
def Issue.global (c : Issue) (s : State) (a : Ask) (qs : List Want) (k : State → List Piece → Eff) : Eff :=
  match s.checkGlobal (coreOf c.w) (s.ctxNo c.x) c.x.blk a qs with
  | (s, .error t) => c.fault s t
  | (s, .ok ps) => k s ps

/-- The checks of a scratchpad access, then what the parts lead to. -/
def Issue.scratch (c : Issue) (s : State) (align : Nat) (whole : Bool) (n : Nat) (k : List Piece → Eff) : Eff :=
  match s.checkSp (coreOf c.w) c.x.blk align whole (c.spWants s n) with
  | .error t => .trap t
  | .ok ps => k ps

/-- The block's bank swizzle (R159). -/
def State.swz (s : State) (blk : Nat) : Bool := ((s.block blk).map Block.swz).getD false

/-- A v destination of a number of registers. -/
def Issue.dstV (c : Issue) : Dst := { cls := 0, base := c.b.d.toNat, cnt := Body.regs c.b.dW }

/-- An s destination. -/
def Issue.dstS (c : Issue) : Dst := { cls := 1, base := c.b.d.toNat, cnt := Body.regs c.b.dW }

/-- A global or window load on its way (R178, R181). -/
def Issue.loadEff (c : Issue) (s : State) (a : Ask) (ty n : Nat) (scope : Option Nat) : Eff :=
  c.global s a (c.wants s n) fun s ps => .go { s := s, work := some (.load ty n scope ps [] [] c.dstV), parts := ps }

/-- A scratchpad load on its way, in passes (R160). -/
def Issue.spLoadEff (c : Issue) (s : State) (align ty n : Nat) (scope : Option Nat) (whole : Bool) : Eff :=
  c.scratch s align whole n fun ps =>
    .go { s := s, parts := ps
          work := some (.spLoad ty n scope (passesOf (s.swz c.x.blk) Piece.spPart ps) [] [] c.dstV) }

/-- The bytes a lane stores, captured at issue (R62). -/
def Issue.data (c : Issue) (s : State) (n lane : Nat) : List Byte := leBytesOf n (c.regB s lane)

/-- Parts with the bytes they store. -/
def Issue.puts (c : Issue) (s : State) (n : Nat) (ps : List Piece) : List Put :=
  ps.map fun p => { at' := p, bytes := ((c.data s n p.lane).drop p.off).take p.len }

/-- A global or window store: one queue entry (R165, R179, R181). -/
def Issue.storeEff (c : Issue) (s : State) (a : Ask) (n : Nat) (scope : Option Nat) : Eff :=
  c.global s a (c.wants s n) fun s1 ps =>
    .go { s := s1.modWave c.w fun x => { x with sq := x.sq ++ [{ stamp := s.stamp, puts := c.puts s n ps, scope := scope }] }
          work := some .store, parts := ps }

/-- A scratchpad store on its way, in passes (R160, R181). -/
def Issue.spStoreEff (c : Issue) (s : State) (align n : Nat) (scope : Option Nat) (whole : Bool) : Eff :=
  c.scratch s align whole n fun ps =>
    .go { s := s, parts := ps
          work := some (.spStore scope (passesOf (s.swz c.x.blk) (fun (q : Put) => q.at'.spPart) (c.puts s n ps))) }

/-- Data watchpoints against an access that is performed as its instruction issues (R272). -/
def Issue.watchNow (c : Issue) (s : State) (ps : List Piece) (isW isR : Bool) : State :=
  if s.wk.dbgs.all fun d => !d.2.den then s
  else
    let pe : Pend := { stamp := s.stamp, slot := 0, due := s.clock, hold := false, pc := c.pc, act := c.act, con := c.con
                       iwords := frameWords (encode c.i), dst := [], src := [], work := .slot, parts := ps }
    let s1 := (s.modWave c.w fun x => { x with issues := x.issues + 1 }).watch (some (c.w, pe)) (s.ctxNo c.x) ps isW isR
    s1.modWave c.w fun x => { x with issues := x.issues - 1 }

/-- R178. Global or window load. -/
def execLd (x : Body) (s : State) : Out :=
  run (.ld x) s fun c s =>
    let ty := c.b.mdN % 8
    c.loadEff s { kind := .load, align := 1, win := true } ty (memBytes ty) none

/-- R179. Global or window store. -/
def execSt (x : Body) (s : State) : Out :=
  run (.st x) s fun c s => c.storeEff s { kind := .store, align := 1, win := true } (memBytes (c.b.mdN % 8)) none

/-- R178. Scratchpad load. -/
def execLds (x : Body) (s : State) : Out :=
  run (.lds x) s fun c s => c.spLoadEff s (min (memBytes c.b.mdN) 4) c.b.mdN (memBytes c.b.mdN) none false

/-- R179. Scratchpad store. -/
def execSts (x : Body) (s : State) : Out :=
  run (.sts x) s fun c s => c.spStoreEff s (min (memBytes c.b.mdN) 4) (memBytes c.b.mdN) none false

/-- R178. Window load. -/
def execLdw (x : Body) (s : State) : Out :=
  run (.ldw x) s fun c s =>
    c.loadEff s { kind := .load, align := memBytes c.b.mdN, win := true, only := true } c.b.mdN (memBytes c.b.mdN) none

/-- R179. Window store. -/
def execStw (x : Body) (s : State) : Out :=
  run (.stw x) s fun c s =>
    c.storeEff s { kind := .store, align := memBytes c.b.mdN, win := true, only := true } (memBytes c.b.mdN) none

/-- R180. Prefetch: it changes no value that any access returns. -/
def execPf (x : Body) (s : State) : Out := run (.pf x) s fun _ s => .go { s := s }

/-- R181. Scoped acquire load, global or scratchpad. -/
def execLda (x : Body) (s : State) : Out :=
  run (.lda x) s fun c s =>
    let n := 4 * 2 ^ (c.b.mdN % 4)
    if c.b.aW = 0#2 then c.spLoadEff s n 4 n (some (c.b.mdN / 4)) true
    else c.loadEff s { kind := .load, align := n, win := true, whole := true } 4 n (some (c.b.mdN / 4))

/-- R181. Scoped release store, global or scratchpad. -/
def execStl (x : Body) (s : State) : Out :=
  run (.stl x) s fun c s =>
    let n := 4 * 2 ^ (c.b.mdN % 4)
    if c.b.aW = 0#2 then c.spStoreEff s n n (some (c.b.mdN / 4)) true
    else c.storeEff s { kind := .store, align := n, win := true, whole := true } n (some (c.b.mdN / 4))

/-- R182. Fence of a kind at a scope. -/
def execFence (x : Body) (s : State) : Out :=
  run (.fence x) s fun c s => .go { s := s, work := some (.fence (c.b.mdN / 8) (c.b.mdN % 8)) }

/-! ## Cache maintenance (R183) -/

/-- The first address of each 4 KiB page that a range touches. -/
def rangePages (lo n : Nat) : List Nat :=
  if n = 0 then [] else (List.range ((lo + n - 1) / 4096 - lo / 4096 + 1)).map fun i => (lo / 4096 + i) * 4096

/-- The pages of a range that translate, as virtual and physical page; the others are skipped (R183). -/
def State.rangeMap (s : State) (core ctx lo n : Nat) : State × List (Nat × Nat) :=
  (rangePages lo n).foldl (fun a va =>
    match a.1.translate core ctx va .load with
    | (s, .ok pa) => (s, a.2 ++ [(va, pa)])
    | (s, .error _) => (s, a.2)) (s, [])

/-- Whether a physical line lies in the range. -/
def lineInRange (pages : List (Nat × Nat)) (lo n line : Nat) : Bool :=
  pages.any fun p => decide (p.2 ≤ line * 128) && decide (line * 128 < p.2 + 4096) &&
    (let va := p.1 + (line * 128 - p.2)
     decide (va < lo + n) && decide (lo < va + 128))

/-- The lines that a maintenance of a range has to bring to their state: those the core's L1, its L2 or the wave's own
store queue holds, and those with writes that some core has not seen (R183, R376). -/
def State.maintLines (s : State) (core : Nat) (x : Wave) (pages : List (Nat × Nat)) (lo n : Nat) : List Nat :=
  let held := s.m.linesOf core ++ s.m.l2.map (fun p => lineOf p.1) ++ x.sq.flatMap (fun e => memLines (e.puts.map Put.at')) ++ s.m.late.flatMap Late.lines
  (held.foldl ladd []).filter (lineInRange pages lo n)

/-- CLEAN and INVAL. -/
def maintEff (inval : Bool) (c : Issue) (s : State) : Eff :=
  let lo := c.addr s 0
  let n := (c.s s c.b.b.toNat).toNat
  if n ≠ 0 ∧ (lo + n > 2 ^ 64 ∨ (lo < windowBase + 0x20000000 ∧ windowBase < lo + n)) then
    .trap { cause := .illegalOperand, mask := c.act }
  else if c.b.mdN < 2 then .go { s := s }
  else
    match s.rangeMap (coreOf c.w) (s.ctxNo c.x) lo n with
    | (s, pages) => .go { s := s, work := some (.maint inval c.b.mdN (s.maintLines (coreOf c.w) c.x pages lo n)) }

/-- R183. Write back the dirty bytes of a range. -/
def execClean (x : Body) (s : State) : Out := run (.clean x) s (maintEff false)

/-- R183. Write back and remove the lines of a range. -/
def execInval (x : Body) (s : State) : Out := run (.inval x) s (maintEff true)

/-! ## Events -/

/-- A wave and one of its pending instructions. -/
def State.pendOf (s : State) (w n : Nat) : Option (Wave × Pend) :=
  match s.wave w with
  | none => none
  | some x => (x.pending n).map fun p => (x, p)

/-- The first parts, as many as the free choice says and at least one. -/
def firstFew {α : Type} (free : Nat) (l : List α) : List α × List α :=
  let k := 1 + Config.choice free % (max l.length 1)
  (l.take k, l.drop k)

/-- R178, R166. Parts of a load, or of a TBLSET's reads, are performed; the TBLSETs of a block on a core are performed one at a time
(R143). An atomic in the L1 or through the window is performed as well. -/
def execLoadDataReturn (w n : Nat) (s : State) : Out :=
  match s.pendOf w n with
  | none => .next s
  | some (x, p) =>
    if !x.inTurn (coreOf w) p then .next s
    else
      match p.work with
      | .load ty m scope todo got bad d =>
        let wide := decide (scope.getD 0 ≥ 2)
        if wide && !s.drained (coreOf w) todo then .next s
        else if todo.any fun q => x.partlyQueued n q then .next s
        else
          match laneSplit s.free todo with
          | (now, later) => .next ((s.performLoad w x p ty m scope now later got bad d).bump)
      | .tblset pair bank todo got =>
        if s.tblOlder (coreOf w) n fun o => match o with | .tblset k .. => k == pair | _ => false then .next s
        else if todo.any fun q => x.partlyQueued n q then .next s
        else
          match firstFew s.free todo with
          | (now, later) => .next ((s.performTblset w x p pair bank now later got).bump)
      | .near code m todo got bad d =>
        match splitOps s.free todo with
        | (now, later) => .next ((s.performNear w p code m now later got bad d).bump)
      | _ => .next s

/-- The release that a supervisor's FENCE makes of its later stores, at device scope (R169, R368). -/
def Sup.fences (u : Sup) (core : Nat) : List Rel :=
  if u.fenced.isEmpty then [] else [{ core := core, scope := 4, deps := u.fenced, lazy := false }]

/-- The oldest entry of a core supervisor's store queue leaves it (R169). -/
def State.superLeave (s : State) (core : Nat) : State :=
  match mget s.co.sups core with
  | none => s
  | some u =>
    match u.sq with
    | [] => s
    | (pa, bs) :: rest =>
      ({ s with co := { s.co with sups := mput s.co.sups core { u with sq := rest } } } : State).storeLine core pa bs (u.fences core)

/-- Whether a queued store goes to a grid of which a pass is under way: it waits for the end of the pass (R227). -/
def State.putsMidPass (s : State) (e : SqEntry) : Bool :=
  e.puts.any fun q => match q.at'.loc with | .grid g uid _ => (s.gridTarget g uid).any s.midPass | _ => false

/-- R165, R169, R179. The oldest entry of a wave's store queue leaves it; numbers past the waves' name the queues of the core
supervisors. -/
def execStoreQueueLeave (w : Nat) (s : State) : Out :=
  if w ≥ 8192 then .next (s.superLeave (w - 8192)) else
  match s.wave w with
  | none => .next s
  | some x => if x.mayLeave (coreOf w) && !(x.sq.head?.any s.putsMidPass) then .next (s.leaveQueue w) else .next s

/-- One pass of a scratchpad instruction, when its turn has come (R160, R161). -/
def State.spPass (s : State) (w : Nat) (x : Wave) (p : Pend) : State :=
  if !x.inTurn (coreOf w) p then s
  else
    match p.work with
    | .spLoad ty m scope (now :: later) got bad d => s.passLoad w p ty m scope now later got bad d
    | .spStore scope (now :: later) => if scope.isSome && !x.settledBefore p.stamp then s else s.passStore w p scope now later
    | .spAtom code m (now :: later) got bad d => s.passAtom w p code m now later got bad d
    | _ => s

/-- R181, R342, R371. A release is complete at its scope. -/
def execReleaseComplete (w n : Nat) (s : State) : Out :=
  match s.pendOf w n with
  | none => .next s
  | some (x, p) =>
    match p.work with
    | .release _ => .next ((s.mapMem fun m => m.released n s.timeFs).putWave w (x.complete n))
    | _ => .next s

/-- Whether the accesses a fence orders before it have been performed (R368). -/
def Wave.fenceReady (x : Wave) (n kind : Nat) : Bool :=
  if kind = 1 then x.older n fun q => !(q.work.isAccess && q.work != .store && (match q.work with | .spStore .. => false | _ => true))
  else x.settledBefore n

/-- R182, R368. A fence completes. -/
def execFenceComplete (w n : Nat) (s : State) : Out :=
  match s.pendOf w n with
  | none => .next s
  | some (x, p) =>
    match p.work with
    | .fence kind scope =>
      if s.clock < p.due then .next s
      else if scope = 0 then .next (s.putWave w (x.complete n))
      else if !x.fenceReady n kind then .next s
      else .next (s.waveFence w x n kind scope)
    | _ => .next s

/-- Whether a transaction of a core's waves reserves a line. -/
def State.reserves (s : State) (core line : Nat) : Bool :=
  s.waves.any fun p => coreOf p.1 == core && p.2.txn.lines.any fun q => q.1 == line

/-- A line brought to its state by CLEAN or INVAL: a line that a transaction reserves stays in its L1 (R192). What the core reads of
the line after INVAL comes from below (R183). -/
def State.maintain (s : State) (core : Nat) (inval : Bool) (scope line : Nat) : State :=
  let s1 := if inval && !s.reserves core line then s.expel core line else s.writeBack core line
  let s2 := if inval then s1.mapMem fun m => m.seeLine core line else s1
  s2.pushDown scope fun a => lineOf a == line

/-- R183. A maintenance completes: every line has its state, the wave's older stores among them. -/
def execCacheMaintenanceComplete (w n : Nat) (s : State) : Out :=
  match s.pendOf w n with
  | none => .next s
  | some (x, p) =>
    match p.work with
    | .maint inval scope lines =>
      if x.sq.all fun e => decide (n ≤ e.stamp) then
        .next ((lines.foldl (fun s l => s.maintain (coreOf w) inval scope l) s).modWave w fun x => x.complete n)
      else .next s
    | _ => .next s

/-- R259, R260. The result of a translation check that was pending: the wave stops, when the younger instructions
that it issued have completed. -/
def execTranslationCheckResult (w n : Nat) (s : State) : Out :=
  match s.pendOf w n with
  | none => .next s
  | some (x, p) =>
    match p.work with
    | .check (some t) younger held =>
      if x.pend.any fun q => decide (n < q.stamp) then .next s
      else
        let x1 := x.complete n
        .next (s.lateTrap w x1 { x1 with replay := some (p.pc, p.con, p.iwords) } (mkFrame s w x1 t p.con p.pc p.iwords x1.stepping true true held younger))
    | .check none .. => .next (s.putWave w (x.complete n))
    | _ => .next s

end Sys2Proof.Machine
end

