-- ==== Sys2Proof/Machine/Atomics.lean ====
section
/-! DEFINITION. Atomics.lean: atomics in the L1, at the scratchpad and at the home slices, and the multi-line
conditional store (08 R184 to R192; 19 R372, R373). -/

namespace Sys2Proof.Machine

/-! ## Atomics (R184 to R188) -/

/-- The operation code, and whether the form updates two words separately (.w2). -/
def Issue.atomCode (c : Issue) : Nat := c.b.mdN % 16
def Issue.atomW2 (c : Issue) : Bool := decide (c.b.mdN ≥ 16) && decide (c.b.mdN % 16 ≥ 12)

/-- Bytes of the location (R184). -/
def Issue.atomN (c : Issue) : Nat := if c.b.mdN ≥ 16 then 8 else 4

/-- The word operations of a part (R185): one, or two of 4 bytes for .w2. -/
def Issue.wordOps (c : Issue) (s : State) (p : Piece) : List WordOp :=
  let b := c.regB s p.lane
  if c.atomW2 then
    [{ lane := p.lane, half := 0, len := 4, va := p.va, loc := p.loc, b := b % 2 ^ 32, bHigh := 0 },
     { lane := p.lane, half := 1, len := 4, va := p.va + 4, loc := p.loc.plus 4, b := b / 2 ^ 32, bHigh := 0 }]
  else
    let w := 2 ^ (8 * c.atomN)
    [{ lane := p.lane, half := 0, len := c.atomN, va := p.va, loc := p.loc, b := b % w, bHigh := b / w % w }]

/-- The first issue of an atomic clears the DISCARDABLE indicator (R268). -/
def Issue.ask (c : Issue) (win : Bool) : Ask :=
  { kind := .rmw, align := c.atomN, win := win, spOnly := true, w2 := c.atomW2 }

/-- R187. Atomic in the L1, at the scratchpad or through the window, returning the old value. -/
def execAtom (x : Body) (s : State) : Out :=
  run (.atom x) s fun c s =>
    if c.b.aW = 0#2 then
      c.scratch s c.atomN false c.atomN fun ps =>
        let os := ps.flatMap (c.wordOps s)
        .go { s := s.notDiscardable c.x.blk, parts := ps
              work := some (.spAtom c.atomCode c.atomN
                (passesOf (s.swz c.x.blk) (fun (o : WordOp) => (match o.loc with | .sp _ off _ => off | _ => o.va, o.len)) os) [] [] c.dstV) }
    else
      c.global s (c.ask true) (c.wants s c.atomN) fun s ps =>
        .go { s := s.notDiscardable c.x.blk, parts := ps
              work := some (.near c.atomCode c.atomN (ps.flatMap (c.wordOps s)) [] [] c.dstV) }

/-- R187. Atomic at the home slice, returning the old value. -/
def execAtomf (x : Body) (s : State) : Out :=
  run (.atomf x) s fun c s =>
    c.global s (c.ask false) (c.wants s c.atomN) fun s ps =>
      .go { s := s.notDiscardable c.x.blk, parts := ps
            work := some (.far c.atomCode c.atomN (ps.flatMap (c.wordOps s)) [] [] (some c.dstV)) }

/-- R187. Atomic at the home slice, returning nothing. -/
def execRed (x : Body) (s : State) : Out :=
  run (.red x) s fun c s =>
    c.global s (c.ask false) (c.wants s c.atomN) fun s ps =>
      .go { s := s.notDiscardable c.x.blk, parts := ps
            work := some (.far c.atomCode c.atomN (ps.flatMap (c.wordOps s)) [] [] none) }

/-- Word operations on a line, and the rest. -/
def onLine (line : Nat) (os : List WordOp) : List WordOp × List WordOp :=
  os.partition fun o => match o.loc with | .mem pa => lineOf pa == line | _ => false

/-- Operations whose low word still has to be done elsewhere: a high word waits for it (R185). -/
def tooEarly (here rest : List WordOp) : Bool := here.any fun o => rest.any fun r => r.lane == o.lane && decide (r.half < o.half)

/-- R185 to R187, R340. The home slice performs an ATOMF's or a RED's word operations on a line, together. -/
def execSliceWordOperation (w n line : Nat) (s : State) : Out :=
  match s.pendOf w n with
  | none => .next s
  | some (x, p) =>
    match p.work with
    | .far code m todo got bad d =>
      if !x.inTurn (coreOf w) p then .next s
      else
        match onLine line todo with
        | ([], _) => .next s
        | (here, rest) => if tooEarly here rest then .next s else .next (s.performFar w p code m here rest got bad d)
    | _ => .next s

/-! ## The multi-line conditional store (R189 to R192) -/

/-- Bytes of MLRES and MLST. -/
def Issue.mlN (c : Issue) : Nat := 4 * 2 ^ c.b.mdN

/-- The one access of MLRES or MLST, checked; a trap names every contributor. -/
def Issue.mlAccess (c : Issue) (s : State) (k : AccKind) (f : State → List Piece → Eff) : Eff :=
  match s.checkGlobal (coreOf c.w) (s.ctxNo c.x) c.x.blk { kind := k, align := c.mlN, win := false }
      [{ lane := c.low, va := c.addr s c.low, n := c.mlN }] with
  | (s, .error t) => c.fault s { t with mask := c.con }
  | (s, .ok ps) => f s ps

/-- The physical address of an access's first byte. -/
def firstPa (ps : List Piece) : Nat := match ps.head? with | some { loc := .mem pa, .. } => pa | _ => 0

/-- Lines that waves of a core reserve, each counted once (R192). -/
def State.reservedOn (s : State) (core : Nat) : List Nat :=
  s.waves.foldl (fun a p => if coreOf p.1 = core then p.2.txn.lines.foldl (fun a l => ladd a l.1) a else a) []

/-- Bytes of memory with the buffered stores of the wave over them, in buffer order (R190). -/
def overlay (buf : List Put) (pa : Nat) (bs : List Byte) : List Byte :=
  buf.foldl (fun bs q =>
    match q.at'.loc with
    | .mem a => bs.zipIdx.map fun p => if a ≤ pa + p.2 ∧ pa + p.2 < a + q.bytes.length then q.bytes.getD (pa + p.2 - a) 0#8 else p.1
    | _ => bs) bs

/-- R190. Reserve a line and read it with the buffered stores. A transaction with a disturbed line, which cannot commit any more, asks
for ownership of no line: a line that it adds counts as disturbed (R191; log entry 42). -/
def execMlres (x : Body) (s : State) : Out :=
  run (.mlres x) s fun c s =>
    c.mlAccess s .load fun s ps =>
      let core := coreOf c.w
      let pa := firstPa ps
      let line := lineOf pa
      let known := c.x.txn.lines.any fun p => p.1 == line
      let read := fun (s : State) (buf : List Put) =>
        Eff.go { s := c.watchNow s ps false true, parts := ps
                 work := some (.bound (c.toSD (leVal (overlay buf pa (readBytes (s.m.coreByte core) pa c.mlN))))) }
      let held := s.reservedOn core
      let dead := !c.x.txn.disturbed.isEmpty
      if c.x.txn.lost then c.settled (read (s.fill core line) [])
      else if !known && c.x.txn.lines.length ≥ 4 then .trap { cause := .mlLimit, mask := c.con }
      else if !known && !held.contains line && held.length ≥ 64 then .wait
      else
        let s1 := if dead then s.fill core line else s.exclusive core line
        let s2 := if known then s1 else s1.modWave c.w fun x =>
          { x with txn := { x.txn with lines := x.txn.lines ++ [(line, s.clock)]
                                       disturbed := if dead then ladd x.txn.disturbed line else x.txn.disturbed } }
        c.settled (read s2 c.x.txn.buf)

/-- R190. Buffer a store to a reserved line. -/
def execMlst (x : Body) (s : State) : Out :=
  run (.mlst x) s fun c s =>
    c.mlAccess s .store fun s ps =>
      if c.x.txn.lost then .go { s := s }
      else if !(c.x.txn.lines.any fun p => p.1 == lineOf (firstPa ps)) then .trap { cause := .mlState, mask := c.con }
      else if c.x.txn.buf.length ≥ 16 then .trap { cause := .mlLimit, mask := c.con }
      else
        match ps with
        | [] => .go { s := s }
        | p :: _ =>
          .go { s := s.modWave c.w fun x =>
            { x with txn := { x.txn with buf := x.txn.buf ++ [{ at' := { p with len := c.mlN }, bytes := c.data s c.mlN c.low }] } } }

/-- The status of an MLCOMMIT (R191, R192). -/
def Txn.status (t : Txn) : Nat := if t.lost then 2 else if t.lines.isEmpty then 3 else if t.disturbed.isEmpty then 0 else 1

/-- The bytes that buffered stores write, a later store of a byte over an earlier one. -/
def commitBytes (buf : List Put) : List (Nat × Byte) :=
  buf.foldl (fun m q => match q.at'.loc with | .mem pa => (atAddrs pa q.bytes).foldl (fun m b => mput m b.1 b.2) m | _ => m) ([] : Map Byte)

/-- The release and the stores of a commit: the lines are owned, every other copy goes, and the stores take effect as one write
(R191, R342, R373). At cluster and die scope the releasing core is recorded at the lines' home slices. -/
def State.commit (s : State) (core scope : Nat) (fs : List Rel) (buf : List Put) : State :=
  let bs := commitBytes buf
  let lines := memLines (buf.map Put.at')
  let s1 := s.releaseBefore core scope (buf.map Put.at')
  let s2 := lines.foldl (fun s l => s.exclusive core l) s1
  let s3 := s2.storeThrough core bs (s2.relsOf core fs (some scope) (decide (scope ≤ 3)))
  s3.pushDown scope fun a => lines.contains (lineOf a)

/-- The acquire of a commit at a scope, by the lines that it reserved: their entries are drained, and the core sees what the writes
that it has seen of them order (R342, R366). -/
def State.commitAcquire (s : State) (core scope : Nat) (lines : List Nat) : State :=
  if scope < 2 then s
  else
    let s1 := lines.foldl (fun s l => s.drainEntry (dieOf core) l core) s
    (s1.mapMem fun m => m.sync core scope (m.late.filter fun e => e.seen.contains core && e.lines.any lines.contains)).acquire core

/-- R191. Commit the transaction. -/
def execMlcommit (x : Body) (s : State) : Out :=
  run (.mlcommit x) s fun c s =>
    let core := coreOf c.w
    let t := c.x.txn
    let done := fun (s : State) => ((s.modWave c.w fun x => { x with txn := {} }).notDiscardable c.x.blk)
    let out := fun (s : State) (st : Nat) => Eff.go { s := done s, work := some (.bound (c.toSD st)), parts := t.buf.map Put.at' }
    if t.status ≠ 0 then out s t.status
    else
      let s1 := (s.commitAcquire core c.b.mdN (t.lines.map Prod.fst)).commit core c.b.mdN (c.x.fences core) t.buf
      c.settled (out (c.watchNow s1 (t.buf.map Put.at') true true) 0)

/-- R192. Empty the transaction and end a lost state. -/
def execMlabort (x : Body) (s : State) : Out :=
  run (.mlabort x) s fun c s => .go { s := s.modWave c.w fun x => { x with txn := {} } }

end Sys2Proof.Machine
end

