-- ==== Sys2Proof/Machine/Float.lean ====
section
/-! DEFINITION. Float.lean: binary32, conversions, packed pairs, short dot products, block-scaled packing and the
special functions (05 R120 to R139), with the C16 and I32 rows that have their effect (02 R49, R50). -/

namespace Sys2Proof.Machine

/-- The rounding mode of a code that an instruction may hold (R27). -/
def rmOf (n : Nat) : Rm := (Rm.ofCode n).getD .rne

/-! ## binary32 (R120 to R126) -/

/-- The two-operand arithmetic of R121 and R123. -/
def fp2 (f : Rm → Bool → Nat → Nat → Nat × Cond) (c : Issue) (s : State) : Eff :=
  c.fpLanes s fun l => f (rmOf (c.b.mdN % 8)) (c.b.md.getLsbD 3) (c.regA s l) (c.lastB s false 32 l)

/-- FADD, FSUB, FMUL, FFMA, FMIN, FMAX and FRND as effects. -/
def faddEff : Issue → State → Eff := fp2 (fpAdd .f32)
def fsubEff : Issue → State → Eff := fp2 (fpSub .f32)
def fmulEff : Issue → State → Eff := fp2 (fpMul .f32)
def fminEff : Issue → State → Eff := fp2 fun _ _ => fpMinMax .f32 false
def fmaxEff : Issue → State → Eff := fp2 fun _ _ => fpMinMax .f32 true
def ffmaEff (c : Issue) (s : State) : Eff :=
  c.fpLanes s fun l => fpFma .f32 (rmOf (c.b.mdN % 8)) (c.b.md.getLsbD 3) (c.regA s l) (c.regB s l) (c.third s false l)
def frndEff (c : Issue) (s : State) : Eff :=
  c.fpLanes s fun l => fpRound (rmOf (c.b.mdN % 8)) (c.b.md.getLsbD 3) (c.regA s l)

/-- R122. Fused multiply-add with a two-term accumulator. -/
def execFfma3 (x : Body) (s : State) : Out :=
  run (.ffma3 x) s fun c s => c.fpLanes s fun l =>
    let k := c.third s false l
    let r := fpFma3 (rmOf (c.b.mdN % 8)) (c.regA s l) (c.regB s l) (k % 2 ^ 32) (k / 2 ^ 32)
    (r.1 + 2 ^ 32 * r.2.1, r.2.2)

/-- R124. binary32 compare into a predicate. -/
def execFcmp (x : Body) (s : State) : Out :=
  run (.fcmp x) s fun c s =>
    let rs := c.lanes.map fun l => (l, fpCmp (c.b.mdN % 8) (c.b.md.getLsbD 3) (c.regA s l) (c.lastB s false 32 l))
    c.settleFp s (rs.map fun r => (r.1, r.2.1.toNat, r.2.2)) (rs.map fun r => .k c.b.d.toNat r.1 r.2.1)

/-- R125. Class of a floating-point value. -/
def execFclass (x : Body) (s : State) : Out :=
  run (.fclass x) s fun c s =>
    let f : Fmt := match c.b.mdN with | 0 => .f32 | 1 => .f16 | _ => .bf16
    c.fixed s (c.toD fun l => fpClass f (c.regA s l % 2 ^ f.bits))

/-! ## Element groups (R23, R127) -/

/-- Bit offset of element i of a k-bit format in register form. -/
def regPos (k i : Nat) : Nat := if k = 6 then 32 * (i / 4) + 6 * (i % 4) else k * i

/-- Element i of a group in register form. -/
def elemOf (k x i : Nat) : Nat := x / 2 ^ regPos k i % 2 ^ k

/-- The first n elements of a group. -/
def elemsOf (k x n : Nat) : List Nat := (List.range n).map (elemOf k x)

/-- A group in register form from its elements; the rest is 0. -/
def packElems (k : Nat) (xs : List Nat) : Nat :=
  xs.zipIdx.foldl (fun a p => a + p.1 % 2 ^ k * 2 ^ regPos k p.2) 0

/-- Elements converted one by one: the group, and the union of their conditions. -/
def packConds (k : Nat) (xs : List (Nat × Cond)) : Nat × Cond :=
  (packElems k (xs.map Prod.fst), xs.foldl (fun a p => a ||| p.2) 0#5)

/-! ## Conversions (R128 to R130) -/

/-- FCVT (R129). -/
def fcvtEff (c : Issue) (s : State) : Eff :=
  let src := fcvtFmt (c.b.b.toNat / 8 % 8)
  let dst := fcvtFmt (c.b.b.toNat % 8)
  let rm := rmOf (c.b.mdN % 8)
  c.fpLanes s fun l =>
    packConds dst.bits ((elemsOf src.bits (c.regA s l) (fcvtCount c.b)).zipIdx.map fun p =>
      let z := if rm = .sr then (c.v s ((fcvtRandom c.b).1 + p.2 / 2) l).toNat / 2 ^ (16 * (p.2 % 2)) % 65536 else 0
      if src = dst then src.keep p.1 else convert src dst rm (c.b.md.getLsbD 3) z p.1)

/-- The range of an integer type code (R130). -/
def icvtLo (t : Nat) : Int := if t % 2 = 0 then -(2 ^ (icvtBits t - 1)) else 0
def icvtHi (t : Nat) : Int := if t % 2 = 0 then 2 ^ (icvtBits t - 1) - 1 else 2 ^ icvtBits t - 1

/-- The format of a floating-point type code. -/
def icvtFmt (t : Nat) : Fmt := match t with | 8 => .f32 | 9 => .f16 | _ => .bf16

/-- One element of ICVT (R130, R32, R33). -/
def icvtElem (src dst : Nat) (rm : Rm) (sat : Bool) (x : Nat) : Nat × Cond :=
  if src ≥ 8 then
    let r := fpToInt (icvtFmt src) rm (icvtLo dst) (icvtHi dst) x
    (lowBits (icvtBits dst) r.1, r.2)
  else
    let v := intOf (icvtBits src) (src % 2 == 0) x
    if dst ≥ 8 then fpOfInt (icvtFmt dst) rm sat v
    else (lowBits (icvtBits dst) (if sat then clampInt (icvtLo dst) (icvtHi dst) v else v), 0#5)

/-- ICVT (R130). -/
def icvtEff (c : Issue) (s : State) : Eff :=
  let src := c.b.b.toNat / 16
  let dst := c.b.b.toNat % 16
  let n := min (capacity (icvtBits src) (Body.regs c.b.aW)) (capacity (icvtBits dst) (Body.regs c.b.dW))
  c.fpLanes s fun l =>
    packConds (icvtBits dst) ((elemsOf (icvtBits src) (c.regA s l) n).map
      (icvtElem src dst (rmOf (c.b.mdN % 8)) (c.b.md.getLsbD 3)))

/-! ## Packed pairs (R131, R132) -/

/-- The element format of a packed instruction. -/
def pairFmt (c : Issue) : Fmt := if c.b.md.getLsbD 0 then .bf16 else .f16

/-- A function of both halves. -/
def halves (f : Nat → Nat × Cond) : Nat × Cond := packConds 16 [f 0, f 1]

/-- HADD2 and HMUL2. -/
def pair2 (f : Fmt → Rm → Bool → Nat → Nat → Nat × Cond) (c : Issue) (s : State) : Eff :=
  c.fpLanes s fun l => halves fun h =>
    f (pairFmt c) (rmOf (c.b.mdN / 2 % 8)) (c.b.md.getLsbD 4) (elemOf 16 (c.regA s l) h) (elemOf 16 (c.lastB s false 32 l) h)

def hadd2Eff : Issue → State → Eff := pair2 fpAdd
def hmul2Eff : Issue → State → Eff := pair2 fpMul
def hfma2Eff (c : Issue) (s : State) : Eff :=
  c.fpLanes s fun l => halves fun h =>
    fpFma (pairFmt c) (rmOf (c.b.mdN / 2 % 8)) (c.b.md.getLsbD 4) (elemOf 16 (c.regA s l) h) (elemOf 16 (c.regB s l) h)
      (elemOf 16 (c.third s false l) h)
def hmnx2Eff (c : Issue) (s : State) : Eff :=
  c.fpLanes s fun l => halves fun h =>
    fpMinMax (pairFmt c) (c.b.md.getLsbD 1) (elemOf 16 (c.regA s l) h) (elemOf 16 (c.lastB s false 32 l) h)

/-! ## Short dot products (R133 to R135) -/

/-- FDOT4's A and B: with .x2, sixteen registers each (R133). -/
def Issue.dotArg (c : Issue) (s : State) (isS : Bool) (n : BitVec 8) (w : BitVec 2) (lane : Nat) : Nat :=
  c.group s isS n.toNat (if c.b.x2 then 16 else Body.regs w) lane

/-- FDOT4 (R134). -/
def fdot4Eff (c : Issue) (s : State) : Eff :=
  let f := fdotFmt (c.b.mdN % 8)
  let mx := c.b.md.getLsbD 3
  let n := fdotCount c.b
  c.fpLanes s fun l =>
    let k := c.third s false l
    let sc := k / 2 ^ 32
    let r := dotChunk f (if mx then some (sc % 256, sc / 256 % 256) else none)
      (elemsOf f.bits (c.dotArg s c.b.aS c.b.a c.b.aW l) n) (elemsOf f.bits (c.dotArg s c.b.bS c.b.b c.b.bW l) n) (k % 2 ^ 32)
    (r.1 + (if mx then 2 ^ 32 * sc else 0), r.2)

/-- IDOT4 (R135). -/
def idot4Eff (c : Issue) (s : State) : Eff :=
  let w := if c.b.md.getLsbD 2 then 4 else 8
  let n := capacity w (Body.regs c.b.aW)
  c.fixed s (c.toD fun l =>
    let ps := List.zipWith (fun a b => intOf w (!c.b.md.getLsbD 0) a * intOf w (!c.b.md.getLsbD 1) b)
      (elemsOf w (c.regA s l) n) (elemsOf w (c.regB s l) n)
    lowBits 32 ((c.third s false l : Int) + ps.foldl (· + ·) 0))

/-! ## Block-scaled packing (R136, R137) -/

/-- The element format of an MX type code (R136). -/
def mxFmt (t : Nat) : Fmt := match t with | 0 => .e4m3 | 1 => .e5m2 | 2 => .e2m3 | 3 => .e3m2 | _ => .e2m1

/-- The wide form's format; none for .raw. -/
def wideFmt (w : Nat) : Option Fmt := match w with | 0 => some .f32 | 1 => some .f16 | 2 => some .bf16 | _ => none

/-- Bits of an element of the group in the wide form. -/
def wideBits (c : Issue) : Nat := ((wideFmt (c.b.mdN / 8)).getD (mxFmt (c.b.mdN % 8))).bits

/-- R137. Unpack elements of a block. -/
def execMxunpk (x : Body) (s : State) : Out :=
  run (.mxunpk x) s fun c s =>
    let f := mxFmt (c.b.mdN % 8)
    let n := min (capacity (wideBits c) (Body.regs c.b.dW)) 32
    c.fpLanes s fun l =>
      let m := c.regA s l
      let b := c.regB s l
      let sc := b % 256
      packConds (wideBits c) ((List.range n).map fun i =>
        let code := m / 2 ^ (f.bits * ((b / 256 % 32 + i) % 32)) % 2 ^ f.bits
        match wideFmt (c.b.mdN / 8) with
        | none => (code, 0#5)
        | some g =>
          if sc = 255 then (g.nan, 0#5) else g.convertVal .rne false 0 ((f.decode code).scale ((sc : Int) - 127)))

/-- The element k bits of a block at a position replaced. -/
def putBits (m pos k x : Nat) : Nat := m % 2 ^ pos + (x % 2 ^ k) * 2 ^ pos + m / 2 ^ (pos + k) * 2 ^ (pos + k)

/-- R137. Pack elements into a block. -/
def execMxpack (x : Body) (s : State) : Out :=
  run (.mxpack x) s fun c s =>
    let f := mxFmt (c.b.mdN % 8)
    let n := min (capacity (wideBits c) (Body.regs c.b.aW)) 32
    c.fpLanes s fun l =>
      let b := c.regB s l
      let sc := b % 256
      let m0 := c.regD s l % 2 ^ (32 * f.bits)
      (elemsOf (wideBits c) (c.regA s l) n).zipIdx.foldl (fun a p =>
        let r : Nat × Cond := match wideFmt (c.b.mdN / 8) with
          | none => (p.1, 0#5)
          | some g => if sc = 255 then (0, Cond.nv) else f.convertVal .rne true 0 ((g.decode p.1).scale (127 - (sc : Int)))
        (putBits a.1 (f.bits * ((b / 256 % 32 + p.2) % 32)) f.bits r.1, a.2 ||| r.2)) (m0, 0#5)

/-! ## Special functions (R138, R139) -/

/-- A special function at issue: its results and conditions are those of its operands; they are written later. -/
def sfuEff (f : Sfu) (c : Issue) (s : State) : Eff :=
  let rs := c.lanes.map fun l => (l, sfuLane f (c.regA s l))
  let t := c.x.fpTrap rs
  match t.filter fun _ => c.x.pend.any fun p => p.work.isCheck with
  | some t => .trap t (condsOf rs)
  | none => .go { s := s.modWave c.w fun x => x.orFlags (condsOf rs)
                  work := some (.sfu (rs.flatMap fun r => vWords c.b.d.toNat r.1 r.2.1 1) t)
                  lat := 20, hold := c.x.enables != 0#5, stay := t.isSome }

/-- R121. binary32 add. -/
def execFadd (x : Body) (s : State) : Out := run (.fadd x) s faddEff

/-- R121. binary32 subtract. -/
def execFsub (x : Body) (s : State) : Out := run (.fsub x) s fsubEff

/-- R121. binary32 multiply. -/
def execFmul (x : Body) (s : State) : Out := run (.fmul x) s fmulEff

/-- R121. binary32 fused multiply-add. -/
def execFfma (x : Body) (s : State) : Out := run (.ffma x) s ffmaEff

/-- R123. minimumNumber. -/
def execFmin (x : Body) (s : State) : Out := run (.fmin x) s fminEff

/-- R123. maximumNumber. -/
def execFmax (x : Body) (s : State) : Out := run (.fmax x) s fmaxEff

/-- R126. Round to an integral value. -/
def execFrnd (x : Body) (s : State) : Out := run (.frnd x) s frndEff

/-- R129. Convert between floating-point formats. -/
def execFcvt (x : Body) (s : State) : Out := run (.fcvt x) s fcvtEff

/-- R130. Convert between integer types, and to and from floating point. -/
def execIcvt (x : Body) (s : State) : Out := run (.icvt x) s icvtEff

/-- R132. Packed add. -/
def execHadd2 (x : Body) (s : State) : Out := run (.hadd2 x) s hadd2Eff

/-- R132. Packed multiply. -/
def execHmul2 (x : Body) (s : State) : Out := run (.hmul2 x) s hmul2Eff

/-- R132. Packed fused multiply-add. -/
def execHfma2 (x : Body) (s : State) : Out := run (.hfma2 x) s hfma2Eff

/-- R132. Packed minimum or maximum. -/
def execHmnx2 (x : Body) (s : State) : Out := run (.hmnx2 x) s hmnx2Eff

/-- R134. Short dot product into binary32. -/
def execFdot4 (x : Body) (s : State) : Out := run (.fdot4 x) s fdot4Eff

/-- R135. Short integer dot product. -/
def execIdot4 (x : Body) (s : State) : Out := run (.idot4 x) s idot4Eff

/-- R138. 2^a. -/
def execFexp2 (x : Body) (s : State) : Out := run (.fexp2 x) s (sfuEff .exp2)

/-- R138. Base-2 logarithm. -/
def execFlog2 (x : Body) (s : State) : Out := run (.flog2 x) s (sfuEff .log2)

/-- R138. Reciprocal. -/
def execFrcp (x : Body) (s : State) : Out := run (.frcp x) s (sfuEff .rcp)

/-- R138. Reciprocal square root. -/
def execFrsq (x : Body) (s : State) : Out := run (.frsq x) s (sfuEff .rsq)

/-- R138. Square root. -/
def execFsqrt (x : Body) (s : State) : Out := run (.fsqrt x) s (sfuEff .sqrt)

/-- R138. sin(π·a). -/
def execFsin (x : Body) (s : State) : Out := run (.fsin x) s (sfuEff .sin)

/-- R138. cos(π·a). -/
def execFcos (x : Body) (s : State) : Out := run (.fcos x) s (sfuEff .cos)

/-- R138. Hyperbolic tangent. -/
def execFtanh (x : Body) (s : State) : Out := run (.ftanh x) s (sfuEff .tanh)

/-- R138. Error function. -/
def execFerf (x : Body) (s : State) : Out := run (.ferf x) s (sfuEff .erf)

/-! ## The C16 and I32 rows -/

/-- R49. C16 binary32 add with RNE. -/
def execCFadd (x : C16) (s : State) : Out := run16 8 x (.fadd (x.body 5)) s faddEff

/-- R49. C16 binary32 subtract with RNE. -/
def execCFsub (x : C16) (s : State) : Out := run16 9 x (.fsub (x.body 5)) s fsubEff

/-- R49. C16 binary32 multiply with RNE. -/
def execCFmul (x : C16) (s : State) : Out := run16 10 x (.fmul (x.body 5)) s fmulEff

/-- R49. C16 binary32 minimumNumber. -/
def execCFmin (x : C16) (s : State) : Out := run16 11 x (.fmin (x.body 5)) s fminEff

/-- R49. C16 binary32 maximumNumber. -/
def execCFmax (x : C16) (s : State) : Out := run16 12 x (.fmax (x.body 5)) s fmaxEff

/-- R50. I32 binary32 add, RNE. -/
def execI32Fadd (x : I32) (s : State) : Out := run32 0x17 x (.fadd (x.body 0#5)) s faddEff

/-- R50. I32 binary32 subtract, RNE. -/
def execI32Fsub (x : I32) (s : State) : Out := run32 0x18 x (.fsub (x.body 0#5)) s fsubEff

/-- R50. I32 binary32 multiply, RNE. -/
def execI32Fmul (x : I32) (s : State) : Out := run32 0x19 x (.fmul (x.body 0#5)) s fmulEff

/-- R50. I32 accumulating binary32 fused multiply-add, RNE. -/
def execI32Ffma (x : I32) (s : State) : Out := run32 0x1A x (.ffma (x.body 0#5)) s ffmaEff

/-- R50. I32 binary32 minimumNumber. -/
def execI32Fmin (x : I32) (s : State) : Out := run32 0x1B x (.fmin (x.body 0#5)) s fminEff

/-- R50. I32 binary32 maximumNumber. -/
def execI32Fmax (x : I32) (s : State) : Out := run32 0x1C x (.fmax (x.body 0#5)) s fmaxEff

/-- R50. I32 binary32 add toward zero. -/
def execI32FaddRtz (x : I32) (s : State) : Out := run32 0x1D x (.fadd (x.body 1#5)) s faddEff

/-- R50. I32 binary32 multiply toward zero. -/
def execI32FmulRtz (x : I32) (s : State) : Out := run32 0x1E x (.fmul (x.body 1#5)) s fmulEff

/-- R50. I32 accumulating fused multiply-add toward zero. -/
def execI32FfmaRtz (x : I32) (s : State) : Out := run32 0x1F x (.ffma (x.body 1#5)) s ffmaEff

/-- R50. I32 round to integral, RNE. -/
def execI32FrndRne (x : I32) (s : State) : Out := run32 0x20 x (.frnd (x.body1 0#5 0#8)) s frndEff

/-- R50. I32 round to integral, downward. -/
def execI32FrndRdn (x : I32) (s : State) : Out := run32 0x21 x (.frnd (x.body1 2#5 0#8)) s frndEff

/-- R50. I32 round to integral, upward. -/
def execI32FrndRup (x : I32) (s : State) : Out := run32 0x22 x (.frnd (x.body1 3#5 0#8)) s frndEff

/-- R50. I32 round to integral, toward zero. -/
def execI32FrndRtz (x : I32) (s : State) : Out := run32 0x23 x (.frnd (x.body1 1#5 0#8)) s frndEff

/-- R50. I32 packed binary16 add. -/
def execI32Hadd2F16 (x : I32) (s : State) : Out := run32 0x24 x (.hadd2 (x.body 0#5)) s hadd2Eff

/-- R50. I32 packed binary16 multiply. -/
def execI32Hmul2F16 (x : I32) (s : State) : Out := run32 0x25 x (.hmul2 (x.body 0#5)) s hmul2Eff

/-- R50. I32 accumulating packed binary16 fused multiply-add. -/
def execI32Hfma2F16 (x : I32) (s : State) : Out := run32 0x26 x (.hfma2 (x.body 0#5)) s hfma2Eff

/-- R50. I32 packed BF16 add. -/
def execI32Hadd2Bf16 (x : I32) (s : State) : Out := run32 0x27 x (.hadd2 (x.body 1#5)) s hadd2Eff

/-- R50. I32 packed BF16 multiply. -/
def execI32Hmul2Bf16 (x : I32) (s : State) : Out := run32 0x28 x (.hmul2 (x.body 1#5)) s hmul2Eff

/-- R50. I32 accumulating packed BF16 fused multiply-add. -/
def execI32Hfma2Bf16 (x : I32) (s : State) : Out := run32 0x29 x (.hfma2 (x.body 1#5)) s hfma2Eff

/-- R50. I32 conversion binary16 to binary32. -/
def execI32FcvtF32F16 (x : I32) (s : State) : Out := run32 0x2A x (.fcvt (x.body1 0#5 8#8)) s fcvtEff

/-- R50. I32 conversion BF16 to binary32. -/
def execI32FcvtF32Bf16 (x : I32) (s : State) : Out := run32 0x2B x (.fcvt (x.body1 0#5 16#8)) s fcvtEff

/-- R50. I32 conversion binary32 to binary16, RNE. -/
def execI32FcvtF16F32 (x : I32) (s : State) : Out := run32 0x2C x (.fcvt (x.body1 0#5 1#8)) s fcvtEff

/-- R50. I32 conversion binary32 to BF16, RNE. -/
def execI32FcvtBf16F32 (x : I32) (s : State) : Out := run32 0x2D x (.fcvt (x.body1 0#5 2#8)) s fcvtEff

/-- R50. I32 conversion E4M3 to binary32. -/
def execI32FcvtF32E4m3 (x : I32) (s : State) : Out := run32 0x2E x (.fcvt (x.body1 0#5 32#8)) s fcvtEff

/-- R50. I32 conversion E5M2 to binary32. -/
def execI32FcvtF32E5m2 (x : I32) (s : State) : Out := run32 0x2F x (.fcvt (x.body1 0#5 24#8)) s fcvtEff

/-- R50. I32 conversion signed 32-bit to binary32, RNE. -/
def execI32IcvtF32I32 (x : I32) (s : State) : Out := run32 0x30 x (.icvt (x.body1 0#5 72#8)) s icvtEff

/-- R50. I32 conversion unsigned 32-bit to binary32, RNE. -/
def execI32IcvtF32N32 (x : I32) (s : State) : Out := run32 0x31 x (.icvt (x.body1 0#5 88#8)) s icvtEff

/-- R50. I32 conversion binary32 to signed 32-bit, RTZ. -/
def execI32IcvtI32F32 (x : I32) (s : State) : Out := run32 0x32 x (.icvt (x.body1 1#5 132#8)) s icvtEff

/-- R50. I32 conversion binary32 to unsigned 32-bit, RTZ. -/
def execI32IcvtN32F32 (x : I32) (s : State) : Out := run32 0x33 x (.icvt (x.body1 1#5 133#8)) s icvtEff

/-- R50. I32 accumulating E4M3 four-element dot product. -/
def execI32Fdot4E4m3 (x : I32) (s : State) : Out := run32 0x34 x (.fdot4 (x.body 0#5)) s fdot4Eff

/-- R50. I32 accumulating E5M2 four-element dot product. -/
def execI32Fdot4E5m2 (x : I32) (s : State) : Out := run32 0x35 x (.fdot4 (x.body 1#5)) s fdot4Eff

/-- R50. I32 accumulating signed INT8 dot product. -/
def execI32Idot4I8 (x : I32) (s : State) : Out := run32 0x36 x (.idot4 (x.body 0#5)) s idot4Eff

/-- R50. I32 accumulating unsigned 8-bit dot product. -/
def execI32Idot4N8 (x : I32) (s : State) : Out := run32 0x37 x (.idot4 (x.body 3#5)) s idot4Eff

/-- R50. I32 packed binary16 minimumNumber. -/
def execI32Hmnx2MinF16 (x : I32) (s : State) : Out := run32 0x38 x (.hmnx2 (x.body 0#5)) s hmnx2Eff

/-- R50. I32 packed binary16 maximumNumber. -/
def execI32Hmnx2MaxF16 (x : I32) (s : State) : Out := run32 0x39 x (.hmnx2 (x.body 2#5)) s hmnx2Eff

/-- R50. I32 packed BF16 minimumNumber. -/
def execI32Hmnx2MinBf16 (x : I32) (s : State) : Out := run32 0x3A x (.hmnx2 (x.body 1#5)) s hmnx2Eff

/-- R50. I32 packed BF16 maximumNumber. -/
def execI32Hmnx2MaxBf16 (x : I32) (s : State) : Out := run32 0x3B x (.hmnx2 (x.body 3#5)) s hmnx2Eff

/-- R50. I32 binary32 add toward minus infinity. -/
def execI32FaddRdn (x : I32) (s : State) : Out := run32 0x3C x (.fadd (x.body 2#5)) s faddEff

/-- R50. I32 binary32 add toward plus infinity. -/
def execI32FaddRup (x : I32) (s : State) : Out := run32 0x3D x (.fadd (x.body 3#5)) s faddEff

/-- R50. I32 binary32 multiply toward minus infinity. -/
def execI32FmulRdn (x : I32) (s : State) : Out := run32 0x3E x (.fmul (x.body 2#5)) s fmulEff

/-- R50. I32 binary32 multiply toward plus infinity. -/
def execI32FmulRup (x : I32) (s : State) : Out := run32 0x3F x (.fmul (x.body 3#5)) s fmulEff

/-- R139. A special function's result is written, in the row's issue order and no sooner than 20 clocks after issue; an
enabled condition traps precisely at it. -/
def execSfuResultWrite (w n : Nat) (s : State) : Out :=
  match (s.wave w).bind fun x => (x.pending n).map fun p => (x, p) with
  | none => .next s
  | some (x, p) =>
    match p.work with
    | .sfu ws t =>
      let first := s.waves.all fun q => deviceRow q.1 != deviceRow w || q.2.pend.all fun r =>
        !decide (r.stamp < n) || (match r.work with | .sfu .. => false | _ => true)
      if s.clock < p.due || !first then .next s
      else
        match t with
        | none => .next (s.putWave w (x.bind n s.clock ws))
        | some t =>
          let x1 := x.complete n
          .next (s.lateTrap w x1 x1 (mkFrame s w x1 t p.con p.pc p.iwords x1.stepping false false none 0))
    | _ => .next s

end Sys2Proof.Machine
end

