-- ==== Sys2Proof/Machine/Sync.lean ====
section
/-! DEFINITION. Sync.lean: barriers, semaphores and the monitor (08 R193 to R200; 03 R95, R96; 15 R321). -/

namespace Sys2Proof.Machine

/-! ## Barriers (R193 to R198) -/

/-- The barrier an instruction names, or SYNC_RANGE (R193). -/
def Issue.barrier (c : Issue) (s : State) (id : Nat) (f : Nat → Eff) : Eff :=
  match s.barKey (coreOf c.w) c.x.blk id with
  | none => .raise .syncRange c.con
  | some key => f key

/-- A barrier the wave is enrolled in, from now on (R95, R195). -/
def Issue.enrol (c : Issue) (s : State) (id : Nat) (f : State → Nat → Eff) : Eff :=
  c.barrier s id fun key =>
    match c.x.enrolled id with
    | none => .raise .barrierLimit c.act
    | some e => f (s.modWave c.w fun x => { x with enrol := e }) key

/-- Threads of the wave's block: the target a barrier starts with (R193). -/
def Issue.threads (c : Issue) (s : State) : Nat := ((s.block c.x.blk).map Block.threads).getD 1

/-- Whether a lane of any wave is parked on a barrier. -/
def State.barParked (s : State) (key : Nat) : Bool :=
  s.waves.any fun p => p.2.parks.any fun q => match q.kind with | .bar k _ => k == key | _ => false

/-- R195. Set a barrier's target and clear its phase and counts. -/
def execBarinit (x : Body) (s : State) : Out :=
  run (.barinit x) s fun c s =>
    c.barrier s (c.s s c.b.a.toNat).toNat fun key =>
      let t := c.sB s
      if t = 0 ∨ t > 8192 then .raise .illegalOperand c.act
      else if s.barParked key then .raise .barrierBusy c.con
      else
        let s1 := s.putBar key { target := t, phase := 0, arr := 0, dep := 0, full := false, startClk := s.clock }
        .go { s := s1.mapWaves fun _ x => { x with arrivals := x.arrivals.filter fun p => p.1 / 32 != key } }

/-- R195. Enrol the wave in a barrier. -/
def execBarenrol (x : Body) (s : State) : Out :=
  run (.barenrol x) s fun c s => c.enrol s (c.sA s) fun s _ => .go { s := s }

/-- R196. Arrive at a barrier without waiting. -/
def execBararv (x : Body) (s : State) : Out :=
  run (.bararv x) s fun c s => c.enrol s (c.sA s) fun s key =>
    c.settled (.go { s := s.arriveAll c.w key c.lanes false })

/-- The phase each contributor waits for: that of its most recent arrival, else the current one (R197). -/
def Wave.awaited (x : Wave) (key phase lane : Nat) : Nat := (mget x.arrivals (arrKey key lane)).getD phase

/-- Contributors parked until the phases they wait for complete; those whose phase has completed acquire and go on. While the cluster's stop holds releases they park on a
completed phase as well, once they have arrived (R197, R321). -/
def Issue.parkBar (c : Issue) (s : State) (key : Nat) (held : Bool) : Eff :=
  let phase := (s.bar key (c.threads s)).phase
  let x := (s.wave c.w).getD c.x
  let waiting := c.lanes.filter fun l => held || decide (x.awaited key phase l ≥ phase)
  let passed := (c.lanes.filter fun l => !waiting.contains l).map fun l => x.awaited key phase l
  let s := if passed.isEmpty then s else s.acquireAt (coreOf c.w) (barScope key) ((s.bar key (c.threads s)).before passed)
  if waiting.isEmpty then .go { s := s }
  else
    let phases := waiting.foldl (fun a l => ladd a (x.awaited key phase l)) []
    .go { s := s.modWave c.w fun y =>
            phases.foldl (fun (y : Wave) ph =>
              y.park (maskOf fun l => waiting.contains l && x.awaited key phase l == ph) s.stamp (.bar key ph)) y
          work := some (.park none) }

/-- R197. Wait for the phase of the latest arrival. -/
def execBarwait (x : Body) (s : State) : Out :=
  run (.barwait x) s fun c s => c.enrol s (c.sA s) fun s key => c.parkBar s key false

/-- R197. Arrive and wait. -/
def execBarsync (x : Body) (s : State) : Out :=
  run (.barsync x) s fun c s => c.enrol s (c.sA s) fun s key =>
    c.settled (c.parkBar (s.arriveAll c.w key c.lanes false) key (s.barHeld c.w c.x))

/-- R198. Read a barrier's counts, one clock after issue. -/
def execBarq (x : Body) (s : State) : Out :=
  run (.barq x) s fun c s =>
    c.barrier s (c.sA s) fun key => .go { s := s, work := some (.barq key c.dstS) }

/-- R196. A phase whose start count is at least its target completes in the clock after it starts. No arrival completes it, so no core is the
completing one: that every core of the set then takes the free delay of R282 is the model's choice (log entry 38). -/
def execBarrierStartComplete (bar : Nat) (s : State) : Out :=
  match mget s.co.bars bar with
  | some b =>
    if b.full ∧ b.startClk < s.clock then
      let b' := b.next s.clock
      .next ((s.putBar bar b').releaseBar bar b'.phase (s.barDelay bar none))
    else .next s
  | none => .next s

/-! ## Semaphores (R199) -/

/-- Key of a block's semaphore on a core. -/
def semKeyOf (blk core id : Nat) : Nat := (blk * 128 + core) * 64 + id

/-- A semaphore of the block's allocation (R199). -/
def State.semKey (s : State) (core blk id : Nat) : Option Nat :=
  match s.block blk with
  | some b => if id < b.sems ∧ id < 64 then some (semKeyOf blk core id) else none
  | none => none

/-- The semaphore an instruction names, or SYNC_RANGE. -/
def Issue.semaphore (c : Issue) (s : State) (f : Nat → Eff) : Eff :=
  match s.semKey (coreOf c.w) c.x.blk (c.s s c.b.a.toNat).toNat with
  | none => .raise .syncRange c.con
  | some key => f key

/-- reached(value, t) of R199. -/
def reached (v t : Nat) : Bool := decide ((v + 2 ^ 32 - t) % 2 ^ 32 < 2 ^ 31)

/-- A semaphore takes a value, and every group whose threshold it reaches is released (R199). -/
def State.setSem (s : State) (key v : Nat) : State :=
  ({ s with co := { s.co with sems := cput s.co.sems key 0#32 (BitVec.ofNat 32 v) } } : State).unparkAll
    (fun _ p => match p.kind with | .sem k t => k == key && reached (v % 2 ^ 32) t | _ => false) none

def State.sem (s : State) (key : Nat) : Nat := (cget s.co.sems key 0#32).toNat

/-- R199. Add to a semaphore as a release at core scope. -/
def execSemadd (x : Body) (s : State) : Out :=
  run (.semadd x) s fun c s => c.semaphore s fun key =>
    let n := c.sB s
    let s1 := s.releaseEager (coreOf c.w) 1
    c.settled (.go { s := s1.setSem key ((s1.sem key + n) % 2 ^ 32) })

/-- R199. Wait until a semaphore has reached a threshold. -/
def execSemwait (x : Body) (s : State) : Out :=
  run (.semwait x) s fun c s => c.semaphore s fun key =>
    let t := c.sB s
    if reached (s.sem key) t then .go { s := s }
    else .go { s := s.modWave c.w fun x => x.park c.con s.stamp (.sem key t), work := some (.park none) }

/-- R199. Set a semaphore. -/
def execSemset (x : Body) (s : State) : Out :=
  run (.semset x) s fun c s => c.semaphore s fun key => .go { s := s.setSem key (c.sB s) }

/-! ## Monitor (R200) -/

/-- R200. Arm the monitor on a line. -/
def execMonarm (x : Body) (s : State) : Out :=
  run (.monarm x) s fun c s =>
    match s.checkGlobal (coreOf c.w) (s.ctxNo c.x) c.x.blk { kind := .load, align := 1, win := false }
        [{ lane := c.low, va := c.addr s c.low, n := 1 }] with
    | (s, .error t) => c.fault s { t with mask := c.con }
    | (s, .ok ps) =>
      let pa := match ps.head? with | some { loc := .mem pa, .. } => pa | _ => 0
      .go { s := s.modWave c.w fun x => { x with mon := { line := some (lineOf pa), event := false, resumed := false } } }

/-- R200. Wait for the monitor. -/
def execMonwait (x : Body) (s : State) : Out :=
  run (.monwait x) s fun c s =>
    let m := c.x.mon
    let at' := fun (v : Nat) =>
      Eff.go { s := s.modWave c.w fun x => { x with mon := {} }, work := some (.bound (c.toSD v)) }
    let t := (c.s s c.b.b.toNat).toNat
    if m.resumed then at' 2
    else if m.line.isNone then at' 3
    else if m.event then at' 0
    else
      .go { s := s.modWave c.w fun x => x.park c.con s.stamp (.mon (if t = 0 then none else some (s.clock + 1024 * t)))
            work := some (.park (some c.dstS)) }

/-- A parked MONWAIT returns a status and disarms the monitor. -/
def Wave.monReturn (x : Wave) (clock v : Nat) : Wave :=
  { x.unpark clock (fun p => match p.kind with | .mon _ => true | _ => false) (some v) with mon := {} }

/-- R200. An event, or a restore, ends a MONWAIT. Where nothing has been written, the device ceases tracking the line, which is
an event too. -/
def execMonitorEvent (w : Nat) (s : State) : Out :=
  match s.wave w with
  | none => .next s
  | some x =>
    if x.parks.any fun p => match p.kind with | .mon _ => true | _ => false then
      .next (s.putWave w (x.monReturn s.clock (if x.mon.resumed then 2 else 0)))
    else if x.mon.line.isSome then .next (s.putWave w { x with mon := { x.mon with event := true } })
    else .next s

/-- Whether a MONWAIT's time has run out before any event (R200). -/
def Wave.monExpired (x : Wave) (clock : Nat) : Bool :=
  (x.parks.any fun p => match p.kind with | .mon (some t) => decide (t ≤ clock) | _ => false) && !x.mon.event && !x.mon.resumed

/-- R200. A MONWAIT's time runs out first. -/
def execMonwaitTimeout (w : Nat) (s : State) : Out :=
  match s.wave w with
  | none => .next s
  | some x => if x.monExpired s.clock then .next (s.putWave w (x.monReturn s.clock 1)) else .next s

end Sys2Proof.Machine
end

