-- ==== Sys2Proof/Machine/Copy.lean ====
section
/-! DEFINITION. Copy.lean: the copy engine, its rings, batches, and the collectives of the fabric (08 R201 to R211; 11
R266; 23 R441 to R446). -/

namespace Sys2Proof.Machine

/-! ## An entry's fields (R203, R205) -/

def Copy.word (e : Copy) (i : Nat) : Nat := e.fields.getD i 0
def Copy.opc (e : Copy) : Nat := e.word 0 % 256
def Copy.shape (e : Copy) : Bool := (e.word 0).testBit 8
def Copy.sem (e : Copy) : Bool := (e.word 0).testBit 9
def Copy.rcode (e : Copy) : Nat := bitsOf (e.word 0) 19 16
def Copy.rtype (e : Copy) : Nat := bitsOf (e.word 0) 23 20
def Copy.scope (e : Copy) : Nat := bitsOf (e.word 0) 26 24
def Copy.perm (e : Copy) : Nat := e.word 1 % 65536
def Copy.semid (e : Copy) : Nat := bitsOf (e.word 1) 23 16
def Copy.src (e : Copy) : Nat := e.word 2 + 2 ^ 32 * e.word 3
def Copy.dst (e : Copy) : Nat := e.word 4 + 2 ^ 32 * e.word 5
def Copy.len (e : Copy) : Nat := e.word 6
def Copy.seminc (e : Copy) : Nat := e.word 7 % 65536

/-- The shape record: its byte-sized fields and word `i`. -/
def Copy.ecode (e : Copy) : Nat := e.word 8 % 256
def Copy.ndim (e : Copy) : Nat := e.word 8 / 256 % 256
def Copy.ext (e : Copy) (d : Nat) : Nat := if d < e.ndim then e.word (10 + 3 * d) else 1
def Copy.sstr (e : Copy) (d : Nat) : Int := signedOf 32 (e.word (11 + 3 * d))
def Copy.dstr (e : Copy) (d : Nat) : Int := signedOf 32 (e.word (12 + 3 * d))

/-- π(k) of R206. -/
def Copy.digit (e : Copy) (k : Nat) : Nat := e.perm / 8 ^ k % 8

/-- The element size, and how many elements (R205). -/
def Copy.esize (e : Copy) : Nat :=
  if e.shape then 2 ^ e.ecode else if e.opc = 2 then 4 else 1
def Copy.total (e : Copy) : Nat :=
  if e.shape then (List.range 5).foldl (fun a d => a * e.ext d) 1 else if e.opc = 2 then e.len / 4 else e.len

/-- Bytes of a reduction type (R207). -/
def rtypeSize (t : Nat) : Nat := match t with | 0 | 1 | 4 => 4 | 2 | 3 => 8 | 5 | 6 => 2 | _ => 0

/-- A reduction's code and type are those of R207. -/
def redOk (code ty : Nat) : Bool :=
  decide (1 ≤ code) && decide (code ≤ 5) && decide (ty ≤ 6) && !(decide (ty ≥ 4) && decide (code ≥ 4))

/-- One reduced element (R207, R443). -/
def redVal (code ty a b : Nat) : Nat :=
  let w := 8 * rtypeSize ty
  if ty ≥ 4 then
    let f : Fmt := match ty with | 4 => .f32 | 5 => .bf16 | _ => .f16
    match code with
    | 1 => (fpAdd f .rne false a b).1
    | 2 => (fpMinMax f false a b).1
    | _ => (fpMinMax f true a b).1
  else
    let s := ty % 2 == 1
    let less := if s then decide (signedOf w a < signedOf w b) else decide (a < b)
    match code with
    | 1 => (a + b) % 2 ^ w
    | 2 => if less then a else b
    | 3 => if less then b else a
    | 4 => a &&& b
    | _ => a ||| b

/-! ## Moving bytes -/

/-- Any bytes of a location that a core has written become poisoned (R269). -/
def State.markBad (s : State) (core : Nat) (l : Loc) (n : Nat) : State :=
  (List.range n).foldl (fun s i =>
    match l.plus i with
    | .mem pa => s.poisonCopy core pa
    | .sp c off blk =>
      match s.spKey c off blk with
      | some k => { s with co := { s.co with spBad := mput s.co.spBad (k / 2) true } }
      | none => s
    | .reg w uid r lane byte =>
      match s.regTarget w uid r with
      | some x => s.vwrite w x r lane (s.vread w x r lane) (s.vbad w x r lane ||| 2 ^ (byte / 2))
      | none => s
    | .grid g uid off =>
      match s.gridTarget g uid with
      | some h => s.putGrid g (h.markWritten off)
      | none => s) s

/-- The block whose register, region or grid a window location is. -/
def State.locBlock (s : State) (l : Loc) : Option Nat :=
  match l with
  | .mem _ => none
  | .sp _ _ blk => some blk
  | .reg w _ _ _ _ => (s.wave w).map Wave.blk
  | .grid g uid _ => (s.gridTarget g uid).map HGrid.blk

/-- Where a part of an element lies, or the STATUS it fails with (R204, R208); a failing translation goes to the fault
queue (R404). -/
def State.engineLoc (s : State) (core ctx blk : Nat) (shut : List Nat) (k : AccKind) (va n : Nat) : State × Except Nat Loc :=
  if inWindow va then
    match s.windowLoc blk va n with
    | some l => if (s.locBlock l).any fun b => shut.contains b then (s, .error 0x87) else (s, .ok l)
    | none => (s, .error 0x87)
  else
    match s.translate core ctx va k with
    | (s, .ok pa) => (s, .ok (.mem pa))
    | (s, .error r) => (s.logFault ctx k r va, .error (if isPageFault r then 0x85 else 0x86))

/-- The parts of an element, located. -/
def State.engineLocs (s : State) (core ctx blk : Nat) (shut : List Nat) (k : AccKind) (va n : Nat) : State × Except Nat (List (Loc × Nat)) :=
  (splitParts false 32 va n).foldl (fun a p =>
    match a with
    | (s, .error e) => (s, .error e)
    | (s, .ok ls) =>
      match s.engineLoc core ctx blk shut k (p.1 % 2 ^ 64) p.2 with
      | (s, .error e) => (s, .error e)
      | (s, .ok l) => (s, .ok (ls ++ [(l, p.2)]))) (s, .ok [])

/-- Pieces for watchpoints. -/
def locPieces (va : Nat) (ls : List (Loc × Nat)) : List Piece :=
  (ls.foldl (fun (a : Nat × List Piece) p => (a.1 + p.2, a.2 ++ [{ lane := 0, off := a.1, len := p.2, va := va + a.1, loc := p.1 }])) (0, [])).2

/-- The bytes at located parts, and whether any is poisoned. -/
def State.engineRead (s : State) (core : Nat) (ls : List (Loc × Nat)) : List Byte × List Bool :=
  (ls.flatMap fun p => s.locBytes core p.1 p.2, ls.flatMap fun p => (List.range p.2).map fun i => s.locBad core (p.1.plus i) 1)

/-- Lines filled before an engine reads them. -/
def State.engineFill (s : State) (core : Nat) (ls : List (Loc × Nat)) : State :=
  ls.foldl (fun s p => s.prepareRead core false p.1) s

/-- Bytes written at located parts, poison with them. -/
def State.engineWrite (s : State) (core : Nat) (ls : List (Loc × Nat)) (bs : List Byte) (bad : List Bool) : State :=
  (ls.foldl (fun (a : State × Nat) p =>
    let s1 := a.1.locWrite core p.1 ((bs.drop a.2).take p.2)
    let s2 := (List.range p.2).foldl (fun s i => if bad.getD (a.2 + i) false then s.markBad core (p.1.plus i) 1 else s) s1
    (s2, a.2 + p.2)) (s, 0)).1

/-- Index vector of element i, dimension 0 fastest. -/
def Copy.index (e : Copy) (i : Nat) : List Nat :=
  ((List.range 5).foldl (fun (a : Nat × List Nat) d => (a.1 / e.ext d, a.2 ++ [a.1 % e.ext d])) (i, [])).2

/-- Source and destination addresses of element i (R206). -/
def Copy.addrs (e : Copy) (i : Nat) : Nat × Nat :=
  if e.shape then
    let v := e.index i
    let at' := fun (base : Nat) (o : Int) => wrapInt 64 ((base : Int) + e.esize * o)
    (at' e.src ((List.range e.ndim).foldl (fun (a : Int) d => a + v.getD d 0 * e.sstr d) 0),
     at' e.dst ((List.range e.ndim).foldl (fun (a : Int) k => a + v.getD (e.digit k) 0 * e.dstr k) 0))
  else ((e.src + e.esize * i) % 2 ^ 64, (e.dst + e.esize * i) % 2 ^ 64)

/-- Whether an entry of COPY or FILL reads or writes a window range (R266). -/
def Copy.windowed (e : Copy) : Bool :=
  (List.range e.total).any fun i => (e.opc != 2 && onWindow (e.addrs i).1 e.esize) || onWindow (e.addrs i).2 e.esize

/-- A STATUS with which an entry moves nothing more (R208). -/
def failing (st : Nat) : Bool := decide (0x80 ≤ st) && st != 0x88

/-- The bytes of an element read, with those that are poisoned, or the STATUS it fails with (R206). -/
def State.copyRead (s : State) (core ctx blk : Nat) (e : Copy) (i : Nat) : State × Except Nat (List Byte × List Bool) :=
  if e.opc = 2 then
    (s, .ok ((List.range e.esize).map fun j => BitVec.ofNat 8 (e.word 2 / 256 ^ (j % 4)), List.replicate e.esize false))
  else
    match s.engineLocs core ctx blk e.shut .load (e.addrs i).1 e.esize with
    | (s, .error x) => (s, .error x)
    | (s, .ok ls) =>
      let s1 := s.engineFill core ls
      (s1.watch none ctx (locPieces (e.addrs i).1 ls) false true, .ok (s1.engineRead core ls))

/-- The bytes of an element written, or reduced into the destination, and its STATUS (R206 to R208). -/
def State.copyWrite (s : State) (core ctx blk : Nat) (e : Copy) (i : Nat) (bs : List Byte) (bad : List Bool) : State × Nat :=
  let red := e.opc = 1 ∧ e.rcode ≠ 0
  match s.engineLocs core ctx blk e.shut (if red then .rmw else .store) (e.addrs i).2 e.esize with
  | (s, .error x) => (s, x)
  | (s, .ok ls) =>
    let any := bad.any id
    let st := if any then 0x88 else 1
    if red then
      let ps := locPieces (e.addrs i).2 ls
      let s1 := (memLines ps).foldl (fun s l => s.atSlice core l) s
      let as := memAddrs ps
      if as.any fun a => s1.m.poisoned a 1 then (s1.logAtomic core (.mem (as.headD 0)), st)
      else
        let new := leBytesOf e.esize (redVal e.rcode e.rtype (leVal (as.map s1.m.lower)) (leVal bs))
        let s2 := s1.storeThrough core (as.zip new) (s1.m.relsAt as)
        let s3 := if any then as.foldl State.poison s2 else s2
        (s3.watch none ctx ps true true, st)
    else ((s.engineWrite core ls bs bad).watch none ctx (locPieces (e.addrs i).2 ls) true false, st)

/-- The reads and writes of an entry's elements, by element, in an order of free choice: the first of an element is its read (R206). -/
def Copy.order (e : Copy) : List Nat :=
  ((List.range 34).foldl (fun l k => let p := l.partition (Config.orderBit e.cut k); p.2 ++ p.1) (List.range (2 * e.total))).map (· / 2)

/-- One of them: an element that has not been read is read, one that has been is written. After a failure nothing is moved (R208). -/
def State.copyAct (core ctx blk : Nat) (a : State × Copy) (i : Nat) : State × Copy :=
  let e := a.2
  if failing e.status then a
  else
    match e.held.find? fun h => h.1 == i with
    | none =>
      match a.1.copyRead core ctx blk e i with
      | (s, .error x) => (s, { e with status := x })
      | (s, .ok (bs, bad)) => (s, { e with held := (i, bs, bad) :: e.held })
    | some (_, bs, bad) =>
      match a.1.copyWrite core ctx blk e i bs bad with
      | (s, x) => (s, { e with held := e.held.filter fun h => h.1 != i, status := if x = 1 then e.status else x })

/-- The next `n` of an entry's reads and writes. -/
def State.copyActs (s : State) (core ctx blk : Nat) (e : Copy) (n : Nat) : State × Copy :=
  match ((e.order.drop e.at').take n).foldl (State.copyAct core ctx blk) (s, e) with
  | (s, e1) => (s, { e1 with at' := e.at' + n })

/-- What an entry has still to do. -/
def Copy.left (e : Copy) : Nat := if failing e.status then 0 else 2 * e.total - e.at'

/-! ## The checks of an entry -/

/-- The shape record's fields (R205). -/
def Copy.shapeOk (e : Copy) : Bool :=
  decide (e.ecode ≤ 4) && decide (1 ≤ e.ndim) && decide (e.ndim ≤ 5) && e.word 8 / 65536 == 0 && e.word 9 == 0
    && (List.range e.ndim).all (fun d => e.word (10 + 3 * d) != 0) && decide (e.total ≤ 2 ^ 32)
    && e.word 25 == 0 && e.word 26 == 0 && e.word 27 == 0

/-- R206. -/
def Copy.permOk (e : Copy) : Bool :=
  decide (e.perm < 2 ^ 15) && (List.range 5).all fun k =>
    if k < e.ndim then (List.range e.ndim).any fun j => e.digit j == k else e.digit k == k

/-- The addresses of a reduction copy's elements: every source lies in the window, and no destination (R207; log entry 32). -/
def Copy.redAddrs (e : Copy) : Bool :=
  (List.range e.total).all fun i => inWindow (e.addrs i).1 && !onWindow (e.addrs i).2 e.esize

/-- R207. An entry without RCODE, and a FILL whatever its RCODE, asks for no reduction: for FILL the spec gives RCODE no meaning, and the
model ignores it (log entry 32). -/
def Copy.opOk (e : Copy) : Bool :=
  e.opc != 1 || e.rcode == 0 || (redOk e.rcode e.rtype && e.shape && e.esize == rtypeSize e.rtype && e.redAddrs)

/-- The STATUS with which an entry of COPY or FILL fails before it moves anything; 1 for none. Where several checks fail the spec gives no
order: BAD_OPCODE comes first, then BAD_FIELD, BAD_PERM and BAD_OP (log entry 32). -/
def Copy.check (e : Copy) (shapeIn semIn : Bool) : Nat :=
  if e.word 7 / 65536 ≠ 0 ∨ e.scope = 7 ∨ (e.sem ∧ !semIn) then 0x82
  else if e.shape then
    if e.len % 8 ≠ 0 ∨ !shapeIn ∨ !e.shapeOk ∨ (e.opc = 2 ∧ e.esize % 4 ≠ 0) then 0x82
    else if !e.permOk then 0x83
    else if !e.opOk then 0x84 else 1
  else if e.opc = 2 ∧ e.len % 4 ≠ 0 then 0x82
  else if !e.opOk then 0x84 else 1

/-- Bytes of a collective's source and destination (R441). -/
def collLens (opc n : Nat) : Nat × Nat :=
  match opc with | 0x10 => (n, n) | 0x11 => (n, 2 * n) | 0x12 => (2 * n, n) | 0x13 => (n, 0) | _ => (0, n)

/-- The STATUS with which a collective fails when it is taken (R442); 1 for none. -/
def Copy.collCheck (e : Copy) (held up : Bool) : Nat :=
  let n := e.len
  let red := e.opc = 0x10 ∨ e.opc = 0x12
  let l := collLens e.opc n
  let win := fun a m => decide (m > 0) && decide (a < windowBase + 0x20000000) && decide (windowBase < a + m)
  if e.word 7 / 65536 ≠ 0 ∨ bitsOf (e.word 0) 31 27 ≠ 0 ∨ bitsOf (e.word 0) 15 10 ≠ 0 ∨ e.shape ∨ e.scope ≠ 6 ∨ n = 0
      ∨ (e.opc = 0x13 ∧ e.dst ≠ 0) ∨ (e.opc = 0x14 ∧ e.src ≠ 0) ∨ win e.src l.1 ∨ win e.dst l.2 then 0x82
  else if (if red then !(redOk e.rcode e.rtype) || n % rtypeSize e.rtype != 0 else e.rcode != 0 || decide (e.rtype > 6)) then 0x84
  else if l.1 > 0 ∧ l.2 > 0 ∧ e.src < e.dst + l.2 ∧ e.dst < e.src + l.1 ∧ !(e.opc = 0x10 ∧ e.src = e.dst) then 0x82
  else if held then 0x82
  else if !up then 0x89
  else 1

/-! ## Taking and completing entries -/

/-- Offset of entry k in the region (R201). -/
def Block.slotOff (b : Block) (k : Nat) : Nat := b.rbase * 32 + 32 + 32 * (k % 2 ^ b.rlog)

/-- The wave that published entry k (R202). -/
def Ring.publisher (r : Ring) (k : Nat) : Nat := ((r.credits.find? fun c => decide (k < c.1)).map Prod.snd).getD 0

/-- A header word of the ring written as a pass (R201). What a program's own store leaves in a header word that it may only read, the
spec does not say: here it stays until the engine writes the word next (log entry 32). -/
def State.ringHeader (s : State) (core blk off v : Nat) : State :=
  match s.block blk with
  | some b => s.spWrite core (b.rbase * 32 + off) blk (leBytesOf 4 v)
  | none => s

/-- Whether a location belongs to a block: its region, its waves' registers, its grids. -/
def State.locOf (s : State) (id : Nat) (l : Loc) : Bool := s.locBlock l == some id

/-- What may be pending when a save comes to rest: what R448 names, what the drain of the grid completes, and an HREL that
waits for a query (R311). -/
def State.rests (s : State) (k : Work) : Bool :=
  match k with
  | .grid .. => true
  | .hrel g => decide ((mgetD s.wk.hgrids g {}).queries > 0)
  | k => k.kept

/-- The first two steps of a block's save are over: its waves have stopped, and nothing that they issued and no window store of another
wave to the block is on its way (R265, R448, R449). -/
def State.stilled (s : State) (id : Nat) : Bool :=
  (s.waves.all fun p =>
    (p.2.blk != id || ((p.2.run == .saving || p.2.run == .stopped) && p.2.sq.isEmpty && p.2.pend.all fun q => s.rests q.work))
      && (p.2.blk == id ||
        (!(p.2.sq.any fun e => e.puts.any fun q => s.locOf id q.at'.loc)
          && !(p.2.pend.any fun q => q.work.reach.any fun a => s.locOf id a.1))))
    && (s.wk.hgrids.all fun p => p.2.state == 0 || p.2.blk != id || p.2.state == 1 || (p.2.state == 2 && p.2.sw))

/-- The next entry of a block's ring on a core may be taken (R202, R265, R442). -/
def State.mayTake (s : State) (core blk : Nat) : Bool :=
  match s.block blk with
  | none => false
  | some b =>
    let r := s.ring blk core
    !b.saving && decide (r.taken < r.notify) && decide (r.taken < r.done + 2 ^ b.rlog) && !(r.busy.any fun e => e.coll.isSome)

/-- Key of a collective: context and tag. -/
def collKey (ctx tag : Nat) : Nat := ctx * 65536 + tag

/-- R202 to R207, R442. The engine reads the next entry of a ring and starts it. An entry taken once the third step of a block's save has
begun may not touch that block (R266). -/
def execCopyEntryTake (core blk : Nat) (s : State) : Out :=
  match s.block blk with
  | none => .next s
  | some b =>
    if !s.mayTake core blk then .next s
    else
      let r := s.ring blk core
      let k := r.taken
      let off := b.slotOff k
      let ws := (List.range 8).map fun i => s.spNum core blk (off + 4 * i) 4
      let shapeOff := ws.getD 6 0
      let size := ((b.region core).getD (0, 0)).2
      let sh := if (ws.getD 0 0).testBit 8 then (List.range 20).map fun i => s.spNum core blk (shapeOff + 4 * i) 4 else []
      let e : Copy := { idx := k, fields := ws ++ sh, status := 1, cut := s.free, coll := none, pub := r.publisher k
                        shut := s.wk.blocks.filterMap fun p => if p.2.saving && s.stilled p.1 then some p.1 else none }
      let semIn := (s.semKey core blk e.semid).isSome
      let coll := decide (0x10 ≤ e.opc) && decide (e.opc ≤ 0x14)
      let key := collKey b.ctx e.perm
      let st :=
        if coll then (if e.sem && !semIn then 0x82 else e.collCheck (mget s.pk.colls key).isSome (s.pk.twin.state == 2))
        else if e.opc = 1 ∨ e.opc = 2 then e.check (decide (shapeOff + 80 ≤ size)) semIn
        else 0x81
      if coll ∧ s.pk.twin.state = 1 ∧ st = 0x89 then .next s        -- it waits at the engine (R438)
      else
        let s3 := (s.ringHeader core blk 4 (k + 1)).bump
        let e := { e with status := st, coll := if coll ∧ st = 1 then some key else none }
        let r3 := s3.ring blk core
        let s4 := s3.putRing blk core { r3 with taken := k + 1, busy := r3.busy ++ [e] }
        if e.coll.isSome then
          let c : Coll := { ctx := b.ctx, tag := e.perm, core := core, blk := blk, idx := k, opc := e.opc, rcode := e.rcode
                            rtype := e.rtype, src := e.src, dst := e.dst, n := e.len, peer := none }
          .next { s4 with pk := { s4.pk with colls := mput s4.pk.colls key c } }
        else .next s4

/-- An index counted off in ranges of credited or sealed entries. -/
def countOff (idx : Nat) (rs : List (Nat × Nat × Nat)) : List (Nat × Nat × Nat) :=
  rs.map fun r => if r.1 ≤ idx ∧ idx < r.2.1 then (r.1, r.2.1, r.2.2 - 1) else r

/-- An entry's completion: release, semaphore, STATUS, DONE and FAILED, and its wave's batch (R201, R208, R209, R210). -/
def State.finishCopy (s : State) (core blk : Nat) (e : Copy) (st : Nat) : State :=
  match s.block blk with
  | none => s
  | some b =>
    let s1 := s.releaseEager core e.scope
    let s2 := match e.sem, s1.semKey core blk e.semid with
      | true, some key => s1.setSem key ((s1.sem key + e.seminc) % 2 ^ 32)
      | _, _ => s1
    let s3 := s2.spWrite core (b.slotOff e.idx + 7) blk [BitVec.ofNat 8 st]
    let r := s3.ring blk core
    let failed := if st ≥ 0x80 then r.failed + 1 else r.failed
    let r' := { r with done := r.done + 1, failed := failed, busy := r.busy.filter fun x => x.idx != e.idx }
    let s4 := ((s3.putRing blk core r').ringHeader core blk 8 (r.done + 1)).ringHeader core blk 12 failed
    s4.mapWaves fun _ x =>
      if x.uid = e.pub then
        { x with credit := countOff e.idx x.credit, sealed := x.sealed.map fun q => (q.1, countOff e.idx q.2) }
      else x

/-- Bytes of a saved region replaced. -/
def putMap (m : Map Byte) (off : Nat) (bs : List Byte) : Map Byte := (atAddrs off bs).foldl (fun m p => cput m p.1 0#8 p.2) m

/-- An entry of a saved block completes in its image: STATUS, DONE, FAILED, its increment and its batch (R266). -/
def Saved.finishCopy (v : Saved) (core : Nat) (e : Copy) (st : Nat) : Saved :=
  let pos := v.block.cores.idxOf core
  let b := v.block
  match mget v.rings pos with
  | none => v
  | some r =>
    let failed := if st ≥ 0x80 then r.failed + 1 else r.failed
    let r' := { r with done := r.done + 1, failed := failed, busy := r.busy.filter fun x => x.idx != e.idx }
    let sp := (v.sp.getD pos ([], [])).1
    let sp' := putMap (putMap (putMap sp (b.slotOff e.idx + 7) [BitVec.ofNat 8 st]) (b.rbase * 32 + 8) (leBytesOf 4 (r.done + 1)))
      (b.rbase * 32 + 12) (leBytesOf 4 failed)
    let sems := v.sems.map fun q =>
      if e.sem && q.1 == pos && q.2.1 == e.semid then (q.1, q.2.1, q.2.2 + BitVec.ofNat 32 e.seminc) else q
    { v with
      rings := mput v.rings pos r'
      sp := v.sp.set pos (sp', (v.sp.getD pos ([], [])).2)
      sems := sems
      waves := v.waves.map fun p =>
        if p.2.uid = e.pub then (p.1, { p.2 with credit := countOff e.idx p.2.credit, sealed := p.2.sealed.map fun q => (q.1, countOff e.idx q.2) })
        else p }

/-- An entry of a saved block completes: its release, and everything else in the image (R209, R266, R380). -/
def State.finishSaved (s : State) (core blk : Nat) (v : Saved) (e : Copy) (st : Nat) : State :=
  let s1 := s.releaseEager core e.scope
  { s1 with wk := { s1.wk with saved := mput s1.wk.saved blk (v.finishCopy core e st) } }

/-- A taken entry of a saved block, by the core it was taken on. -/
def Saved.entry (v : Saved) (core idx : Nat) : Option Copy :=
  (mget v.rings (v.block.cores.idxOf core)).bind fun (r : Ring) => r.busy.find? fun e => e.idx == idx

/-- Everything that is left of an entry that was taken, and its STATUS. -/
def State.copyRest (s : State) (core ctx blk : Nat) (e : Copy) : State × Nat :=
  match s.copyActs core ctx blk e e.left with | (s, e) => (s, e.status)

/-- A ring in which an entry that was taken stands as it does now. -/
def Ring.progress (r : Ring) (e : Copy) : Ring := { r with busy := r.busy.map fun x => if x.idx = e.idx then e else x }

/-- The same in a saved block. -/
def Saved.progress (v : Saved) (core : Nat) (e : Copy) : Saved :=
  { v with rings := mmod v.rings (v.block.cores.idxOf core) fun (r : Ring) => r.progress e }

/-- How much of what an entry has left is done at one moment: a free choice, all of it among the answers (R206; log entry 1). -/
def Copy.chunk (e : Copy) (free : Nat) : Nat := e.left - Config.choice free % (e.left + 1)

/-- R206, R209. An entry goes on: some of what is left of it is read and written. When nothing is left, or it has failed, it completes: its
release, its increment and its STATUS. One of a saved block completes in its image (R266). -/
def execCopyEntryComplete (core blk idx : Nat) (s : State) : Out :=
  match s.block blk with
  | some b =>
    match (s.ring blk core).busy.find? fun e => e.idx == idx with
    | some e =>
      if e.coll.isSome then .next s
      else
        match s.bump.copyActs core b.ctx blk e (e.chunk s.free) with
        | (s1, e1) =>
          .next (if e1.left = 0 then s1.finishCopy core blk e1 e1.status else s1.putRing blk core ((s1.ring blk core).progress e1))
    | none => .next s
  | none =>
    match mget s.wk.saved blk with
    | none => .next s
    | some v =>
      match v.entry core idx with
      | some e =>
        if e.coll.isSome then .next s
        else
          match s.bump.copyActs core v.block.ctx blk e (e.chunk s.free) with
          | (s1, e1) =>
            .next (if e1.left = 0 then s1.finishSaved core blk v e1 e1.status
              else { s1 with wk := { s1.wk with saved := mput s1.wk.saved blk (v.progress core e1) } })
      | none => .next s

/-! ## Collectives (R441 to R446) -/

/-- A collective of this module completes with a status, and its key is free. -/
def State.finishColl (s : State) (key : Nat) (c : Coll) (st : Nat) : State :=
  let s1 := { s with pk := { s.pk with colls := mdel s.pk.colls key } }
  match mget s1.wk.saved c.blk with
  | some v =>
    match v.entry c.core c.idx with
    | some e => s1.finishSaved c.core c.blk v e st
    | none => s1
  | none =>
  match (s1.ring c.blk c.core).busy.find? fun e => e.idx == c.idx with
  | some e => s1.finishCopy c.core c.blk e st
  | none => s1

/-- R442. The peer's entry of a key meets this module's: they agree, or both complete with MISMATCH. `src` is the
peer's source, as a number, lowest byte first. -/
def execCollectiveMatch (key opc rcode rtype len src : Nat) (s : State) : Out :=
  match mget s.pk.colls key with
  | none => .next s
  | some c =>
    if s.pk.twin.state ≠ 2 ∨ c.peer.isSome then .next s
    else
      let pair := opc = c.opc ∨ (c.opc = 0x13 ∧ opc = 0x14) ∨ (c.opc = 0x14 ∧ opc = 0x13)
      if pair ∧ len = c.n ∧ rtype = c.rtype ∧ rcode = c.rcode then
        let peer := (opc, rcode, rtype, len, leBytesOf (collLens opc len).1 src)
        .next { s with pk := { s.pk with colls := mput s.pk.colls key { c with peer := some peer } } }
      else .next (s.finishColl key c 0x8B)

/-- Bytes of a global range as an engine reads them, with those that are poisoned, or its STATUS. -/
def State.engineBytes (s : State) (core ctx blk va n : Nat) : State × Except Nat (List Byte × List Bool) :=
  (splitParts false (n + 1) va n).foldl (fun a p =>
    match a with
    | (s, .error e) => (s, .error e)
    | (s, .ok (bs, bad)) =>
      match s.engineLocs core ctx blk [] .load (p.1 % 2 ^ 64) p.2 with
      | (s, .error e) => (s, .error e)
      | (s, .ok ls) =>
        let s1 := s.engineFill core ls
        let g := s1.engineRead core ls
        (s1.watch none ctx (locPieces p.1 ls) false true, .ok (bs ++ g.1, bad ++ g.2))) (s, .ok ([], []))

/-- Bytes written to a global range by an engine, poison with them, up to the first failure. -/
def State.engineBytesTo (s : State) (core ctx blk va : Nat) (bs : List Byte) (bad : List Bool) : State × Nat :=
  let r := (splitParts false (bs.length + 1) va bs.length).foldl (fun (a : State × Nat × Nat) p =>
    if a.2.2 ≠ 1 then a
    else
      match a.1.engineLocs core ctx blk [] .store (p.1 % 2 ^ 64) p.2 with
      | (s, .error e) => (s, a.2.1, e)
      | (s, .ok ls) =>
        ((s.engineWrite core ls ((bs.drop a.2.1).take p.2) ((bad.drop a.2.1).take p.2)).watch none ctx (locPieces p.1 ls) true false,
          a.2.1 + p.2, 1)) (s, 0, 1)
  (r.1, r.2.2)

/-- Elements of two buffers reduced, rank 0's as the left operand (R443). -/
def reduceBytes (code ty : Nat) (a b : List Byte) : List Byte :=
  let e := rtypeSize ty
  (List.range (a.length / e)).flatMap fun i =>
    leBytesOf e (redVal code ty (fieldOf a (e * i) e) (fieldOf b (e * i) e))

/-- What a rank writes at its DST (R441). -/
def collResult (c : Coll) (rank : Nat) (mine theirs : List Byte) : List Byte :=
  let r0 := if rank = 0 then mine else theirs
  let r1 := if rank = 0 then theirs else mine
  match c.opc with
  | 0x10 => reduceBytes c.rcode c.rtype r0 r1
  | 0x11 => r0 ++ r1
  | 0x12 => reduceBytes c.rcode c.rtype ((r0.drop (rank * c.n)).take c.n) ((r1.drop (rank * c.n)).take c.n)
  | 0x14 => theirs
  | _ => []

/-- Which of the bytes a rank writes are poisoned: every byte of an element that a poisoned source byte of this module goes into (R208; the
peer's bytes come as they are). -/
def collBad (c : Coll) (rank : Nat) (mine : List Bool) : List Bool :=
  let whole := fun (l : List Bool) =>
    let e := rtypeSize c.rtype
    (List.range (l.length / e)).flatMap fun i => List.replicate e (((l.drop (e * i)).take e).any id)
  match c.opc with
  | 0x10 => whole mine
  | 0x11 => (if rank = 0 then [] else List.replicate c.n false) ++ mine
  | 0x12 => whole ((mine.drop (rank * c.n)).take c.n)
  | _ => []

/-- The sources of a matched collective read, and what this module is to write, with its poisoned bytes. -/
def State.collData (s : State) (c : Coll) (theirs : List Byte) : State × Except Nat (List Byte × List Bool) :=
  match s.engineBytes c.core c.ctx c.blk c.src (collLens c.opc c.n).1 with
  | (s, .error e) => (s, .error e)
  | (s, .ok (mine, bad)) => (s, .ok (collResult c s.pk.twin.rank mine theirs, collBad c s.pk.twin.rank bad))

/-- R443, R444. A matched collective completes on this module. -/
def execCollectiveComplete (key : Nat) (s : State) : Out :=
  match mget s.pk.colls key with
  | none => .next s
  | some c =>
    match c.peer with
    | none => .next s
    | some p =>
      match s.collData c p.2.2.2.2 with
      | (s, .error e) => .next (s.finishColl key c e)
      | (s, .ok (bs, bad)) =>
        match s.engineBytesTo c.core c.ctx c.blk c.dst bs bad with
        | (s, st) => .next (s.finishColl key c (if st = 1 ∧ bad.any id then 0x88 else st))

/-- Bytes of an element of a collective (R441). -/
def Coll.unit (c : Coll) : Nat := if c.rcode = 0 then 1 else max 1 (rtypeSize c.rtype)

/-- A collective that the link's drop ends may have written any of its DST elements, each whole; which ones is a free choice (R446). -/
def State.partColl (s : State) (c : Coll) : State :=
  match c.peer with
  | none => s
  | some p =>
    match s.collData c p.2.2.2.2 with
    | (s, .error _) => s
    | (s, .ok (bs, bad)) =>
      ((List.range (bs.length / c.unit)).filter (Config.part s.free)).foldl (fun (s : State) i =>
        (s.engineBytesTo c.core c.ctx c.blk (c.dst + c.unit * i) ((bs.drop (c.unit * i)).take c.unit) ((bad.drop (c.unit * i)).take c.unit)).1) s.bump

/-! ## Batches (R210, R211) -/

/-- Sealed batches of a wave that are unfinished. -/
def Wave.unfinished (x : Wave) : Nat := (x.sealed.filter fun q => q.2.any fun r => r.2.2 != 0).length

/-- R210. Seal the credited entries into a batch. -/
def execCpseal (x : Body) (s : State) : Out :=
  run (.cpseal x) s fun c s => .go { s := s, work := some (.cpseal c.dstS), hold := true }

/-- R211. Hold the wave until at most n of its batches are unfinished. -/
def execCpwait (x : Body) (s : State) : Out :=
  run (.cpwait x) s fun c s => .go { s := s, work := some (.cpwait (c.sA s)), hold := true }

/-- A CPSEAL or CPWAIT that may complete: its older stores to the ring performed, and its batch condition met. -/
def Wave.batchReady (x : Wave) (n : Nat) (k : Work) : Bool :=
  match k with
  | .cpseal _ => x.settledBefore n && decide (x.unfinished < 16)
  | .cpwait m => decide (m ≥ 16) || decide (x.unfinished ≤ m)
  | _ => false

/-- A CPSEAL or CPWAIT completes. -/
def State.batchDone (s : State) (w : Nat) (x : Wave) (p : Pend) : State :=
  match p.work with
  | .cpseal d =>
    let x1 := { x with sealed := x.sealed ++ [(x.batch, x.credit)], credit := [], batch := (x.batch + 1) % 65536 }
    s.putWave w (x1.bind p.stamp s.clock (d.writes 0 x.batch 0))
  | .cpwait _ =>
    s.modWave w fun x =>
      { x with sealed := x.sealed.filter (fun q => q.2.any fun r => r.2.2 != 0)
               pend := x.pend.map fun (q : Pend) => if q.stamp == p.stamp then { q with work := .slot, due := s.clock + 1, hold := false } else q }
  | _ => s

end Sys2Proof.Machine
end

