-- ==== Sys2Proof/Machine/Engine.lean ====
section
/-! DEFINITION. Engine.lean: what the dies' own agents do to memory, kernel descriptors, and the items of work with their
completion (13 R285, R286, R293; 18 R346, R351; 22 R418, R419, R434). -/

namespace Sys2Proof.Machine

/-! ## Memory as the management cores and engines reach it -/

/-- Bytes stored at the point of coherence of the dies, part by part, with the releases that they carry. -/
def State.sysStore (s : State) (pa : Nat) (bs : List Byte) (rels : List Rel := []) : State :=
  (splitParts false (bs.length + 1) pa bs.length).foldl (fun s p => s.cohStore false p.1 ((bs.drop (p.1 - pa)).take p.2) rels) s

/-- Bytes of a context's memory, or the reason a translation fails. -/
def State.devRead (s : State) (ctx va n : Nat) : State × Except Nat (List Byte) :=
  match s.translateRun 0 ctx .load (n + 1) va n with
  | (s, .error e) => (s, .error e.2)
  | (s, .ok rs) => (s, .ok (rs.flatMap fun r => s.sysBytes r.1 r.2))

/-- Whether bytes of a context's memory are poisoned. -/
def State.devPoisoned (s : State) (ctx va n : Nat) : Bool :=
  match (s.translateRun 0 ctx .load (n + 1) va n).2 with
  | .ok rs => rs.any fun r => s.m.poisoned r.1 r.2
  | .error _ => false

/-- Bytes written to a context's memory; whether it could be done. -/
def State.devWrite (s : State) (ctx va : Nat) (bs : List Byte) (rels : List Rel := []) : State × Bool :=
  match s.translateRun 0 ctx .store (bs.length + 1) va bs.length with
  | (s, .error _) => (s, false)
  | (s, .ok rs) =>
    ((rs.foldl (fun (a : State × Nat) r => (a.1.sysStore r.1 ((bs.drop a.2).take r.2) rels, a.2 + r.2)) (s, 0)).1, true)

/-- The same in the memory of a queue's context; before context 0 is in force an address of queue 0 is physical (log entry
22). -/
def State.qRead (s : State) (ctx va n : Nat) : State × Except Nat (List Byte) :=
  if (mgetD s.wk.ctxs ctx {}).valid then s.devRead ctx va n
  else if ctx = 0 ∧ s.inMemory va then (s, .ok (s.sysBytes va n)) else (s, .error 10)

def State.qWrite (s : State) (ctx va : Nat) (bs : List Byte) (rels : List Rel := []) : State × Bool :=
  if (mgetD s.wk.ctxs ctx {}).valid then s.devWrite ctx va bs rels
  else if ctx = 0 ∧ s.inMemory va then (s.sysStore va bs rels, true) else (s, false)

/-! ## Records of bits -/

/-- Fields (lowest bit, value) joined. -/
def joinBits (fs : List (Nat × Nat)) : Nat := fs.foldl (fun a f => a + f.2 * 2 ^ f.1) 0

/-- Bytes `off` to `off + n − 1` of a record of bits replaced. -/
def spliceBits (x off n v : Nat) : Nat :=
  x % 256 ^ off + v % 256 ^ n * 256 ^ off + x / 256 ^ (off + n) * 256 ^ (off + n)

/-! ## Kernel descriptors (R418, R419, R434) -/

/-- A final descriptor's fields from its 64 bytes; none when it is malformed. -/
def parseKDesc (bs : List Byte) : Option KDesc :=
  let entry := fieldOf bs 0 8
  let bx := fieldOf bs 8 4
  let bY := fieldOf bs 12 2
  let bz := fieldOf bs 14 2
  let alloc := fieldOf bs 16 1
  let kfl := fieldOf bs 17 1
  let bars := fieldOf bs 18 2
  let scratch := fieldOf bs 20 4
  let nc := fieldOf bs 24 1
  let rf := fieldOf bs 25 1
  let nt := fieldOf bs 26 2
  let node := kfl.testBit 2
  let rein := kfl.testBit 3
  if entry % 2 = 0 ∧ 1 ≤ bx ∧ 1 ≤ bY ∧ 1 ≤ bz ∧ bx * bY * bz ≤ 8192 ∧ 1 ≤ alloc ∧ alloc ≤ 32 ∧ kfl < 16 ∧ bars ≤ 1024
      ∧ scratch ≤ 262144 ∧ fieldOf bs 44 20 = 0 ∧ !(node && rein)
      ∧ (if node then decide (1 ≤ nc ∧ nc ≤ 64 ∧ 1 ≤ nt ∧ nt ≤ 1000) else decide (nc = 0 ∧ nt = 0))
      ∧ (if rein then decide (rf % 16 = 0 ∧ rf ≤ 48) else decide (rf = 0)) then
    some { entry := entry, threads := bx * bY * bz, alloc := alloc, kfl := kfl, bars := bars, scratch := scratch
           ncount := nc, rfirst := rf, ntimer := nt, gen := fieldOf bs 28 4 }
  else none

/-- LIVE of a descriptor changed by an atomic addition (R434); whether the page takes it. -/
def State.addLive (s : State) (ctx d : Nat) (up : Bool) : State × Bool :=
  match s.devRead ctx (d + 40) 4 with
  | (s, .error _) => (s, false)
  | (s, .ok bs) => s.devWrite ctx (d + 40) (leBytesOf 4 (leVal bs + if up then 1 else 2 ^ 32 - 1))

/-- Resolution from a descriptor along its FWD links (R434): the address and fields it comes to. -/
def State.resolve (s : State) (ctx : Nat) : Nat → Nat → State × Option (Nat × KDesc)
  | 0, _ => (s, none)
  | hops + 1, d =>
    match s.addLive ctx d true with
    | (s, false) => (s, none)
    | (s, true) =>
      match s.devRead ctx d 64 with
      | (s, .error _) => ((s.addLive ctx d false).1, none)
      | (s, .ok bs) =>
        let f := fieldOf bs 32 8
        if f = 0 then
          match parseKDesc bs with
          | some k => (s, some (d, k))
          | none => ((s.addLive ctx d false).1, none)
        else (s.addLive ctx d false).1.resolve ctx hops f

/-- Cores that a block of a descriptor occupies on one cluster, or none (R279). -/
def coreCount (k : KDesc) (scratch : Nat) : Option Nat :=
  let w := ceilDiv k.threads 32
  [1, 2, 4].find? fun n => decide (ceilDiv w n ≤ 4 * min 16 (128 / k.alloc)) && decide (scratch ≤ 262144)

/-! ## Completion (R285, R286) -/

/-- A completion word written as a store-release; whether it could be. -/
def State.reportAt (s : State) (ctx caddr tag status detail : Nat) (rels : List Rel) : State × Bool :=
  if caddr = 0 then (s, true)
  else s.devWrite ctx caddr (leBytesOf 8 (status + detail * 2 ^ 8 + tag * 2 ^ 16)) rels

/-- What a completion word releases: what a core has come to see, and the scope (R285, R369). -/
structure Done where
  core : Nat := unitAgent
  deps : List Nat := []

def Done.rels (d : Done) (scope : Nat) : List Rel := [{ core := d.core, scope := scope, deps := d.deps, lazy := false }]

/-- The order in which one word takes the codes of several blocks (R285). -/
def statusRank (st : Nat) : Nat :=
  match st % 256 with | 0x82 => 4 | 0x83 => 3 | 0x81 => 2 | 0x02 => 1 | _ => 0

/-- The worse of two statuses with their details in bits 15:8. -/
def worseStatus (a b : Nat) : Nat := if statusRank b > statusRank a then b else a

/-- The queue or bin whose FAILS counts a failure. -/
inductive FailTo where
  | none | queue (n : Nat) | bin (n : Nat)
deriving DecidableEq, Repr

def State.countFail (s : State) (f : FailTo) : State :=
  match f with
  | .none => s
  | .queue n => { s with wk := { s.wk with tqs := mmod s.wk.tqs n fun q => { q with fails := min (q.fails + 1) 0xFFFF } } }
  | .bin n => { s with wk := { s.wk with nbins := mmod s.wk.nbins n fun q => { q with fails := min (q.fails + 1) 0xFFFF } } }

/-- A failure counted where a grid's items say. -/
def FailTo.ofCode (c : Nat) : FailTo := if c = 0 then .none else if c % 2 = 0 then .queue (c / 2 - 1) else .bin ((c - 3) / 2)

/-- A fault of the spill engine or of a landing goes to the fault queue (R404). -/
def State.logWork (s : State) (ctx : Nat) (k : AccKind) (va n : Nat) : State :=
  match s.translateRun 0 ctx k (n + 1) va n with
  | (s, .error e) => s.logFault ctx k e.2 e.1
  | (s, .ok _) => s

/-- An item's report: its word, or a count where it has none; a word that cannot be written is logged and counted (R286). The failures that
are counted are the statuses from 0x80 on: that KILLED (0x02) is none is the model's choice (log entry 22). From system scope on
the word's release reaches memory. -/
def State.report (s : State) (ctx : Nat) (r : Nat × Nat × Nat) (status : Nat) (f : FailTo) (d : Done := {}) : State :=
  let bad := decide (status % 256 ≥ 0x80)
  if r.1 = 0 then (if bad then s.countFail f else s)
  else
    let s0 := s.pushDown r.2.2 fun _ => true
    match s0.reportAt ctx r.1 r.2.1 (status % 256) (status / 256 % 256) (d.rels r.2.2) with
    | (s, true) => s
    | (s, false) => (s.logWork ctx .store r.1 8).countFail f

/-- Every record of a list reports one status. -/
def State.reportAll (s : State) (ctx : Nat) (rs : List (Nat × Nat × Nat)) (status : Nat) (f : FailTo) (d : Done := {}) : State :=
  rs.foldl (fun s r => s.report ctx r status f d) s

/-- A command's completion word, at system scope: it sends the message of an armed queue (R351, R396). -/
def State.hostWord (s : State) (hq : Nat) (q : HostQ) (bytes : List Byte) (status : Nat) (d : Done := {}) : State :=
  let caddr := fieldOf bytes 8 8
  if caddr = 0 then s
  else
    match (s.pushDown 5 fun _ => true).qWrite q.ctx caddr (leBytesOf 8 (status % 65536 + fieldOf bytes 2 2 * 2 ^ 16)) (d.rels 5) with
    | (s, false) => s
    | (s, true) =>
      match mget s.wk.hqs hq with
      | some q =>
        if q.armed then
          { s with wk := { s.wk with hqs := mput s.wk.hqs hq { q with armed := false } }
                   pk := { s.pk with msix := s.pk.msix ++ [hq + 1] } }
        else s
      | none => s

/-- An interim word of a command that runs (R264). -/
def State.hostInterim (s : State) (hq idx status : Nat) (d : Done := {}) : State :=
  match mget s.wk.hqs hq with
  | none => s
  | some q =>
    match q.busy.find? fun c => c.idx == idx with
    | none => s
    | some c => s.hostWord hq q c.bytes status d

/-- A command of a host queue completes: its word and its count (R351). -/
def State.hostDone (s : State) (hq idx status : Nat) (d : Done := {}) : State :=
  match mget s.wk.hqs hq with
  | none => s
  | some q =>
    match q.busy.find? fun c => c.idx == idx with
    | none => s
    | some c =>
      let s1 := s.hostWord hq q c.bytes status d
      { s1 with wk := { s1.wk with hqs := mmod s1.wk.hqs hq fun q =>
          { q with busy := q.busy.filter (fun c => c.idx != idx), completed := q.completed + 1 } } }

/-! ## Grids (R293, R434) -/

def State.grid (s : State) (g : Nat) : Option Grid := mget s.wk.grids g

def State.putGrid' (s : State) (g : Nat) (x : Grid) : State := { s with wk := { s.wk with grids := mput s.wk.grids g x } }

/-- A grid that is done retires: its word, a release of what its blocks and their descendants have written, LIVE of its descriptor,
and its parents in turn (R285, R369, R434). -/
def State.settleGrid (s : State) : Nat → Nat → State
  | 0, _ => s
  | fuel + 1, g =>
    match s.grid g with
    | none => s
    | some x =>
      if x.retired < x.total ∨ x.kids > 0 then s
      else
        let s1 := { s with wk := { s.wk with grids := mdel s.wk.grids g } }
        let d : Done := { core := x.last, deps := x.seen }
        let s2 := match x.host with
          | some (hq, idx) => s1.hostDone hq idx x.status d
          | none => s1.reportAll x.ctx x.reports x.status (.ofCode x.failTo) d
        let s3 := (s2.addLive x.ctx x.kdesc false).1
        let s4 := { s3 with wk := { s3.wk with ctxs := mmod s3.wk.ctxs x.ctx fun c => { c with launched := c.launched.filter fun v => v.2 != g } } }
        x.parents.foldl (fun s p =>
          match s.grid p with
          | some y => (s.putGrid' p { y with kids := y.kids - 1, seen := x.seen.foldl ladd y.seen, last := x.last }).settleGrid fuel p
          | none => s) s4

/-- Parents learn of a child. -/
def State.addKid (s : State) (ps : List Nat) : State :=
  ps.foldl (fun s p => match s.grid p with | some y => s.putGrid' p { y with kids := y.kids + 1 } | none => s) s

/-- Parents learn that a child has ended without a grid. -/
def State.dropKids (s : State) (ps : List Nat) : State :=
  ps.foldl (fun s p => match s.grid p with | some y => (s.putGrid' p { y with kids := y.kids - 1 }).settleGrid 65536 p | none => s) s

/-- What a launch that runs nothing reports. -/
def State.grantFail (s : State) (x : Grid) (status : Nat) : State :=
  (match x.host with
   | some (hq, idx) => s.hostDone hq idx status
   | none => s.reportAll x.ctx x.reports status (.ofCode x.failTo)).dropKids x.parents

/-- A launch accepted: its descriptor resolved, a grid made, or BAD_KERNEL reported (R285, R296, R351). The answer is the
grid's number; its parents count it already. -/
def State.newGrid (s : State) (x : Grid) : State × Option Nat :=
  match s.resolve x.ctx 4 x.kdesc with
  | (s, none) => (s.grantFail x 0x85, none)
  | (s, some (d, k)) =>
    if (coreCount k k.scratch).isNone then ((s.addLive x.ctx d false).1.grantFail x 0x85, none)
    else
      let g := lowestFree s.wk.grids 65535 1
      (s.putGrid' g { x with kdesc := d, k := k }, some g)

end Sys2Proof.Machine
end

