-- ==== Sys2Proof/Machine/Control.lean ====
section
/-! DEFINITION. Control.lean: control transfer and lane control (04 R109 to R113; 03 R86 to R89). -/

namespace Sys2Proof.Machine

/-- A forced yield: some live lane outside the active set has a neglect count of 1,024 (R89). -/
def Issue.neglected (c : Issue) : Bool :=
  (c.x.lanes.zipIdx).any fun p => p.1.st == .live && !c.act.getLsbD p.2 && decide (p.1.neglect ≥ 1024)

/-- A YIELD of the lanes of a mask (R87). -/
def Wave.yieldLanes (x : Wave) (m : Word) : Wave :=
  x.mapLanes fun l y => if m.getLsbD l then { y with ep := min (y.ep + 1) 15 } else y

/-- A branch that sends each contributor to a target, with the forced yield of R89 for those sent backward. -/
def Issue.branch (c : Issue) (s : State) (target : Nat → Nat) (ws : List RegWrite) (extra : Nat) : Eff :=
  let back := maskOf fun l => c.con.getLsbD l && decide (target l ≤ c.pc)
  let s1 := if c.neglected && back != 0#32 then s.modWave c.w fun x => x.yieldLanes back else s
  .go { s := s1, work := if ws.isEmpty then none else some (.regs ws), lat := c.i.latency
        jump := fun l => if c.con.getLsbD l then some (target l) else none, extra := extra }

/-- The target of BRA and CALL: the address of the instruction plus the signed literal (R57, R110). -/
def Issue.label (c : Issue) : Nat := (c.pc + litExt true 64 (c.b.lit.getD 0#32)) % 2 ^ 64

/-- The return address of CALL and CALLX, to each contributor's D (R110, R111). -/
def Issue.link (c : Issue) : List RegWrite := c.toD fun _ => (c.pc + c.span) % 2 ^ 64

/-- Contributors whose target is odd, or outside a declared list (R111). -/
def Issue.badTargets (c : Issue) (s : State) (ts : Option (List Word)) : Word :=
  maskOf fun l => c.con.getLsbD l &&
    (let t := c.regA s l
     t % 2 == 1 || match ts with
      | none => false
      | some es => !(es.any fun e => (c.pc + litExt true 64 e) % 2 ^ 64 == t))

/-- BRX, CALLX and RET (R111); a list of n entries adds ceil(n / 16) clocks (R112). -/
def Issue.indirect (c : Issue) (s : State) (ts : Option (List Word)) (ws : List RegWrite) : Eff :=
  let bad := c.badTargets s ts
  if bad != 0#32 then .trap { cause := .targetFault, mask := bad }
  else c.branch s (c.regA s) ws (match ts with | some es => ceilDiv es.length 16 | none => 0)

/-- R110. Branch to a literal offset. -/
def execBra (x : Body) (s : State) : Out := run (.bra x) s fun c s => c.branch s (fun _ => c.label) [] 0

/-- R111. Branch to a register target through a declared list. -/
def execBrx (x : Body) (ts : List Word) (s : State) : Out := run (.brx x ts) s fun c s => c.indirect s (some ts) []

/-- R110. Call a literal offset, writing the return address. -/
def execCall (x : Body) (s : State) : Out := run (.call x) s fun c s => c.branch s (fun _ => c.label) c.link 0

/-- R111. Call a register target through a declared list. -/
def execCallx (x : Body) (ts : List Word) (s : State) : Out := run (.callx x ts) s fun c s => c.indirect s (some ts) c.link

/-- R111. Return through a register. -/
def execRet (x : Body) (s : State) : Out := run (.ret x) s fun c s => c.indirect s none []

/-- R87. Raise the epoch of the contributors. -/
def execYield (x : Body) (s : State) : Out :=
  run (.yield x) s fun c s => .go { s := s.modWave c.w fun x => x.yieldLanes c.con }

/-- Lanes of an enrolled wave depart from its barriers, which is a release: it waits for the wave's older accesses (R369; log entry 21). -/
def Issue.departing (c : Issue) (k : Eff) : Eff := if c.x.enrol.isEmpty then k else c.settled k

/-- R113. The contributors exit. -/
def execExit (x : Body) (s : State) : Out := run (.exit x) s fun c s => c.departing (.go { s := s.exitLanes c.w c.con })

/-- R113. The contributors exit and the block's KILLED indicator is set. -/
def execKill (x : Body) (s : State) : Out :=
  run (.kill x) s fun c s =>
    let s1 := s.exitLanes c.w c.con
    c.departing <| .go { s := { s1 with wk := { s1.wk with blocks := mmod s1.wk.blocks c.x.blk fun b => { b with killed := true } } } }

/-- R113. No effect. -/
def execNop (x : Body) (s : State) : Out := run (.nop x) s fun _ s => .go { s := s }

/-- R113. No effect: it carries a control clause. -/
def execWaitd (x : Body) (s : State) : Out := run (.waitd x) s fun _ s => .go { s := s }

end Sys2Proof.Machine
end

