-- ==== Sys2Proof/Machine/System.lean ====
section
/-! DEFINITION. System.lean: traps by instruction, control and special registers, register quotas, instruction-cache
invalidation (04 R114 to R119; 03 R93, R94). -/

namespace Sys2Proof.Machine

/-! ## TRAP and BKPT (R115) -/

/-- R115. The program's own trap. -/
def execTrap (x : Body) (s : State) : Out :=
  run (.trap x) s fun c s => .trap { cause := .userTrap, sub := c.sB s, mask := c.con }

/-- R115. A breakpoint instruction; under an enabled unit that observes the context it is a debug hit as well. -/
def execBkpt (x : Body) (s : State) : Out :=
  run (.bkpt x) s fun c s =>
    let q := clusterOfWave c.w
    let hit := (s.dbg q).den && s.observed q c.w c.x
    .trap { cause := .breakpoint, sub := c.sB s, mask := c.con, dbg := hit } 0#5
      fun s => if hit then s.debugHit q 1 0 (some c.w) true else s

/-! ## Control and special registers (R76 to R78, R116, R117) -/

/-- The writable bits of the wave control word (R76). -/
def wcwWritable : Word := 0x9F1F#32

/-- A write of the wave control word (R77). -/
def Wave.writeWcw (x : Wave) (v : Word) : Wave := { x with wcw := v &&& wcwWritable }

/-- A control register as RCSR reads it (R116). -/
def Issue.csr (c : Issue) (sel : Nat) : Word :=
  match sel with
  | 0 => c.x.wcwRead
  | 1 => BitVec.ofNat 32 c.x.ts
  | 2 => c.x.lanesIn .live
  | 3 => c.act
  | 4 => c.x.lanesIn .parked
  | _ => c.x.lanesIn .exited

/-- R116. Read a control register. -/
def execRcsr (x : Body) (s : State) : Out :=
  run (.rcsr x) s fun c s => c.fixed s [.s c.b.d.toNat (c.csr c.b.litN)]

/-- R77. Write the wave control word. -/
def execWcsr (x : Body) (s : State) : Out :=
  run (.wcsr x) s fun c s => .go { s := s.modWave c.w fun x => x.writeWcw (c.s s c.b.a.toNat) }

/-- CLOCK: core clocks since the core left reset (R117). -/
def State.coreClock (s : State) (core : Nat) : Nat := s.clock - mgetD s.co.start core 0

/-- A special register of R117 for a lane. -/
def Issue.special (c : Issue) (s : State) (lane : Nat) : Nat :=
  let b := s.block c.x.blk
  match c.b.litN with
  | 0 => lane
  | 1 => (c.x.lane lane).ep
  | 2 => slotOf c.w
  | 3 => coreOf c.w
  | 4 => clusterOfWave c.w
  | 5 => s.ctxNo c.x
  | 6 => (b.map Block.depth).getD 0
  | 7 => (b.map Block.prio).getD 0
  | 8 => s.coreClock (coreOf c.w)
  | 9 => s.timeNs
  | _ => (b.map Block.gen).getD 0

/-- R117. Read a special register, into lanes or once into an s register. -/
def execSrd (x : Body) (s : State) : Out :=
  run (.srd x) s fun c s =>
    if c.b.md = 1#5 then c.fixed s (c.toSD (c.special s 0)) else c.fixed s (c.toD fun l => c.special s l)

/-! ## QUOTA (R93, R94, R118) -/

/-- The granules of a lane row that are taken: by resident waves, by grids' accumulators, and on their way between two
waves (R93). -/
def State.takenGranules (s : State) (row : Nat) : List Nat :=
  (s.waves.flatMap fun p =>
    (if deviceRow p.1 = row then p.2.gmap else [])
      ++ (if deviceRow p.1 = row then p.2.pend.flatMap fun q => (match q.work with | .quota _ _ g _ => g | _ => []) else []))
  ++ s.wk.hgrids.flatMap fun p => p.2.granules.flatMap fun r =>
      if 16 * (p.1 / 16) + r.1 = row then r.2 else []

/-- The free quota of a row, lowest granule first (log entry 16). -/
def State.freeGranules (s : State) (row : Nat) : List Nat :=
  let t := s.takenGranules row
  (List.range 128).filter fun g => !t.contains g

/-- The registers of granules read 0 in every lane (R94). -/
def State.zeroGranules (s : State) (row : Nat) (gs : List Nat) : State :=
  gs.foldl (fun s g =>
    let lo := (row * 1024 + 8 * g) * 32
    { s with co := { s.co with rf := mclear s.co.rf lo 256, rfBad := mclear s.co.rfBad lo 256 } }) s

/-- How many granules are on their way to a wave: gives that have been made and have not settled (R118). -/
def State.onWay (s : State) (uid : Nat) : Nat :=
  (s.waves.flatMap fun p => p.2.pend.flatMap fun q =>
    match q.work with | .quota _ t g _ => if t == some uid then g else [] | _ => []).length

/-- QUOTA's status and effect (R118): the wave's new map, and for .give the target with the granules it is to have. -/
def Issue.quota (c : Issue) (s : State) (op n : Nat) : Nat × State × Option (Nat × List Nat) :=
  let row := deviceRow c.w
  let have' := c.x.gmap
  let drop := fun (s : State) => s.modWave c.w fun x => { x with gmap := x.gmap.take (x.gmap.length - n) }
  if n = 0 then (0, s, none)
  else
    match op with
    | 0 =>
      match s.waves.find? fun p => p.2.blk == c.x.blk && p.2.widx == (c.s s c.b.a.toNat).toNat && deviceRow p.1 == row with
      | none => (1, s, none)
      | some (t, y) =>
        if t = c.w then (1, s, none)
        else if (s.gridOfWave t).isSome ∨ y.run = .saving then (4, s, none)
        else if have'.length < n + 1 then (3, s, none)
        else if y.alloc + s.onWay y.uid + n > 32 then (2, s, none)
        else (0, drop s, some (y.uid, have'.drop (have'.length - n)))
    | 1 => if have'.length < n + 1 then (3, s, none) else (0, drop s, none)
    | _ =>
      let free := s.freeGranules row
      if have'.length + s.onWay c.x.uid + n > 32 ∨ free.length < n then (2, s, none)
      else
        let gs := free.take n
        (0, (s.zeroGranules row gs).modWave c.w fun x => { x with gmap := x.gmap ++ gs }, none)

/-- The QUOTA forms: the issuer's part of the move is made at issue, which is the model's choice (log entry 22); the result and the target's gain
follow (R63, R118). -/
def quotaEff (op : Nat) (c : Issue) (s : State) : Eff :=
  match c.quota s op (c.sB s) with
  | (status, s1, t) =>
    let alloc := ((s1.wave c.w).map Wave.alloc).getD 0
    .go { s := s1, work := some (.quota (status * 2 ^ 28 + alloc) (t.map Prod.fst) ((t.map Prod.snd).getD [])
            { cls := 1, base := c.b.d.toNat, cnt := 1 }) }

/-- R118. Give granules to another wave of the block on the row. -/
def execQuotaGive (x : Body) (s : State) : Out := run (.quotaGive x) s (quotaEff 0)

/-- R118. Return granules to free quota. -/
def execQuotaRel (x : Body) (s : State) : Out := run (.quotaRel x) s (quotaEff 1)

/-- R118. Take granules from free quota. -/
def execQuotaTake (x : Body) (s : State) : Out := run (.quotaTake x) s (quotaEff 2)

/-- The granules of a .give reach the wave of a number, which reads 0 in them; one that has gone leaves them to free quota. -/
def State.gainGranules (s : State) (target : Option Nat) (gs : List Nat) : State :=
  match target.bind fun uid => s.waves.find? fun (q : Nat × Wave) => q.2.uid == uid with
  | some (tw, _) => (s.zeroGranules (deviceRow tw) gs).modWave tw fun y => { y with gmap := y.gmap ++ gs }
  | none => s

/-- R118. A QUOTA settles, in a clock after its issue: its result is written, its slot released, and the target of .give takes its new ALLOC. -/
def execQuotaSettle (w n : Nat) (s : State) : Out :=
  match (s.wave w).bind fun x => x.pending n with
  | some p =>
    match p.work with
    | .quota v t gs d => if s.clock < p.due then .next s else .next ((s.gainGranules t gs).modWave w fun x => x.bind n s.clock (d.writes 0 v 0))
    | _ => .next s
  | none => .next s

/-! ## ICINV (R119) -/

/-- R119. Invalidate the fetched lines of a range. -/
def execIcinv (x : Body) (s : State) : Out :=
  run (.icinv x) s fun c s =>
    let lo := c.sGroup s c.b.a.toNat 2
    let len := (c.s s c.b.b.toNat).toNat
    if lo + len > 2 ^ 64 then .trap { cause := .illegalOperand, mask := c.act }
    else .go { s := s, work := some (.icinv false lo len), hold := true }

/-- R119. Invalidate every fetched line of the context. -/
def execIcinvAll (x : Body) (s : State) : Out :=
  run (.icinvAll x) s fun _ s => .go { s := s, work := some (.icinv true 0 0), hold := true }

end Sys2Proof.Machine
end

