-- ==== Sys2Proof/Machine/Place.lean ====
section
/-! DEFINITION. Place.lean: candidates of a cluster, placing a block, starting it, its teardown and its retirement (03 R79,
R80, R97; 07 R155 to R158; 09 R224; 11 R264, R267; 13 R279, R280; 18 R345 to R347). -/

namespace Sys2Proof.Machine

/-! ## Rows, regions and cores -/

/-- The rows of the device that a mustering register's group holds (R217, R224). -/
def groupRowsOf (g : Nat) (h : HGrid) : List Nat := (List.range (groupRows h.shape)).map fun i => 16 * (g / 16) + h.base + i

/-- A row that a register holds takes no new wave (R224). -/
def State.rowHeld (s : State) (row : Nat) : Bool :=
  s.wk.hgrids.any fun p => p.2.state != 0 && (groupRowsOf p.1 p.2).contains row

/-- Wave number of slot i of a row of the device. -/
def waveAt (row i : Nat) : Nat := 64 * (row / 4) + 16 * (row % 4) + i

/-- Free slots of a row as wave numbers, ascending. -/
def State.freeSlots (s : State) (row : Nat) : List Nat :=
  ((List.range 16).map (waveAt row)).filter fun w => (s.wave w).isNone

/-- Waves laid on the slots of a row while slots and granules last: each wave with its granules, and those left over. -/
def fillRow : List Nat → List Nat → List Nat → List (Nat × List Nat) × List Nat
  | _, _, [] => ([], [])
  | _, [], as => ([], as)
  | free, w :: ws, a :: as =>
    if free.length < a then ([], a :: as)
    else
      match fillRow (free.drop a) ws as with
      | (r, left) => ((w, free.take a) :: r, left)

/-- Waves laid on rows in turn; none when some are left over (R156). -/
def State.fillRows (s : State) : List Nat → List Nat → Option (List (Nat × List Nat))
  | _, [] => some []
  | [], _ :: _ => none
  | r :: rs, as =>
    match fillRow (s.freeGranules r) (if s.rowHeld r then [] else s.freeSlots r) as with
    | (here, left) => (s.fillRows rs left).map fun more => here ++ more

/-- The blocks resident on a core. -/
def State.blocksOn (s : State) (core : Nat) : List (Nat × Block) := s.wk.blocks.filter fun p => p.2.cores.contains core

/-- The lowest base of a free scratchpad range on a core (log entry 19). -/
def State.freeRegion (s : State) (core size : Nat) : Option Nat :=
  let used := (s.blocksOn core).filterMap fun p => p.2.region core
  let fits := (0 :: used.map fun r => r.1 + r.2).filter fun b =>
    decide (b + size ≤ 2 ^ 18) && used.all fun r => decide (b + size ≤ r.1) || decide (r.1 + r.2 ≤ b)
  fits.foldl (fun a b => match a with | none => some b | some c => some (min b c)) none

/-- The lowest free table pair of a core (R140). -/
def State.freeTable (s : State) (core : Nat) : Option Nat :=
  (List.range 8).find? fun i => (mget s.co.tbls (8 * core + i)).isNone

/-- What a block asks of each of its cores. -/
structure Needs where
  size : Nat
  sems : Nat
  bars : Nat
  tbl : Bool
deriving DecidableEq, Repr

/-- What a core grants: the base of the region (R156). -/
def State.coreRoom (s : State) (core : Nat) (d : Needs) : Option Nat :=
  let on := s.blocksOn core
  if (on.foldl (fun a p => a + p.2.sems) 0) + d.sems ≤ 64 ∧ (on.foldl (fun a p => a + p.2.bars) 0) + d.bars ≤ 1024
      ∧ (!d.tbl || (s.freeTable core).isSome) then
    s.freeRegion core d.size
  else none

/-- A placement: cores, each wave's number and granules in wave order, regions, and grids with base and granules. -/
structure Spot where
  cores : List Nat
  waves : List (Nat × List Nat)
  regions : List (Nat × Nat × Nat)
  grids : List (Nat × Nat × List (Nat × List Nat)) := []
deriving DecidableEq, Repr

/-- A core that is in service (R413). -/
def State.coreUp (s : State) (core : Nat) : Bool := s.pk.topo.clusters.testBit (clusterOf core) && s.pk.topo.cores.testBit core
  && s.pk.offline != some (clusterOf core)

/-- The aligned core sets of n cores of a cluster within a mask (R279). -/
def State.coreSets (s : State) (q cmask n : Nat) : List (List Nat) :=
  ((List.range (4 / n)).map fun i => (List.range n).map fun j => n * i + j).filterMap fun set =>
    if set.all fun c => cmask.testBit c && s.coreUp (4 * q + c) then some (set.map fun c => 4 * q + c) else none

/-- Regions for every core of a set. -/
def State.regionsOn (s : State) (d : Needs) : List Nat → Option (List (Nat × Nat × Nat))
  | [] => some []
  | c :: cs =>
    match s.coreRoom c d, s.regionsOn d cs with
    | some b, some r => some ((c, b, d.size) :: r)
    | _, _ => none

/-- Waves over the cores of a set, a list of granule counts for each. -/
def State.wavesOn (s : State) : List Nat → List (List Nat) → Option (List (Nat × List Nat))
  | c :: cs, a :: as =>
    match s.fillRows [4 * c, 4 * c + 1, 4 * c + 2, 4 * c + 3] a, s.wavesOn cs as with
    | some x, some y => some (x ++ y)
    | _, _ => none
  | _, _ => some []

/-- Granule counts of a new block's waves, core by core (R279). -/
def newAllocs (k : KDesc) (n : Nat) : List (List Nat) :=
  let w := ceilDiv k.threads 32
  let q := ceilDiv w n
  (List.range n).map fun i => List.replicate (min q (w - i * q)) k.alloc

/-- What a bind's blocks ask of a core (R344). -/
def Bind.needs (b : Bind) : Needs := { size := 256 * min b.scr 1024, sems := min b.sems 64, bars := min b.bars 1024, tbl := b.tbl }

/-- Where a new block of a kernel goes, on the first core set that has room (R279, R280; log entry 16). -/
def State.spotNew (s : State) (q : Nat) (b : Bind) (k : KDesc) : Option Spot :=
  match coreCount k (256 * b.scr) with
  | none => none
  | some n =>
    (s.coreSets q b.cmask n).findSome? fun set =>
      match s.regionsOn b.needs set, s.wavesOn set (newAllocs k n) with
      | some r, some ws => some { cores := set, waves := ws, regions := r }
      | _, _ => none

/-! ## Placing a saved block (R237, R267) -/

/-- Granules of an accumulator region on each row of its group (R221). -/
def accGranules (h : HGrid) : Nat := h.accu * (32 / groupRows h.shape)

/-- A grid's rows and granules on a set of cores. `row` gives the new row of the device of one of its waves. -/
def State.spotGrid (s : State) (q : Nat) (j row : Nat) (h : HGrid) : Option (Nat × Nat × List (Nat × List Nat)) :=
  let base := row % 16 / groupRows h.shape * groupRows h.shape
  let rows := (List.range (groupRows h.shape)).map fun i => base + i
  let n := if h.state ≥ 2 then accGranules h else 0
  let free := (match mget s.wk.hgrids (16 * q + j) with | none => true | some g => g.state == 0)
  if free && rows.all fun r => !s.rowHeld (16 * q + r) && decide (n ≤ (s.freeGranules (16 * q + r)).length) then
    some (j, base, if n = 0 then [] else rows.map fun r => (r, (s.freeGranules (16 * q + r)).take n))
  else none

/-- Rows by place in a core set: 4·position + row. -/
def placeRow (p : Nat) : Nat := 4 * (p / 64) + p % 64 / 16

/-- The row of the device at a place of a core set. -/
def rowOfPlace (set : List Nat) (pr : Nat) : Nat := 4 * set.getD (pr / 4) 0 + pr % 4

/-- The place at which the group of a saved grid began. -/
def Saved.groupAt (v : Saved) (h : HGrid) : Nat :=
  let p := ((v.waves.find? fun p => h.signed.contains p.2.widx).map Prod.fst).getD 0
  placeRow p / groupRows h.shape * groupRows h.shape

/-- The groups of a grid's shape that its waves may take within a core set, where each stays at its position: of a group of two rows,
either half of its core (R217, R237, R267). -/
def Saved.groupChoices (v : Saved) (h : HGrid) : List Nat :=
  let b := v.groupAt h
  if h.shape = 0 then [b, if b % 4 = 0 then b + 2 else b - 2] else [b]

/-- One choice from each list. -/
def picks : List (List Nat) → List (List Nat)
  | [] => [[]]
  | c :: cs => c.flatMap fun x => (picks cs).map fun r => x :: r

/-- The place of a saved block on one core set, with a group chosen for each grid: a group's waves keep their row of it, and the
other waves take the rows of their core that no group holds. -/
def State.spotSavedWith (s : State) (q : Nat) (v : Saved) (set : List Nat) (regions : List (Nat × Nat × Nat)) (at' : List Nat) :
    Option Spot :=
  let groups := v.grids.zip at'
  let gs := groups.map fun g => s.spotGrid q g.1.1 (rowOfPlace set g.2) g.1.2
  let held := groups.flatMap fun g => (List.range (groupRows g.1.2.shape)).map fun i => g.2 + i
  if gs.any Option.isNone || held.eraseDups.length != held.length then none
  else
    let grids := gs.filterMap id
    let kept := fun (row : Nat) => grids.flatMap fun g => g.2.2.flatMap fun r => if 16 * q + r.1 = row then r.2 else []
    let moved := fun (pr : Nat) => (groups.find? fun g =>
      decide (v.groupAt g.1.2 ≤ pr) && decide (pr < v.groupAt g.1.2 + groupRows g.1.2.shape)).map fun g => g.2 + (pr - v.groupAt g.1.2)
    let inGroups := held.map fun pr =>
      let mine := v.waves.filter fun p => moved (placeRow p.1) == some pr
      let row := rowOfPlace set pr
      match fillRow ((s.freeGranules row).filter fun g => !(kept row).contains g) (s.freeSlots row) (mine.map fun p => p.2.gmap.length) with
      | (l, []) => some ((mine.map fun p => p.2.widx).zip l)
      | _ => none
    let others := (List.range set.length).map fun i =>
      let mine := v.waves.filter fun p => p.1 / 64 == i && (moved (placeRow p.1)).isNone
      (s.fillRows (((List.range 4).filter fun r => !held.contains (4 * i + r)).map fun r => rowOfPlace set (4 * i + r))
        (mine.map fun p => p.2.gmap.length)).map fun l => (mine.map fun p => p.2.widx).zip l
    let all := inGroups ++ others
    if all.any Option.isNone then none
    else
      let place := (all.filterMap id).flatten
      some { cores := set, regions := regions, grids := grids
             waves := v.waves.map fun p => ((place.find? fun a => a.1 == p.2.widx).map Prod.snd).getD (0, []) }

/-- The place of a saved block on one core set: the first choice of groups that has room. -/
def State.spotSavedOn (s : State) (q : Nat) (v : Saved) (set : List Nat) : Option Spot :=
  let d : Needs := { size := ((v.block.sp.head?.map fun r => r.2.2).getD 0), sems := v.block.sems, bars := v.block.bars, tbl := v.block.tbl }
  match s.regionsOn d set with
  | none => none
  | some r => (picks (v.grids.map fun g => v.groupChoices g.2)).findSome? fun at' => s.spotSavedWith q v set r at'

/-- Where a saved block goes: a core set of its size and alignment (R280), on a cluster whose query slots of its handles are free
(R314; log entry 43). -/
def State.spotSaved (s : State) (q : Nat) (b : Bind) (v : Saved) : Option Spot :=
  if v.queries.all fun p => (mget s.wk.queries (64 * q + p.1)).isNone then
    (s.coreSets q b.cmask v.block.cores.length).findSome? fun set => s.spotSavedOn q v set
  else none

/-! ## Candidates (R346, R347) -/

/-- Cluster of a bind's key. -/
def Bind.cluster (b : Bind) (key : Nat) : Nat := 8 * (key / 256) + b.clus

/-- Effective priority (R346). -/
def Bind.eff (b : Bind) : Nat := max b.floor (min (max b.cap b.prio) (b.prio + b.aged))

def State.bind (s : State) (key : Nat) : Option Bind := mget s.wk.binds key

def State.putBind (s : State) (key : Nat) (b : Bind) : State := { s with wk := { s.wk with binds := mput s.wk.binds key b } }

def State.modBind (s : State) (key : Nat) (f : Bind → Bind) : State := { s with wk := { s.wk with binds := mmod s.wk.binds key f } }

/-- A descriptor looked at along its FWD links, without a launch. -/
def State.peek (s : State) (ctx : Nat) : Nat → Nat → Option (Nat × KDesc)
  | 0, _ => none
  | hops + 1, d =>
    match (s.devRead ctx d 64).2 with
    | .error _ => none
    | .ok bs => if fieldOf bs 32 8 = 0 then (parseKDesc bs).map fun k => (d, k) else s.peek ctx hops (fieldOf bs 32 8)

/-- A bin's descriptor supplies its count and its timer (R418). -/
def NBin.ofKernel (n : NBin) (k : KDesc) : NBin :=
  if k.kfl.testBit 2 then { n with timer := k.ntimer, cntm1 := min (k.ncount - 1) (2 ^ n.slog2 - 1) } else n

/-- What a bind starts next. -/
inductive Start where
  | saved (img : Nat) (v : Saved)
  | again (t : Block)
  | fresh (k : KDesc)
  | bad
deriving DecidableEq, Repr

/-- The kernel of a bind over a grid range: the descriptor that its launch resolved, by the launch that its item tag names. A bind whose
item names no launch has nothing to start (R434; log entry 22). -/
def State.bindKernel (s : State) (b : Bind) : Option (Nat × KDesc) :=
  (s.grid b.item).bind fun g => if g.ctx = b.ctx then some (g.kdesc, g.k) else none

/-- The landing slot a fired bin would use (R292). -/
def NBin.landing (n : NBin) : Option Nat := (List.range (2 ^ n.llog2)).find? fun i => !n.lused.contains i

/-- A kernel that runs, or BAD_KERNEL. -/
def startOf (k : Option (Nat × KDesc)) : Start :=
  match k with
  | some (_, k) => if (coreCount k k.scratch).isSome then .fresh k else .bad
  | none => .bad

/-- The fields of a resolved descriptor in the bind record: its address, and its barriers, region, DISC and table settings (R418,
R434). DISC is copied when the record takes another descriptor; what a management core then writes to it selects or deselects discard
(R268, R344; log entry 22). -/
def Bind.ofKernel (b : Bind) (d : Nat) (k : KDesc) : Bind :=
  { b with kdesc := d, bars := k.bars, scr := ceilDiv k.scratch 256, tbl := k.kfl.testBit 1
           disc := if b.kdesc = d then b.disc else k.kfl.testBit 0 }

/-- A saved block that a bind may restore: its own, or one whose bind on another die is SAVED and names the same save area for the same
context (R267, R380; log entry 44). -/
def State.savedFor (s : State) (key : Nat) (b : Bind) (v : Saved) : Bool :=
  v.block.bind == key || (key / 256 != v.block.bind / 256 &&
    (s.bind v.block.bind).any fun o => o.state == 4 && o.save == b.save && o.ctx == b.ctx)

/-- What a READY bind has to start: a saved block, a requeued one, then what its source gives; with SRC 3 it acts as paused
(R344, R345, R347). -/
def State.nextStart (s : State) (key : Nat) (b : Bind) : Option Start :=
  if b.state ≠ 1 ∨ b.src = 3 then none
  else
    match s.wk.saved.find? fun p => s.savedFor key b p.2 with
    | some p => some (.saved p.1 p.2)
    | none =>
      match b.requeue with
      | t :: _ => some (.again t)
      | [] =>
        let q := b.cluster key
        match b.src with
        | 0 => if b.next < b.past then (s.bindKernel b).map fun k => Start.fresh k.2 else none
        | 1 =>
          match mget s.wk.tqs (64 * q + b.srcn) with
          | some t => if t.held.isEmpty then none else some (startOf (s.peek t.ctx 4 t.kdesc))
          | none => none
        | 2 =>
          match mget s.wk.nbins (256 * q + b.srcn) with
          | some n => if n.held.isEmpty || !n.fired || n.landing.isNone then none else some (startOf (s.peek n.ctx 4 n.kdesc))
          | none => none
        | _ => none

/-- Where it would go. -/
def State.spotFor (s : State) (q : Nat) (b : Bind) : Start → Option Spot
  | .saved _ v => s.spotSaved q b v
  | .again t => s.spotNew q (b.ofKernel t.kdesc t.k) t.k
  | .fresh k => s.spotNew q (b.ofKernel b.kdesc k) k
  | .bad => some { cores := [], waves := [], regions := [] }

/-- The context pointer of a level; before any start it stands at the highest number (log entry 17). -/
def State.levelPtr (s : State) (q e : Nat) : Nat := mgetD s.wk.levels (256 * q + e) 255

/-- One candidate stands before another (R347). -/
def State.standsBefore (s : State) (q : Nat) (x y : Nat × Bind) : Bool :=
  let ex := x.2.eff
  let ey := y.2.eff
  let turn := fun (e ctx : Nat) => (ctx + 511 - s.levelPtr q e) % 256
  decide (ex > ey) || (ex == ey &&
    (decide (turn ex x.2.ctx < turn ey y.2.ctx) || (x.2.ctx == y.2.ctx && decide (x.1 < y.1))))

/-- Insertion in candidate order. -/
def State.insertCand (s : State) (q : Nat) : List (Nat × Bind) → Nat × Bind → List (Nat × Bind)
  | [], x => [x]
  | y :: l, x => if s.standsBefore q x y then x :: y :: l else y :: s.insertCand q l x

/-- The candidates of a cluster, first one first. -/
def State.candidates (s : State) (q : Nat) : List (Nat × Bind) :=
  (s.wk.binds.filter fun p => p.2.cluster p.1 == q && (s.nextStart p.1 p.2).isSome).foldl (s.insertCand q) []

/-- Where a candidate's next block goes, if it can be placed. -/
def State.spotOf (s : State) (q : Nat) (p : Nat × Bind) : Option (Start × Spot) :=
  match s.nextStart p.1 p.2 with
  | none => none
  | some st => (s.spotFor q p.2 st).map fun x => (st, x)

/-- The device with a saved block's places taken, as they are while its restore holds them. -/
def State.held (s : State) (img : Nat) (v : Saved) (p : Spot) : State :=
  let s1 : State := { s with
    waves := ((v.waves.map Prod.snd).zip p.waves).foldl (fun m a => mput m a.2.1 { a.1 with gmap := a.2.2 }) s.waves
    wk := { s.wk with
      blocks := mput s.wk.blocks img { v.block with cores := p.cores, sp := p.regions }
      hgrids := (v.grids.zip p.grids).foldl (fun m g =>
        mput m (16 * clusterOf (p.cores.headD 0) + g.2.1) { g.1.2 with base := g.2.2.1, granules := g.2.2.2 }) s.wk.hgrids } }
  p.cores.foldl (fun (s : State) c =>
    match (if v.block.tbl then s.freeTable c else none) with
    | some i => { s with co := { s.co with tbls := mput s.co.tbls (8 * c + i) { blk := img, bank0 := [], bank1 := [], sel := 0 } } }
    | none => s) s1

/-- A restore that goes before the launch whose turn it is: one that can be placed beside it, since a row's pool serves reservations for
restored waves before the launches of the same clock (R118). -/
def State.restoreFirst (s : State) (q : Nat) (cs : List (Nat × Bind)) (c : Nat × Bind) : Option (Nat × Bind × Start × Spot) :=
  cs.findSome? fun d =>
    match s.spotOf q d with
    | some (.saved i v, p) => if ((s.held i v p).spotOf q c).isSome then some (d.1, d.2, .saved i v, p) else none
    | _ => none

/-- The candidate whose turn it is: the first that can be placed, unless one that cannot has stood first for 2 µs
(R347). Where that is a launch, a restore that has its place in the same clock is served before it (R118). -/
def State.turn (s : State) (q : Nat) : Option (Nat × Bind × Start × Spot) :=
  let cs := s.candidates q
  let stuck := match cs with
    | [] => false
    | c :: _ => (s.spotOf q c).isNone && (match mget s.wk.first q with
      | some (key, since) => key == c.1 && decide (since + 2000 ≤ s.timeNs)
      | none => false)
  if stuck then none
  else cs.findSome? fun c => (s.spotOf q c).map fun p =>
    match p.1 with
    | .saved .. => (c.1, c.2, p.1, p.2)
    | _ => (s.restoreFirst q cs c).getD (c.1, c.2, p.1, p.2)

/-- Which bind stands first on each cluster, and since when (R347). -/
def State.trackFirst (s : State) : State :=
  if s.wk.binds.isEmpty then s
  else
    let qs := s.wk.binds.foldl (fun (a : List Nat) p => ladd a (p.2.cluster p.1)) []
    let first := qs.foldl (fun (m : Map (Nat × Nat)) q =>
      match s.candidates q with
      | [] => m
      | c :: _ =>
        match mget s.wk.first q with
        | some (key, since) => mput m q (c.1, if key = c.1 then since else s.timeNs)
        | none => mput m q (c.1, s.timeNs)) []
    { s with wk := { s.wk with first := first } }

/-! ## Starting a block (R79, R80, R140, R156, R158, R280) -/

/-- A wave at its start. -/
def startWave (t : Block) (id uid widx : Nat) (gmap : List Nat) : Wave :=
  let s0 : Map Word := [(1, BitVec.ofNat 32 widx), (2, BitVec.ofNat 32 t.arg), (3, BitVec.ofNat 32 (t.arg / 2 ^ 32)),
    (4, BitVec.ofNat 32 t.x), (5, BitVec.ofNat 32 t.y), (6, BitVec.ofNat 32 t.z), (7, BitVec.ofNat 32 t.s7),
    (8, BitVec.ofNat 32 t.s8), (9, BitVec.ofNat 32 (t.s8 / 2 ^ 32)), (10, BitVec.ofNat 32 t.waves)]
  { uid := uid, blk := id, widx := widx, gmap := gmap, s := s0.filter fun p => p.2 != 0#32, k := []
    d := [0, 0, 0, 0, 0, 0], dwas := [0, 0, 0, 0, 0, 0]
    lanes := (List.range 32).map fun l =>
      { pc := BitVec.ofNat 64 t.k.entry, ep := 0, st := if 32 * widx + l < t.threads then .live else .exited, neglect := 0 }
    wcw := 0#32, ts := 0, enrol := [], arrivals := [], pend := [], sq := [], txn := {}, mon := {}, parks := []
    batch := 0, credit := [], sealed := [], next := 0, run := .running, trapped := false, dbg := false, frame := none
    reported := false, stepping := false, hit := none, issues := 0, skipBp := [], replay := none }

/-- v0 of a starting wave holds the linear thread index of each lane (R80). -/
def State.threadIndex (s : State) (w : Nat) (x : Wave) : State :=
  (List.range 32).foldl (fun s l => s.vwrite w x 0 l (BitVec.ofNat 32 (32 * x.widx + l)) 0) s

/-- Regions cleared to zero (R158). -/
def State.clearRegion (s : State) (core base size : Nat) : State :=
  { s with co := { s.co with
      sp := mclear s.co.sp (2 ^ 18 * core + base) size
      spBad := mclear s.co.spBad ((2 ^ 18 * core + base) / 2) (size / 2)
      spRels := mclear s.co.spRels (2 ^ 18 * core + base) size } }

/-- The cluster barriers of an allocation forget everything (R193). -/
def State.clearBars (s : State) (q cb cn : Nat) : State :=
  { s with co := { s.co with bars := (List.range cn).foldl (fun m j => mdel m (2 * (64 * q + cb + j) + 1)) s.co.bars } }

/-- Table pairs bound on every core of a set. -/
def State.bindTables (s : State) (id : Nat) (cores : List Nat) : State :=
  cores.foldl (fun s c =>
    match s.freeTable c with
    | some i => { s with co := { s.co with tbls := mput s.co.tbls (8 * c + i) { blk := id, bank0 := [], bank1 := [], sel := 0 } } }
    | none => s) s

/-- The lowest save slot of a bind that no block of it holds. -/
def State.freeSave (s : State) (key : Nat) : Nat :=
  let used := (s.wk.blocks.filterMap fun p => if p.2.bind = key then some p.2.saveNo else none)
    ++ s.wk.saved.filterMap fun p => if p.2.block.bind = key then some p.2.block.saveNo else none
  ((List.range (used.length + 1)).find? fun i => !used.contains i).getD 0

/-- A bind has started a block: its level's pointer, its clocks and its counts; a candidate that stood first and is passed over goes on
standing first (R346, R347). -/
def State.bindStarted (s : State) (key q e ctx : Nat) : State :=
  let s1 := s.modBind key fun b => { b with since := s.timeNs, aged := 0 }
  { s1 with wk := { s1.wk with
      levels := mput s1.wk.levels (256 * q + e) ctx
      first := if (mget s1.wk.first q).any fun f => f.1 != key then s1.wk.first else mdel s1.wk.first q } }

/-- A block starts on a placement: every wave at once, and an acquire for each core (R280, R297). -/
def State.startBlock (s : State) (key q : Nat) (t : Block) (p : Spot) : State :=
  let id := s.stamp
  let e := ((s.bind key).map Bind.eff).getD 0
  let t := { t with bind := key, cores := p.cores, sp := p.regions, prio := e, started := s.clock, saving := false, saveNo := s.freeSave key
                    discardable := true, killed := false, status := 1 }
  let s1 : State := { s with stamp := s.stamp + p.waves.length + 1, wk := { s.wk with blocks := mput s.wk.blocks id t } }
  let s2 := p.regions.foldl (fun s r => s.clearRegion r.1 r.2.1 r.2.2) s1
  let s3 := s2.clearBars q t.cb t.cn
  let s4 := if t.tbl then s3.bindTables id p.cores else s3
  let s5 := (p.waves.zipIdx).foldl (fun (s : State) a =>
    let w := a.1.1
    let x := startWave t id (id + 1 + a.2) a.2 a.1.2
    (((s.zeroGranules (deviceRow w) a.1.2).putWave w x).threadIndex w x)) s4
  (p.cores.foldl (fun s c => s.acquireAt c 4 (((s.grid t.grid).map Grid.deps).getD [])) s5).bindStarted key q e t.ctx

/-- A block's settings from its bind and its kernel (R344, R418). -/
def Bind.block (b : Bind) (key grid kdesc : Nat) (k : KDesc) (x y z s7 s8 arg depth : Nat) (landing : Option (Nat × Nat)) : Block :=
  { ctx := b.ctx, bind := key, grid := grid, x := x, y := y, z := z, kdesc := kdesc, k := k, gen := k.gen, threads := k.threads
    waves := ceilDiv k.threads 32, alloc := k.alloc, cores := [], sp := [], prio := 0, depth := depth, idem := k.kfl.testBit 0
    discardable := true, killed := false, rein := if k.kfl.testBit 3 then some k.rfirst else none
    bars := min b.bars 1024, sems := min b.sems 64, cb := b.cb, cn := b.cn, tbl := b.tbl, rbase := b.rbase, rlog := min b.rlog 8
    swz := b.swz, landing := landing, started := 0, status := 1, s7 := s7, s8 := s8, arg := arg, saving := false, saveNo := 0 }

/-- R79, R80, R156, R279, R280, R347. A READY bind over a grid range starts its next block, or one that was discarded. -/
def execBlockStart (bind cluster : Nat) (s : State) : Out :=
  match s.turn cluster with
  | some (key, b, st, p) =>
    if key ≠ bind then .next s
    else
      match st with
      | .again t => .next ((s.modBind key fun b => { b with requeue := b.requeue.drop 1 }).startBlock key cluster t p)
      | .fresh k =>
        if b.src = 0 then
          let gxy := max b.gx 1
          let b := b.ofKernel (((s.bindKernel b).map Prod.fst).getD b.kdesc) k
          let t := b.block key b.item b.kdesc k (b.next % gxy) (b.next / gxy % max b.gy 1) (b.next / (gxy * max b.gy 1)) 0 0 b.arg b.depth none
          let s1 := s.putBind key { b with next := b.next + 1, run := b.run + 1 }
          let s2 := match s1.grid b.item with
            | some g => s1.putGrid' b.item { g with child := false }
            | none => s1
          .next (s2.startBlock key cluster t p)
        else .next s
      | _ => .next s
  | none => .next s

/-! ## Ending a block -/

/-- A bind over a grid range with nothing left is DONE (R345). -/
def Bind.settle (b : Bind) : Bind := if b.state = 1 ∧ b.src = 0 ∧ b.next = b.past ∧ b.run = 0 then { b with state := 5 } else b

/-- Everything the block holds outside its waves is freed: region, barriers, semaphores, ring, table pair (R264). -/
def State.freeBlock (s : State) (id : Nat) : State :=
  { s with
    wk := { s.wk with blocks := mdel s.wk.blocks id, queries := s.wk.queries.filter fun p => p.2.blk != id }
    co := { s.co with
      bars := s.co.bars.filter fun p => !(p.1 % 2 == 0 && p.1 / 2 / 1024 / 128 == id)
      sems := s.co.sems.filter fun p => p.1 / 64 / 128 != id
      rings := s.co.rings.filter fun p => p.1 / 128 != id
      tbls := s.co.tbls.filter fun p => p.2.blk != id } }

/-- The landing slot of a node block is free (R292). -/
def State.freeLanding (s : State) (l : Option (Nat × Nat)) : State :=
  match l with
  | some (bin, slot) =>
    { s with wk := { s.wk with nbins := mmod s.wk.nbins bin fun n => { n with lused := n.lused.filter fun i => i != slot } } }
  | none => s

/-- A block's item learns of its end (R285, R293). -/
def State.blockEnds (s : State) (t : Block) (status n : Nat) : State :=
  let s1 := (s.freeLanding t.landing).modBind t.bind fun b => { b with run := b.run - n }.settle
  match s1.grid t.grid with
  | some g =>
    (s1.putGrid' t.grid { g with
      retired := g.retired + n, status := worseStatus g.status status, last := t.cores.headD g.last
      seen := t.cores.foldl (fun a c => (s1.m.seenBy c).foldl ladd a) g.seen }).settleGrid 65536 t.grid
  | none => s1

/-- A block retires with a status: its writes are released, what it holds is freed, and its item learns of it
(R280, R285). -/
def State.retireBlock (s : State) (id status : Nat) : State :=
  match s.block id with
  | none => s
  | some t =>
    let s1 := t.cores.foldl (fun s c => s.releaseEager c 4) s
    (s1.freeBlock id).blockEnds t status 1

/-- The stops of a block leave the trap queues. -/
def State.dropStops (s : State) (id : Nat) : State :=
  { s with co := { s.co with sups := s.co.sups.map fun p => (p.1, { p.2 with queue := p.2.queue.filter fun e => e.blk != id }) } }

/-- A block's waves and grids are removed (R264); a STEP of one of them is over (R320). -/
def State.removeWaves (s : State) (id : Nat) : State :=
  { s.dropStops id with
    waves := s.waves.filter fun p => p.2.blk != id
    wk := { s.wk with hgrids := s.wk.hgrids.filter fun p => !(p.2.state != 0 && p.2.blk == id)
                      queries := s.wk.queries.filter fun p => p.2.blk != id
                      dbgs := s.wk.dbgs.map fun d =>
                        if s.waves.any fun p => p.2.blk == id && p.2.stepping && clusterOf (coreOf p.1) == d.1 then
                          (d.1, { d.2 with stepRun := false }) else d }
    pk := { s.pk with colls := s.pk.colls.filter fun p => p.2.blk != id } }

/-- The copy entries of a block that are in flight fail with ABORTED (R208, R264). -/
def State.abortCopies (s : State) (id : Nat) (t : Block) : State :=
  t.cores.foldl (fun s core => (s.ring id core).busy.foldl (fun s e => s.finishCopy core id e 0x8A) s) s

/-- SELECT is written 0, as a SAVE ends (R345). -/
def State.clearSelect (s : State) (b : Bind) : State := (s.devWrite b.ctx b.save (leBytesOf 8 0)).1

/-- A SAVE ends when no block of the bind is being saved: STATE, and SELECT := 0 (R345). -/
def State.saveEnds (s : State) (key : Nat) : State :=
  match s.bind key with
  | none => s
  | some b =>
    if b.state ≠ 3 ∨ s.wk.blocks.any fun p => p.2.bind == key && p.2.saving then s
    else (s.putBind key ({ b with state := b.back } : Bind).settle).clearSelect b

/-- Teardown: waves and grids go, copies in flight fail, regions are freed, the item reports, and a save that waited for the block
has nothing left to wait for (R264, R345). -/
def State.teardown (s : State) (id status : Nat) : State :=
  match s.block id with
  | none => s
  | some t => (((s.abortCopies id t).removeWaves id).retireBlock id status).saveEnds t.bind

/-- A wave that has nothing left to do, whether it runs, is told to stop or is being saved (R97): no lane live or parked, every slot 0, its
stores out of their queue; the lead of a grid retires after the release (R226). -/
def State.waveDone (s : State) (w : Nat) (x : Wave) : Bool :=
  x.lanes.all (fun y => y.st == .exited) && x.d.all (· == 0) && x.sq.isEmpty && (s.gridOfWave w).isNone

/-- What a retiring wave has issued without a slot is performed with its retirement: the rest of its accesses, table loads among them, and
the granules it has given away; its results land (R97; log entry 40). A STEP of it is over (R320). -/
def State.endWave (s : State) (w : Nat) (x : Wave) : State :=
  let s1 := s.settleWave w
  let s2 := ((s1.wave w).getD x).pend.foldl (fun (s : State) p =>
    match p.work with
    | .quota _ t gs _ => s.gainGranules t gs
    | k => s.applyWrites w k.lands) s1
  let q := clusterOfWave w
  let s3 := if x.stepping then s2.putDbg q { s2.dbg q with stepRun := false } else s2
  { s3 with waves := mdel s3.waves w }

/-- R97. A wave retires. -/
def execWaveRetire (w : Nat) (s : State) : Out :=
  match s.wave w with
  | some x => if s.waveDone w x then .next (s.endWave w x) else .next s
  | none => .next s

/-- Copies of a block that the engine has taken or has still to take (R280). -/
def State.copiesLeft (s : State) (id : Nat) (t : Block) : Bool :=
  t.cores.any fun c => let r := s.ring id c; !r.busy.isEmpty || decide (r.taken < r.notify)

/-- R280, R285. A block retires when its last wave has retired and every copy entry it published has completed. -/
def execBlockRetire (blk : Nat) (s : State) : Out :=
  match s.block blk with
  | some t =>
    if (s.waves.any fun p => p.2.blk == blk) || s.copiesLeft blk t || t.saving then .next s
    else .next (s.retireBlock blk (if t.killed then 2 else 1))
  | none => .next s

end Sys2Proof.Machine
end

