-- ==== Sys2Proof/Machine/Harness.lean ====
section
/-! DEFINITION. Harness.lean: mustering, the grid's instructions, and how they complete (09 R217 to R237; 10 R238 to
R255). -/

namespace Sys2Proof.Machine

/-! ## Mustering (R219 to R222, R243) -/

/-- Row of a wave within its cluster (R217). -/
def clusterRow (w : Nat) : Nat := deviceRow w % 16

/-- The grid key of a mustering register on a wave's cluster. -/
def hKey (w j : Nat) : Nat := 16 * clusterOfWave w + j

def State.hgrid (s : State) (g : Nat) : HGrid := mgetD s.wk.hgrids g {}

/-- HARNESS_RANGE with the control word as its address (R240). -/
def Issue.hrange (c : Issue) (sub cw : Nat) : Eff := .raise .harnessRange c.con sub cw

/-- The fields of HMUST's control word: shape, capacity and expected count (R243). -/
structure Muster where
  shape : Nat
  accu : Nat
  expect : Nat
deriving DecidableEq, Repr

def Muster.of (cw : Nat) : Muster := { shape := cw % 4, accu := bitsOf cw 6 2, expect := bitsOf cw 15 7 }

/-- R243. -/
def Muster.ok (m : Muster) : Bool :=
  decide (1 ≤ m.expect) && decide (m.expect ≤ 16 * groupRows m.shape) && decide (1 ≤ m.accu)
    && decide (m.accu ≤ min 16 (4 * groupRows m.shape))

/-- The register as a first signer binds it (R220). -/
def Issue.freshGrid (c : Issue) (s : State) (m : Muster) : HGrid :=
  let gr := groupRows m.shape
  { uid := s.stamp, state := 1, ctx := s.ctxNo c.x, bslot := ((s.block c.x.blk).map fun b => b.bind % 256).getD 0, blk := c.x.blk, expect := m.expect
    shape := m.shape, base := clusterRow c.w / gr * gr, accu := m.accu }

/-- The first failing clause of a match; 0 for none (R220). -/
def Issue.mismatch (c : Issue) (s : State) (h : HGrid) (m : Muster) : Nat :=
  if h.ctx ≠ s.ctxNo c.x ∨ h.blk ≠ c.x.blk then 1
  else if h.shape ≠ m.shape ∨ h.accu ≠ m.accu ∨ h.expect ≠ m.expect then 2
  else if clusterRow c.w < h.base ∨ h.base + groupRows h.shape ≤ clusterRow c.w then 3
  else if h.signed.contains c.w then 4
  else if h.state ≠ 1 then 6
  else 0

/-- The granules a group gives its accumulators, or none when a row lacks them (R221; log entry 16). -/
def State.takeGroup (s : State) (g : Nat) (h : HGrid) : Option (List (Nat × List Nat)) :=
  let n := accGranules h
  let rows := (List.range (groupRows h.shape)).map fun i => h.base + i
  if rows.all fun r => decide (n ≤ (s.freeGranules (16 * (g / 16) + r)).length) then
    some (rows.map fun r => (r, (s.freeGranules (16 * (g / 16) + r)).take n))
  else none

/-- R220, R243. Sign a mustering register. -/
def execHmust (x : Body) (s : State) : Out :=
  run (.hmust x) s fun c s =>
    let cw := c.sB s
    let m := Muster.of cw
    let g := hKey c.w (c.b.mdN % 16)
    let h0 := s.hgrid g
    if (s.gridOfWave c.w).isSome then .raise .harnessState c.con
    else if cw / 2 ^ 16 ≠ 0 then c.hrange 1 cw
    else if !m.ok then c.hrange 2 cw
    else
      let h := if h0.state = 0 then c.freshGrid s m else h0
      let claimed := h0.state = 0 ∧ (groupRowsOf g h).any fun r => s.rowHeld r
      let bad := if h0.state = 0 then 0 else c.mismatch s h0 m
      if claimed then .raise .harnessMismatch c.con 5
      else if bad ≠ 0 then .raise .harnessMismatch c.con bad
      else
        let parked := fun (s : State) => s.modWave c.w fun x => x.park c.con s.stamp (.muster g)
        let h1 := { h with signed := h.signed ++ [c.w] }
        if h1.signed.length < m.expect then .go { s := parked (s.putGrid g h1), work := some (.park none) }
        else
          match s.takeGroup g h1 with
          | none => .raise .harnessRfBusy c.con
          | some gs => .go { s := parked (s.putGrid g { h1 with state := 2, granules := gs }), work := some (.park none) }

/-- Waves on the rows of a group. -/
def State.onGroup (s : State) (g : Nat) (h : HGrid) : List (Nat × Wave) :=
  s.waves.filter fun p => (groupRowsOf g h).contains (deviceRow p.1)

/-- The lead: the signer with the lowest core and slot (R222). -/
def HGrid.leader (h : HGrid) : Nat := h.signed.foldl min (h.signed.headD 0)

/-- R222. The group switches: every instruction issued on its rows has completed, storage is reset and the lead becomes
live. An instruction that waits for another wave or for a batch (R448 names them) may stay pending across the switch: step 1 gives
48 clocks to instructions that need not end in any time, and the model exempts these (log entry 20). -/
def execGridSwitch (g : Nat) (s : State) : Out :=
  match mget s.wk.hgrids g with
  | none => .next s
  | some h =>
    if h.state ≠ 2 ∨ h.sw ∨ (s.onGroup g h).any fun p => !p.2.pend.all fun q => q.work.kept then .next s
    else
      let lead := h.leader
      let s1 := s.putGrid g { h with sw := true, lead := some lead, store := [], marks := [], curb := 0, fl := 0#5 }
      .next (s1.modWave lead fun x => x.unpark s.clock (fun p => p.kind == .muster g) none)

/-! ## Operand records (R230) and formats -/

structure Record where
  off : Nat
  pitch : Nat
  stoff : Nat
  metaoff : Nat
  spn : Nat
  mx : Bool
  fmt : Nat
deriving DecidableEq, Repr

/-- The record of an s quad, as a 128-bit number, with the literal added to OFFSET. -/
def Record.of (q off : Nat) : Record :=
  { off := (q % 2 ^ 32 + off) % 2 ^ 18, pitch := bitsOf q 51 32, stoff := bitsOf q 95 71, metaoff := bitsOf q 127 112
    spn := bitsOf q 103 102, mx := q.testBit 100, fmt := bitsOf q 99 96 }

/-- The clauses of R230. `any` ignores the format. -/
def recordOk (q : Nat) (any : Bool) : Bool :=
  q % 16 == 0 && bitsOf q 35 32 == 0 && bitsOf q 63 52 == 0 && bitsOf q 70 64 == 0 && bitsOf q 111 104 == 0 && !q.testBit 101
    && (any || (decide (bitsOf q 99 96 ≤ 8) && !(q.testBit 100 && decide (bitsOf q 99 96 > 4))))

/-- Element width of FMT. -/
def fmtBits (n : Nat) : Nat := match n with | 2 | 3 => 6 | 4 => 4 | 5 | 6 => 16 | _ => 8

/-- Element format of FMT. -/
def fmtOf (n : Nat) : Fmt := match n with | 0 => .e4m3 | 1 => .e5m2 | 2 => .e3m2 | 3 => .e2m3 | 4 => .e2m1 | 5 => .f16 | _ => .bf16

/-- Stored values of a group by SPN (R44). -/
def groupVals (spn : Nat) : Nat := match spn with | 1 => 6 | 2 => 8 | _ => 12

/-- A bank's descriptor fields (R242). -/
def descKc (d : Nat) : Nat := 4 * 2 ^ bitsOf d 8 7
def descSpn (d : Nat) : Nat := bitsOf d 6 5
def HGrid.desc (h : HGrid) (bank : Nat) : Nat := if bank = 0 then h.desc0 else h.desc1

/-- Groups of a column of a sparse bank of physical K (R228). -/
def sparseGroups (p spn : Nat) : Nat := p / 128 * (120 / groupVals spn)

/-- The full K of a bank (R250). -/
def HGrid.fullK (h : HGrid) (d : Nat) : Nat :=
  let p := descKc d * gridRows h.shape
  if descSpn d = 0 then p else 24 * sparseGroups p (descSpn d)

/-- The Kc code that a pair of formats works at, or none (R249). -/
def pairKc (a b : Nat) : Option Nat :=
  if a ≤ 4 ∧ b ≤ 4 then some (if a = 4 ∧ b = 4 then 2 else 1)
  else if (a = 5 ∨ a = 6) ∧ (b = 5 ∨ b = 6) then some 0
  else if (a = 7 ∨ a = 8) ∧ (b = 7 ∨ b = 8) then some 1
  else none

/-! ## What an instruction of the lead checks (R239, R240) -/

/-- HLDA's buffer, the entries and the use of it; HLDA.none ends the use (R245). -/
def HGrid.doHlda (h : HGrid) (o : HOp) : HGrid :=
  let b := o.args.getD 0 0
  { h.putNum (0x5C000 + 128 * b) 128 (o.args.getD 1 0) with ixCur := b, idxv := true }

def HGrid.doHldaNone (h : HGrid) : HGrid := { h with idxv := false }

/-- HSWAP's flip of the bank select (R248). -/
def HGrid.doHswap (h : HGrid) : HGrid := { h with curb := 1 - h.curb }

/-- HLDB's descriptor (R242). -/
def HGrid.doDesc (h : HGrid) (o : HOp) : HGrid :=
  if o.args.getD 0 0 = 0 then { h with desc0 := o.args.getD 8 0 } else { h with desc1 := o.args.getD 8 0 }

/-- What a pending instruction will have done to the index vector, the bank select and the descriptors. -/
def HGrid.foresee (h : HGrid) (o : HOp) : HGrid :=
  match o.code with
  | 0x1E2 => h.doHlda o
  | 0x2E2 => h.doHldaNone
  | 0x1E3 => h.doDesc o
  | 0x1E4 => h.doHswap
  | _ => h

/-- The grid as the next instruction of the lead finds it: after every older one (R233). -/
def HGrid.ahead (h : HGrid) : HGrid := h.ops.foldl HGrid.foresee h

/-- Whether an older access of the wave to the core's own scratchpad is pending, other than the grid's own, or an older acquire or
fence: the grid's passes come after it (R161, R241, R361). -/
def Wave.spPending (x : Wave) (core : Nat) : Bool :=
  (x.pend.any fun q => q.work.holds false || (q.work.onSp core && (match q.work with | .grid .. | .hmma _ => false | _ => true)))
    || x.sq.any fun e => e.onSp core

/-- The lead of a harnessed grid, once its older scratchpad accesses have been performed; any other wave raises HARNESS_STATE (R239). -/
def Issue.lead (c : Issue) (s : State) (f : State → Nat → HGrid → Eff) : Eff :=
  match s.gridOfWave c.w with
  | some (g, h) =>
    if h.lead = some c.w ∧ h.state = 2 ∧ h.sw then (if c.x.spPending (coreOf c.w) then .wait else f s g h.ahead)
    else .raise .harnessState c.con
  | none => .raise .harnessState c.con

/-- The record an instruction names, with `off` added to its OFFSET: HARNESS_RECORD unless it is well formed. -/
def Issue.recordAt (c : Issue) (s : State) (any : Bool) (off : Nat) (f : Record → Eff) : Eff :=
  let q := c.sGroup s c.b.a.toNat 4
  if recordOk q any then f (.of q off) else .raise .harnessRecord c.con

/-- The record of an address form `sp:[sAq + off]` (R238). -/
def Issue.record (c : Issue) (s : State) (any : Bool) (f : Record → Eff) : Eff :=
  c.recordAt s any (litExt true 64 (c.b.lit.getD 0#32)) f

/-- The size of the lead's region on its core. -/
def Issue.regionSize (c : Issue) (s : State) : Nat := (((s.block c.x.blk).bind fun b => b.region (coreOf c.w)).getD (0, 0)).2

/-- SCRATCH_RANGE at the first of some ranges that leaves the region (R240). -/
def Issue.ranges (c : Issue) (s : State) (rs : List (Nat × Nat)) (f : Unit → Eff) : Eff :=
  match rs.find? fun r => decide (r.1 + r.2 > c.regionSize s) with
  | some r => .raise .scratchRange c.con 0 r.1
  | none => f ()

/-- A harness instruction joins the grid's order and waits for its turn; `late` for one that may still trap (R254). -/
def Issue.enqueue (c : Issue) (s : State) (g code : Nat) (args : List Nat) (work : Work) (hold : Bool) (late : Bool := false) : Eff :=
  let o : HOp := { stamp := s.stamp, code := code, pc := c.pc, args := args, start := s.clock, done := 0 }
  .go { s := s.modGrid g fun h => { h with ops := h.ops ++ [o] }, work := some work, hold := hold, late := late }

/-- Scratchpad bytes of the lead's block as the lead reads them while it issues. -/
def Issue.spRead (c : Issue) (s : State) (off n : Nat) : State × Nat :=
  let core := coreOf c.w
  (c.watchNow s [{ lane := c.low, off := 0, len := n, va := off, loc := .sp core off c.x.blk }] false true,
    s.spNum core c.x.blk off n)

/-! ## The instructions (R244 to R255) -/

/-- R244. Ask for the release; the lead is not ready until it ends. -/
def execHrel (x : Body) (s : State) : Out :=
  run (.hrel x) s fun c s => c.lead s fun s g _ => c.enqueue s g 0x1E1 [] (.hrel g) true

/-- R245. Load an index vector. Its entries are read as it issues, for their check. Which buffer counts as most recently written before
the first HLDA of a grid, the spec does not say: the model takes buffer 0, so that the first HLDA writes buffer 1 (log entry 20). -/
def execHlda (x : Body) (s : State) : Out :=
  run (.hlda x) s fun c s => c.lead s fun s g h =>
    let n := (c.s s c.b.b.toNat).toNat
    let a := c.spAddr s 0
    if n < 1 ∨ n > 64 then c.hrange 2 n
    else if a % 2 ≠ 0 then .raise .misaligned c.con 0 a
    else c.ranges s [(a, 2 * n)] fun _ =>
      match c.spRead s a (2 * n) with
      | (s1, v) =>
        let es := (List.range n).map fun i => v / 65536 ^ i % 65536
        if es.any fun e => decide (e > 511) then c.hrange 4 n
        else
          let b := 1 - h.ixCur
          let all := (List.range 64).foldl (fun a i => a + (es.getD i 0xFFFF) * 65536 ^ i) 0
          c.enqueue s1 g 0x1E2 [b, all] (.grid g [] none) false

/-- R245. Clear the use of an index vector. -/
def execHldaNone (x : Body) (s : State) : Out :=
  run (.hldaNone x) s fun c s => c.lead s fun s g _ => c.enqueue s g 0x2E2 [] (.grid g [] none) false

/-- A metadata word in the form of R45. -/
def metaOk (nz w : Nat) : Bool :=
  let ix := fun i => bitsOf w (5 * i + 4) (5 * i)
  decide (w < 2 ^ (5 * nz)) && (List.range nz).all (fun i => decide (ix i ≤ 23))
    && (List.range (nz - 1)).all fun i => decide (ix i < ix (i + 1))

/-- R246. Load a weight bank. Its metadata is read and checked as it issues; bank, metadata store and descriptor are written together when
its turn comes. -/
def execHldb (x : Body) (s : State) : Out :=
  run (.hldb x) s fun c s => c.lead s fun s g h => c.record s false fun r =>
    let bank := c.b.mdN % 2
    let kc := c.b.mdN / 2 % 4
    let p := 4 * 2 ^ kc * gridRows h.shape
    let okKc := match r.fmt with | 5 | 6 => kc == 0 | 4 => kc == 1 || kc == 2 | _ => kc == 1
    let gs := sparseGroups p r.spn
    let sparse := decide (r.spn ≠ 0)
    if !okKc ∨ (sparse ∧ (p < 128 ∨ 24 * gs > 512 ∨ (r.mx ∧ 24 * gs % 32 ≠ 0))) then .raise .harnessRecord c.con
    else
      let n := gridN h.shape
      let vals := if sparse then gs * groupVals r.spn else p
      let bytes := vals * fmtBits r.fmt / 8
      let cols := (List.range n).map fun i => ((r.off + i * r.pitch) % 2 ^ 18, bytes)
      let mo := 8 * r.metaoff % 2 ^ 18
      let meta' := if sparse then [(mo, 8 * n * gs)] else []
      c.ranges s (cols ++ meta') fun _ =>
        match (if sparse then c.spRead s mo (8 * n * gs) else (s, 0)) with
        | (s1, v) =>
          let ws := if sparse then (List.range (n * gs)).map fun i => v / 2 ^ (64 * i) % 2 ^ 64 else []
          if ws.any fun w => !metaOk (groupVals r.spn) w then .raise .sparseMetadata c.con
          else
            let d := 512 + kc * 128 + r.spn * 32 + r.mx.toNat * 16 + r.fmt
            c.enqueue s1 g 0x1E3 ([bank, kc, r.fmt, r.spn, r.off, r.pitch, mo, gs, d] ++ ws) (.grid g [] none) false

/-- R248. Flip the bank select for the rows that enter after it. -/
def execHswap (x : Body) (s : State) : Out :=
  run (.hswap x) s fun c s => c.lead s fun s g _ => c.enqueue s g 0x1E4 [] (.grid g [] none) false

/-- R247. Copy scale lines. Whether the record of HLDS.a counts as an A record, whose SPN must be 0, the spec does not say: the model
takes it with any SPN, since HLDS uses none of the record's fields but STOFF (R230; log entry 20). -/
def execHlds (x : Body) (s : State) : Out :=
  run (.hlds x) s fun c s => c.lead s fun s g h => c.record s false fun r =>
    let cw := (c.s s c.b.b.toNat).toNat
    let tgt := c.b.mdN % 4
    let cnt := bitsOf cw 17 9
    let first := cw % 512
    let at' := wrapInt 18 ((r.stoff * 128 : Nat) + ((c.b.lit.getD 0#32).toInt))
    if cw / 2 ^ 18 ≠ 0 then c.hrange 1 cw
    else if first + cnt ≥ (if tgt = 0 then 512 else gridN h.shape) then c.hrange (if tgt = 0 then 2 else 5) cw
    else c.ranges s [(at', 16 * (cnt + 1))] fun _ =>
      c.enqueue s g 0x1E5 [tgt, first, cnt + 1, at'] (.grid g [] none) false

/-- R249 to R251. Stream rows through the grid. -/
def execHmma (x : Body) (s : State) : Out :=
  run (.hmma x) s fun c s => c.lead s fun s g h => c.recordAt s false 0 fun r =>
    let cw := c.sB s
    let d := h.desc h.curb
    let kl := bitsOf cw 23 20
    let a := bitsOf cw 19 9
    let m := cw % 512 + 1
    let full := h.fullK d
    let k := if kl = 0 then full else 32 * kl
    if r.spn ≠ 0 ∨ d < 512 ∨ pairKc r.fmt (d % 16) ≠ some (bitsOf d 8 7) ∨ (r.mx ∧ full % 32 ≠ 0) then .raise .harnessRecord c.con
    else if cw / 2 ^ 24 ≠ 0 then c.hrange 1 cw
    else if kl ≠ 0 ∧ (descSpn d ≠ 0 ∨ 32 * kl > full) then c.hrange 2 cw
    else if a + m > h.accRows then c.hrange 3 cw
    else
      let idx := fun i => if h.idxv then h.num (0x5C000 + 128 * h.ixCur + 2 * i) 2 else i
      if h.idxv ∧ (m > 64 ∨ (List.range m).any fun i => idx i == 0xFFFF) then c.hrange 4 cw
      else
        let bytes := ceilDiv (k * fmtBits r.fmt) 8
        c.ranges s ((List.range m).map fun i => ((r.off + idx i * r.pitch) % 2 ^ 18, bytes)) fun _ =>
          c.enqueue s g 0x1E6 [m, a, k, r.fmt, r.mx.toNat, r.off, r.pitch, h.idxv.toNat, h.ixCur, h.curb] (.hmma g) false

/-- R252. Zero accumulator rows. -/
def execHzero (x : Body) (s : State) : Out :=
  run (.hzero x) s fun c s => c.lead s fun s g h =>
    let cw := (c.s s c.b.b.toNat).toNat
    let a := cw % 2048
    let cnt := bitsOf cw 21 11
    if cw / 2 ^ 22 ≠ 0 then c.hrange 1 cw
    else if a + cnt ≥ h.accRows then c.hrange 3 cw
    else c.enqueue s g 0x1E7 [a, cnt + 1] (.grid g [] none) false

/-- R252. Scale accumulator rows by per-lane factors. -/
def execHrowsc (x : Body) (s : State) : Out :=
  run (.hrowsc x) s fun c s => c.lead s fun s g h =>
    let cw := (c.s s c.b.b.toNat).toNat
    let a := cw % 2048
    let r := Body.regs c.b.aW
    if cw / 2 ^ 11 ≠ 0 then c.hrange 1 cw
    else if a + 32 * r - 1 ≥ h.accRows then c.hrange 3 cw
    else
      let fs := (List.range r).flatMap fun i => c.lanes.flatMap fun l => [a + 32 * i + l, (c.v s (c.b.a.toNat + i) l).toNat]
      c.enqueue s g 0x1E8 (32 * r :: fs) (.grid g [] none) false

/-- Element width of HDRN's fmt (R253). -/
def drainBits (f : Nat) : Nat := match f with | 1 | 2 => 16 | 3 | 4 => 8 | 5 | 6 => 6 | 7 => 4 | _ => 32

/-- R253. Drain accumulator elements into registers: the lead holds until its poison is known (R254). -/
def execHdrnReg (x : Body) (s : State) : Out :=
  run (.hdrnReg x) s fun c s => c.lead s fun s g h =>
    let cw := (c.s s c.b.b.toNat).toNat
    let a := cw % 2048
    let n0 := bitsOf cw 17 11
    let f := c.b.mdN % 16
    let e := if drainBits f = 6 then 4 * Body.regs c.b.dW else 32 * Body.regs c.b.dW / drainBits f
    if cw / 2 ^ 18 ≠ 0 then c.hrange 1 cw
    else if c.lanes.any fun l => decide (a + l ≥ h.accRows) then c.hrange 3 cw
    else if n0 + e > gridN h.shape then c.hrange 5 cw
    else c.enqueue s g 0x1E9 [f, c.b.mdN / 16, a, n0, e, c.b.d.toNat, Body.regs c.b.dW] (.grid g [] none) true true

/-- R253. Drain accumulator rows to the scratchpad. -/
def execHdrnSp (x : Body) (s : State) : Out :=
  run (.hdrnSp x) s fun c s => c.lead s fun s g h => c.record s true fun r =>
    let cw := (c.s s c.b.b.toNat).toNat
    let a := cw % 2048
    let cnt := bitsOf cw 21 11
    let f := c.b.mdN % 16
    if r.spn ≠ 0 ∨ r.mx then .raise .harnessRecord c.con
    else if cw / 2 ^ 22 ≠ 0 then c.hrange 1 cw
    else if a + cnt ≥ h.accRows then c.hrange 3 cw
    else
      let bytes := gridN h.shape * drainBits f / 8
      c.ranges s ((List.range (cnt + 1)).map fun i => ((r.off + i * r.pitch) % 2 ^ 18, bytes)) fun _ =>
        c.enqueue s g 0x2E9 [f, c.b.mdN / 16, a, cnt + 1, r.off, r.pitch] (.grid g [] none) true true

/-- Offset of box b, and of plane i: each is a scratchpad address of its own, taken modulo 2^18 (R158, R255; log entry 20). -/
def boxAt (oa b : Nat) : Nat := (oa + 24 * b) % 2 ^ 18
def planeAt (ob i : Nat) : Nat := (ob + 16 * i) % 2 ^ 18

/-- Offsets and lengths of the boxes of contributors, those of lanes l and l + 32 (R239, R255). -/
def boxesOf (oa : Nat) (ls : List Nat) : List (Nat × Nat) := (ls ++ ls.map (· + 32)).map fun b => (boxAt oa b, 24)

/-- R255. Classify the contributors' boxes, of 64, against up to 8 planes. -/
def execHboxt (x : Body) (s : State) : Out :=
  run (.hboxt x) s fun c s => c.lead s fun s g _ =>
    let oa := (c.s s c.b.a.toNat).toNat % 2 ^ 18
    let ob := (c.s s c.b.b.toNat).toNat % 2 ^ 18
    let p := c.b.mdN % 8 + 1
    if oa % 4 ≠ 0 then .raise .misaligned c.con 0 oa
    else if ob % 4 ≠ 0 then .raise .misaligned c.con 0 ob
    else c.ranges s (boxesOf oa c.lanes ++ (List.range p).map fun i => (planeAt ob i, 16)) fun _ =>
      c.enqueue s g 0x1EA [p, oa, ob, c.b.d.toNat] (.grid g [] none) false

/-- R242. Read the grid status after older harness work. -/
def execHstat (x : Body) (s : State) : Out :=
  run (.hstat x) s fun c s => c.lead s fun s g _ => c.enqueue s g 0x1EB [c.b.d.toNat] (.grid g [] none) false

/-! ## Scratchpad passes of the grid (R229, R241) -/

/-- Bytes of the lead's region, with which of them are poisoned. -/
def State.gather (s : State) (w : Nat) (p : Option Pend) (blk off n : Nat) : State × List Byte × List Bool :=
  let core := coreOf w
  let bs := (List.range n).map fun i => s.spByte core blk (off + i)
  let bad := (List.range n).map fun i => s.locBad core (.sp core (off + i) blk) 1
  match p with
  | none => (s, bs, bad)
  | some p =>
    let ps : List Piece := [{ lane := (lanesOf p.con).headD 0, off := 0, len := n, va := off, loc := .sp core off blk }]
    (s.watchPend w { p with parts := ps } ps false true, bs, bad)

/-- Bytes written to the lead's region. -/
def State.drainTo (s : State) (w : Nat) (p : Option Pend) (blk off : Nat) (bs : List Byte) : State :=
  let core := coreOf w
  let s1 := s.spWrite core off blk bs
  match p with
  | none => s1
  | some p =>
    let ps : List Piece := [{ lane := (lanesOf p.con).headD 0, off := 0, len := bs.length, va := off, loc := .sp core off blk }]
    s1.watchPend w { p with parts := ps } ps true false

/-! ## The matrix pass (R228 to R232, R235, R251) -/

/-- Element i of bytes in memory form (R23). -/
def memElem (bits x i : Nat) : Nat := x / 2 ^ (bits * i) % 2 ^ bits

/-- The weight code at physical K position k of column n of a bank (R228). -/
def HGrid.weight (h : HGrid) (bank bits kc k n : Nat) : Nat :=
  memElem bits (h.num (0x8000 * bank + 64 * (k / kc * gridCols h.shape + n / 8)) 64) (n % 8 * kc + k % kc)

/-- The weights of a column with their logical K positions, as the metadata routes them, and +0 at every position that no stored value
goes to: the dense expansion (R46, R232). -/
def HGrid.column (h : HGrid) (bank k n : Nat) : List (Nat × Nat) :=
  let d := h.desc bank
  let kc := descKc d
  let bits := fmtBits (d % 16)
  if descSpn d = 0 then (List.range k).map fun i => (i, h.weight bank bits kc i n)
  else
    let nz := groupVals (descSpn d)
    let gs := sparseGroups (kc * gridRows h.shape) (descSpn d)
    let stored := (List.range (gs * nz)).filterMap fun v =>
      let ix := bitsOf (h.num (0x10000 + 0x20000 * bank + 8 * (n * gs + v / nz)) 8) (5 * (v % nz) + 4) (5 * (v % nz))
      if ix ≤ 23 then some (24 * (v / nz) + ix, h.weight bank bits kc (128 * (v / 120) + v % 120) n) else none
    stored ++ (List.range (24 * gs)).filterMap fun i => if stored.any fun p => p.1 == i then none else some (i, 0)

/-- A mark that poisons column n of a bank in a pass of length k: a weight, a metadata word, or one of the k/32 scales of the column that
the pass uses (R231, R235). -/
def HGrid.columnBad (h : HGrid) (bank k n : Nat) : Bool :=
  let d := h.desc bank
  let kc := descKc d
  let bits := fmtBits (d % 16)
  let gs := sparseGroups (kc * gridRows h.shape) (descSpn d)
  h.marks.any fun m =>
    (decide (0x8000 * bank ≤ m) && decide (m < 0x8000 * bank + 0x8000)
      && (m % 0x8000 / 64 % gridCols h.shape == n / 8) && (m % 64 * 8 / (bits * kc) == n % 8))
    || (decide (descSpn d ≠ 0) && decide (0x10000 + 0x20000 * bank + 8 * n * gs ≤ m)
      && decide (m < 0x10000 + 0x20000 * bank + 8 * (n + 1) * gs))
    || (decide (0x5A000 + 0x800 * bank + 16 * n ≤ m) && decide (m < 0x5A000 + 0x800 * bank + 16 * n + ceilDiv k 32))

/-- One accumulator element through one pass row (R40, R43, R251). -/
def HGrid.passElem (h : HGrid) (o : HOp) (r bank row n : Nat) (arow : Nat) : Nat × Cond :=
  let d := h.desc bank
  let k := o.args.getD 2 0
  let af := o.args.getD 3 0
  let amx := o.args.getD 4 0 == 1
  let bmx := d.testBit 4
  let col := h.column bank k n
  let acc := h.num (h.accOff row n) 4
  let a := fun i => memElem (fmtBits af) arow i
  if af ≥ 7 then
    (lowBits 32 (col.foldl (fun (z : Int) p => z + intOf 8 (af == 7) (a p.1) * intOf 8 (d % 16 == 7) p.2) acc), 0#5)
  else
    (List.range (ceilDiv k 32)).foldl (fun (z : Nat × Cond) j =>
      let sc := if amx || bmx then
          some (if amx then (h.get (0x58000 + 16 * r + j)).toNat else 0x7F,
            if bmx then (h.get (0x5A000 + 0x800 * bank + 16 * n + j)).toNat else 0x7F)
        else none
      match dotVals sc ((col.filter fun p => p.1 / 32 == j).map fun p => ((fmtOf af).decode (a p.1), (fmtOf (d % 16)).decode p.2)) z.1 with
      | (x, c) => (x, z.2 ||| c)) (acc, 0#5)

/-- What a row of an HMMA takes: its bytes, its slots of 256 bytes in the A latch, and its row of the region and of the A scale store
(R229, R250). -/
def HOp.rowBytes (o : HOp) : Nat := ceilDiv (o.args.getD 2 0 * fmtBits (o.args.getD 3 0)) 8
def HOp.rowSlots (o : HOp) : Nat := ceilDiv o.rowBytes 256
def HGrid.rowIdx (h : HGrid) (o : HOp) (m : Nat) : Nat :=
  if o.args.getD 7 0 = 1 then h.num (0x5C000 + 128 * o.args.getD 8 0 + 2 * m) 2 else m

/-- Storage offset of slot `t` of a row in the A latch: the slots of a pass follow each other through one buffer and then the other, from
buffer `b` on (R227, R229; log entry 20). -/
def latchSlot (b m slots t : Nat) : Nat := 0x50000 + 0x4000 * ((b + (m * slots + t) / 64) % 2) + 256 * ((m * slots + t) % 64)

/-- The buffer in which a pass starts, when its next row to enter is row `m`: ABUF is the buffer of the row that entered last, and a pass
starts in the other buffer than the one that streamed last (R229, R236; log entry 20). -/
def HGrid.firstBuf (h : HGrid) (o : HOp) : Nat :=
  if o.done = 0 then 1 - h.abuf else (h.abuf + (o.done - 1) * o.rowSlots / 64) % 2

/-- Rows that the latch holds ahead of the row that enters next: the two buffers of 64 slots, but for what streams (R229). -/
def HOp.mayGather (o : HOp) : Bool :=
  decide (o.ahead < o.args.getD 0 0) && decide ((o.ahead + 1) * o.rowSlots ≤ (o.done * o.rowSlots / 64 + 2) * 64)

/-- The instruction at the head of a grid's order changed. -/
def HGrid.setOp (h : HGrid) (n : Nat) (f : HOp → HOp) : HGrid := { h with ops := h.ops.map fun (q : HOp) => if q.stamp == n then f q else q }

/-- The gather unit fills the A latch with the next row of a pass, poison with it (R229, R235). -/
def State.gatherRow (s : State) (w g : Nat) (p : Option Pend) (h : HGrid) (o : HOp) : State :=
  let m := o.ahead
  match s.gather w p h.blk ((o.args.getD 5 0 + h.rowIdx o m * o.args.getD 6 0) % 2 ^ 18) o.rowBytes with
  | (s1, bs, bad) =>
    let all := bs ++ List.replicate (256 * o.rowSlots - bs.length) 0#8
    let h1 := (List.range o.rowSlots).foldl (fun (h : HGrid) t =>
      let off := latchSlot (h.firstBuf o) m o.rowSlots t
      (((all.drop (256 * t)).take 256).zipIdx).foldl (fun (h : HGrid) c =>
        let keep := h.marks.filter fun x => x != off + c.2
        { h.put (off + c.2) c.1 with marks := if bad.getD (256 * t + c.2) false then ladd keep (off + c.2) else keep }) h) (s1.hgrid g)
    s1.putGrid g (h1.setOp o.stamp fun q => { q with ahead := m + 1 })

/-- One row that the latch holds enters and runs (R229, R251). -/
def State.enterPassRow (s : State) (g : Nat) (o : HOp) : State :=
  let h := s.hgrid g
  let m := o.done
  let k := o.args.getD 2 0
  let bank := o.args.getD 9 0
  let r := h.rowIdx o m
  let slots := (List.range o.rowSlots).map fun t => latchSlot (h.firstBuf o) m o.rowSlots t
  let bs := (slots.flatMap fun off => readBytes h.get off 256).take o.rowBytes
  let h1 := { h with abuf := (h.firstBuf o + m * o.rowSlots / 64) % 2 }
  let row := o.args.getD 1 0 + m
  let within := fun lo n x => decide (lo ≤ x) && decide (x < lo + n)
  let rowBad := h1.marks.any fun x => within (0x58000 + 16 * r) (ceilDiv k 32) x
    || slots.zipIdx.any fun c => within c.1 (min 256 (o.rowBytes - 256 * c.2)) x
  let h2 := (List.range (gridN h.shape)).foldl (fun (a : HGrid) n =>
    match h1.passElem o r bank row n (leVal bs) with
    | (v, c) =>
      let b := { a.putNum (h.accOff row n) 4 v with fl := a.fl ||| c }
      if rowBad || h1.columnBad bank k n then b.markAcc (h.accOff row n) else b) h1
  s.putGrid g { h2.setOp o.stamp fun q => { q with done := m + 1, last := s.clock } with rows := (h2.rows + 1) % 2 ^ 32 }

/-- One pass row is gathered, unless it has been, and enters. -/
def State.passRow (s : State) (w g : Nat) (p : Option Pend) (h : HGrid) (o : HOp) : State :=
  let s1 := if o.ahead ≤ o.done then s.gatherRow w g p h { o with ahead := o.done } else s
  s1.enterPassRow g o

/-! ## What the other instructions do when their turn comes -/

/-- Marks over a range of storage replaced by those of new bytes. -/
def HGrid.remark (h : HGrid) (off : Nat) (bad : List Bool) : HGrid :=
  let keep := h.marks.filter fun m => decide (m < off) || decide (off + bad.length ≤ m)
  { h with marks := (bad.zipIdx.filter fun p => p.1).foldl (fun l p => ladd l (off + p.2)) keep }

/-- HLDB's bank, metadata, descriptor and marks (R228, R246). -/
def State.doHldb (s : State) (w g : Nat) (p : Option Pend) (o : HOp) : State :=
  let bank := o.args.getD 0 0
  let kc := 4 * 2 ^ o.args.getD 1 0
  let bits := fmtBits (o.args.getD 2 0)
  let spn := o.args.getD 3 0
  let gs := o.args.getD 7 0
  let h := s.hgrid g
  let n := gridN h.shape
  let vals := if spn = 0 then kc * gridRows h.shape else gs * groupVals spn
  let place := fun v => if spn = 0 then v else 128 * (v / 120) + v % 120
  let cell := fun k col => 0x8000 * bank + 64 * (k / kc * gridCols h.shape + col / 8)
  match (List.range n).foldl (fun (a : State × List (List Byte × List Bool)) i =>
    match a.1.gather w p h.blk ((o.args.getD 4 0 + i * o.args.getD 5 0) % 2 ^ 18) (vals * bits / 8) with
    | (s, bs, bad) => (s, a.2 ++ [(bs, bad)])) (s, []) with
  | (s1, cols) =>
    let empty := (List.range (gridRows h.shape * gridCols h.shape)).foldl (fun (h : HGrid) i =>
      (h.putNum (0x8000 * bank + 64 * i) 64 0).remark (0x8000 * bank + 64 * i) (List.replicate 64 false)) (s1.hgrid g)
    let filled := (cols.zipIdx).foldl (fun (h : HGrid) c =>
      let x := leVal c.1.1
      (List.range vals).foldl (fun (h : HGrid) v =>
        let k := place v
        let at' := cell k c.2
        let pos := c.2 % 8 * kc + k % kc
        let old := h.num at' 64
        let h1 := h.putNum at' 64 (putBits old (bits * pos) bits (memElem bits x v))
        let hurt := (List.range (c.1.2.length)).any fun b => c.1.2.getD b false && decide (8 * b < bits * v + bits) && decide (bits * v < 8 * b + 8)
        if hurt then { h1 with marks := ladd h1.marks (at' + bits * pos / 8) } else h1) h) empty
    let meta' := 0x10000 + 0x20000 * bank
    let routed := if spn = 0 then filled else
      (List.range (n * gs)).foldl (fun (h : HGrid) i => h.putNum (meta' + 8 * i) 8 (o.args.getD (9 + i) 0)) filled
    let bad := if spn = 0 then [] else (s1.gather w none h.blk (o.args.getD 6 0) (8 * n * gs)).2.2
    s1.putGrid g ((routed.remark meta' bad).doDesc o)

/-- HLDS's lines (R231, R247). -/
def State.doHlds (s : State) (w g : Nat) (p : Option Pend) (o : HOp) : State :=
  let tgt := o.args.getD 0 0
  match s.gather w p (s.hgrid g).blk (o.args.getD 3 0) (16 * o.args.getD 2 0) with
  | (s1, bs, bad) =>
    let base := (if tgt = 0 then 0x58000 else 0x5A000 + 0x800 * (tgt - 1)) + 16 * o.args.getD 1 0
    s1.modGrid g fun h =>
      let h1 := ((atAddrs base bs).foldl (fun (h : HGrid) p => h.put p.1 p.2) h).remark base bad
      match tgt with
      | 0 => { h1 with sca := true }
      | 1 => { h1 with scb0 := true }
      | _ => { h1 with scb1 := true }

/-- HZERO's rows (R252). -/
def HGrid.doHzero (h : HGrid) (o : HOp) : HGrid :=
  let lo := h.accOff (o.args.getD 0 0) 0
  let n := 4 * gridN h.shape * o.args.getD 1 0
  { h with store := mclear h.store lo n, marks := h.marks.filter fun m => decide (m < lo) || decide (lo + n ≤ m) }

/-- HROWSC's rows, row and factor in turn (R252). -/
def HGrid.doHrowsc (h : HGrid) : List Nat → HGrid
  | row :: f :: rest =>
    ((List.range (gridN h.shape)).foldl (fun (h : HGrid) n =>
      match fpMul .f32 .rne false (h.num (h.accOff row n) 4) f with
      | (v, c) => { h.putNum (h.accOff row n) 4 v with fl := h.fl ||| c }) h).doHrowsc rest
  | _ => h

/-- The format of an HDRN code; codes 0 and 8 keep 32 bits. -/
def drainFmt (f : Nat) : Fmt :=
  match f with | 1 => .f16 | 2 => .bf16 | 3 => .e5m2 | 4 => .e4m3 | 5 => .e3m2 | 6 => .e2m3 | 7 => .e2m1 | _ => .f32

/-- One drained element: its code, its conditions, and whether it was marked (R253, R254). -/
def HGrid.drainElem (h : HGrid) (f : Nat) (sat : Bool) (row n : Nat) : Nat × Cond × Bool :=
  let off := h.accOff row n
  if h.marks.contains off then (if f = 0 ∨ f = 8 then poisonPattern else (drainFmt f).nan, 0#5, true)
  else if f = 8 then (h.num off 4, 0#5, false)
  else match convert .f32 (drainFmt f) .rne sat 0 (h.num off 4) with | (v, c) => (v, c, false)

/-- What HDRN raises for the marked elements it drained, each as row, column and lane or byte offset (R254). -/
def drainTrap (ms : List (Nat × Nat × Nat)) (reg : Bool) : Option Trap :=
  match ms with
  | [] => none
  | (r0, n0, a0) :: _ =>
    some { cause := .dataPoison, sub := r0 + n0 * 2 ^ 11 + min ms.length 0x3FFF * 2 ^ 18, addr := if reg then 0 else a0
           mask := if reg then maskOfList (ms.map fun m => m.2.2) else 0#32 }

/-- HDRN to registers. -/
def HGrid.doHdrnReg (h : HGrid) (o : HOp) (con : Word) : HGrid × List RegWrite × Option Trap :=
  let f := o.args.getD 0 0
  let a := o.args.getD 2 0
  let n0 := o.args.getD 3 0
  let rows := (lanesOf con).map fun l => (l, (List.range (o.args.getD 4 0)).map fun i => h.drainElem f (o.args.getD 1 0 == 1) (a + l) (n0 + i))
  let conds := rows.foldl (fun c r => r.2.foldl (fun c e => c ||| e.2.1) c) (0#5 : Cond)
  let marked := rows.flatMap fun r => r.2.zipIdx.filterMap fun e => if e.1.2.2 then some (a + r.1, n0 + e.2, r.1) else none
  let d : Dst := { cls := 0, base := o.args.getD 5 0, cnt := o.args.getD 6 1 }
  ({ h with fl := h.fl ||| conds }, rows.flatMap fun r => d.writes r.1 (packElems (drainBits f) (r.2.map fun e => e.1)) 0, drainTrap marked true)

/-- HDRN to the scratchpad, row by row. -/
def State.doHdrnSp (s : State) (w g : Nat) (p : Option Pend) (o : HOp) : State × Option Trap :=
  let f := o.args.getD 0 0
  let h := s.hgrid g
  let n := gridN h.shape
  let bits := drainBits f
  let rows := (List.range (o.args.getD 3 0)).map fun i =>
    ((o.args.getD 4 0 + i * o.args.getD 5 0) % 2 ^ 18, o.args.getD 2 0 + i,
      (List.range n).map fun j => h.drainElem f (o.args.getD 1 0 == 1) (o.args.getD 2 0 + i) j)
  let conds := rows.foldl (fun c r => r.2.2.foldl (fun c e => c ||| e.2.1) c) (0#5 : Cond)
  let s1 := rows.foldl (fun s r =>
    s.drainTo w p h.blk r.1 (leBytesOf (n * bits / 8) (r.2.2.zipIdx.foldl (fun a e => a + e.1.1 * 2 ^ (bits * e.2)) 0))) s
  let marked := rows.flatMap fun r => r.2.2.zipIdx.filterMap fun e =>
    if e.1.2.2 then some (r.2.1, e.2, (r.1 + bits * e.2 / 8) % 2 ^ 18) else none
  (s1.modGrid g fun h => { h with fl := h.fl ||| conds }, drainTrap marked false)

/-- The 2-bit code of a box and a plane, with NV where R255 raises it. `bx` is lo then hi, `pl` is n then d. -/
def boxCode (bx pl : List Val) : Nat × Bool :=
  let b := fun i => bx.getD i (.num false 0 0)
  let q := fun i => pl.getD i (.num false 0 0)
  if (List.range 3).any fun i => (b (i + 3)).lt (b i) then (2, false)
  else if bx.any Val.isNan || pl.any Val.isNan then (0, true)
  else
    let ps := (List.range 3).map fun i => (Val.mul (q i) (b i), Val.mul (q i) (b (i + 3)))
    if ps.any fun p => p.1.2 != 0#5 || p.2.2 != 0#5 then (0, true)
    else
      let big := q 3 :: ps.map fun p => if p.1.1.lt p.2.1 then p.2.1 else p.1.1
      let small := q 3 :: ps.map fun p => if p.1.1.lt p.2.1 then p.1.1 else p.2.1
      let clash := fun (l : List Val) => l.contains (.inf false) && l.contains (.inf true)
      let total := fun (l : List Val) => l.foldl (fun (a : Val) (v : Val) => (Val.add .rne a v).1) (Val.num false 0 0)
      if clash big || clash small then (0, true)
      else if (total big).lt (.num false 0 0) then (2, false)
      else if !(total small).lt (.num false 0 0) then (1, false)
      else (0, false)

/-- binary32 values in bytes. -/
def f32s (bs : List Byte) : List Val := (List.range (bs.length / 4)).map fun i => Fmt.f32.decode (fieldOf bs (4 * i) 4)

/-- A box's 16-bit field against some planes, 0b01 beyond them, and whether NV is raised (R255). -/
def boxField (box qs : List Byte) (n : Nat) : Nat × Bool :=
  (List.range 8).foldl (fun (a : Nat × Bool) i =>
    let r := if i < n then boxCode (f32s box) (f32s ((qs.drop (16 * i)).take 16)) else (1, false)
    (a.1 + r.1 * 4 ^ i, a.2 || r.2)) (0, false)

/-- HBOXT's result: the boxes of the contributors alone are read (R239, R255). -/
def State.doHboxt (s : State) (w g : Nat) (p : Option Pend) (o : HOp) (con : Word) : State × List RegWrite :=
  let n := o.args.getD 0 0
  let blk := (s.hgrid g).blk
  match (List.range n).foldl (fun (a : State × List Byte) i =>
    match a.1.gather w p blk (planeAt (o.args.getD 2 0) i) 16 with
    | (s, bs, _) => (s, a.2 ++ bs)) (s, []) with
  | (s1, qs) =>
    (lanesOf con).foldl (fun (a : State × List RegWrite) l =>
      match a.1.gather w p blk (boxAt (o.args.getD 1 0) l) 24 with
      | (s2, lo, _) =>
        match s2.gather w p blk (boxAt (o.args.getD 1 0) (l + 32)) 24 with
        | (s3, hi, _) =>
          let x := boxField lo qs n
          let y := boxField hi qs n
          (s3.modGrid g fun h => { h with fl := h.fl ||| Cond.when (x.2 || y.2) Cond.nv },
            a.2 ++ [.v (o.args.getD 3 0) l (BitVec.ofNat 32 (x.1 + y.1 * 65536)) 0])) (s1, [])

/-! ## Completion (R241) -/

/-- Clocks from issue to completion with no older work pending (R241). -/
def HGrid.latency (h : HGrid) (o : HOp) : Nat :=
  let n := gridN h.shape
  match o.code with
  | 0x1E2 | 0x2E2 => 8
  | 0x1E3 => 16 + ceilDiv (n * ((if o.args.getD 3 0 = 0 then 4 * 2 ^ o.args.getD 1 0 * gridRows h.shape else o.args.getD 7 0 * groupVals (o.args.getD 3 0))
      * fmtBits (o.args.getD 2 0) / 8)) 512
  | 0x1E5 => 8 + o.args.getD 2 0 / 32
  | 0x1E6 => o.args.getD 0 0 + gridRows h.shape + gridCols h.shape - 1
  | 0x1E7 => 4 + ceilDiv (o.args.getD 1 0 * n) 2048
  | 0x1E8 => 6 + ceilDiv (o.args.getD 0 0 * n) 2048
  | 0x1E9 => 16 + ceilDiv (32 * 4 * o.args.getD 6 0) 512
  | 0x2E9 => 16 + ceilDiv (o.args.getD 3 0 * n * drainBits (o.args.getD 0 0) / 8) 512
  | 0x1EA => 32 + 8 * o.args.getD 0 0
  | 0x1EB => 4
  | _ => 1

/-- A harness instruction takes its effect: the state, its register results, and the trap HDRN raises after them. -/
def State.harnessDo (s : State) (w g : Nat) (p : Option Pend) (o : HOp) : State × List RegWrite × Option Trap :=
  let h := s.hgrid g
  let con := (p.map Pend.con).getD 0#32
  match o.code with
  | 0x1E2 => (s.putGrid g (h.doHlda o), [], none)
  | 0x2E2 => (s.putGrid g h.doHldaNone, [], none)
  | 0x1E3 => (s.doHldb w g p o, [], none)
  | 0x1E4 => (s.putGrid g h.doHswap, [], none)
  | 0x1E5 => (s.doHlds w g p o, [], none)
  | 0x1E7 => (s.putGrid g (h.doHzero o), [], none)
  | 0x1E8 => (s.putGrid g (h.doHrowsc (o.args.drop 1)), [], none)
  | 0x1E9 => match h.doHdrnReg o con with | (h, ws, t) => (s.putGrid g h, ws, t)
  | 0x2E9 => match s.doHdrnSp w g p o with | (s, t) => (s, [], t)
  | 0x1EA => match s.doHboxt w g p o con with | (s, ws) => (s, ws, none)
  | 0x1EB => (s, sWords (o.args.getD 0 0) h.status 4, none)
  | _ => (s, [], none)

/-- The oldest instruction of a grid leaves its order; window writes that waited for the end of its pass take effect (R227). -/
def HGrid.pop (h : HGrid) : HGrid := ({ h with ops := h.ops.drop 1 } : HGrid).flush

/-- HDRN's DATA_POISON, at itself after its writes (R254): the lead has issued nothing since. -/
def State.drainStop (s : State) (w : Nat) (p : Pend) (t : Trap) : State :=
  match s.wave w with
  | none => s
  | some x =>
    let x1 := x.mapLanes fun l y => if p.act.getLsbD l && y.st == .live then { y with pc := BitVec.ofNat 64 p.pc } else y
    let x2 := if p.undo then x1.restoreEpochs else x1
    s.lateTrap w x2 x2 (mkFrame s w x2 t p.con p.pc p.iwords x2.stepping false false none 0)

/-- The oldest instruction of a grid completes: its effect, its results, its slot, and its trap. -/
def State.harnessDone (s : State) (w g : Nat) (o : HOp) : State :=
  let p := (s.wave w).bind fun x => x.pending o.stamp
  match s.harnessDo w g p o with
  | (s1, ws, t) =>
    let s2 := (s1.modGrid g HGrid.pop).applyWrites w ws
    let s3 := s2.modWave w fun x => x.complete o.stamp
    match p, t with
    | some p, some t => s3.drainStop w p t
    | _, _ => s3

/-- The grid starts its release: its storage goes (R244). -/
def HGrid.releasing (h : HGrid) : HGrid :=
  { h.pop with state := 3, store := [], marks := [], curb := 0, ixCur := 0, idxv := false, sca := false, scb0 := false, scb1 := false, abuf := 0, rows := 0
               poison := 0, desc0 := 0, desc1 := 0, fl := 0#5 }

/-- R241, R254. The oldest instruction of the lead's grid, other than HMMA, completes; HREL begins the release when no
query is attached (R311). -/
def execHarnessCompletion (w n : Nat) (s : State) : Out :=
  match s.gridOfWave w with
  | none => .next s
  | some (g, h) =>
    match h.ops with
    | [] => .next s
    | o :: _ =>
      if o.stamp ≠ n ∨ o.code = 0x1E6 ∨ s.clock < o.start + h.latency o ∨ h.lead ≠ some w then .next s
      else if o.code = 0x1E1 then (if h.queries = 0 then .next (s.putGrid g h.releasing) else .next s)
      else
        match s.wave w with
        | some x =>
          match x.pending n with
          | some p => if x.inOrder p then .next (s.harnessDone w g o) else .next s
          | none => .next (s.harnessDone w g o)
        | none => .next s

/-- R234, R244. The release ends: granules return, the register is free, and the members are live. -/
def execGridReleaseEnd (g : Nat) (s : State) : Out :=
  match mget s.wk.hgrids g with
  | none => .next s
  | some h =>
    if h.state ≠ 3 then .next s
    else
      let s1 := { s with wk := { s.wk with hgrids := mdel s.wk.hgrids g } }
      let s2 := s1.unparkAll (fun _ p => p.kind == .muster g) none
      .next (s2.mapWaves fun w x =>
        if h.lead = some w then
          match x.pend.find? fun p => match p.work with | .hrel k => k == g | _ => false with
          | some p => x.complete p.stamp
          | none => x
        else x)

/-- The HMMA at the head of a grid's order goes on, while rows may enter: the gather unit fills a row of the A latch, as far ahead of the
rows that enter as a free choice says, or a row enters, one a clock (R229, R232). -/
def State.enterRow (s : State) (w n : Nat) : State :=
  match s.gridOfWave w with
  | none => s
  | some (g, h) =>
    match h.ops with
    | [] => s
    | o :: _ =>
      let p := (s.wave w).bind fun x => x.pending n
      if o.stamp ≠ n ∨ o.code ≠ 0x1E6 ∨ o.done ≥ o.args.getD 0 0 ∨ !s.rowsMayEnter w h then s
      else if o.mayGather && Config.choice s.free % 2 == 1 then (s.gatherRow w g p h o).bump
      else if o.done ≠ 0 ∧ s.clock ≤ o.last then s
      else (s.passRow w g p h o).bump

/-- R232. An HMMA completes: every row has passed. -/
def execHmmaComplete (w n : Nat) (s : State) : Out :=
  match s.gridOfWave w with
  | none => .next s
  | some (g, h) =>
    match h.ops with
    | [] => .next s
    | o :: _ =>
      if o.stamp ≠ n ∨ o.code ≠ 0x1E6 ∨ o.done < o.args.getD 0 0 ∨ s.clock < o.start + h.latency o then .next s
      else .next ((s.putGrid g { h.pop with cut := false }).modWave w fun x => x.complete n)

/-- The drain of R237: the oldest instructions complete in order, up to an HMMA whose rows have not all entered; its
first row enters if none has, and it is cut. -/
def State.drainGrid (s : State) (w g : Nat) : Nat → State
  | 0 => s
  | fuel + 1 =>
    let h := s.hgrid g
    match h.ops with
    | [] => s
    | o :: _ =>
      if o.code = 0x1E6 then
        let p := (s.wave w).bind fun x => x.pending o.stamp
        let s1 := if o.done = 0 then s.passRow w g p h o else s
        if (max o.done 1) ≥ o.args.getD 0 0 then
          ((s1.modGrid g fun h => { h.pop with cut := false }).modWave w fun x => x.complete o.stamp).drainGrid w g fuel
        else s1.modGrid g fun h => { h with cut := true }
      else if o.code = 0x1E1 then s
      else (s.harnessDone w g o).drainGrid w g fuel

end Sys2Proof.Machine
end

