-- ==== Sys2Proof/Machine/Work.lean ====
section
/-! DEFINITION. Work.lean: task queues, node bins, launch records and the instructions that offer them (13 R283 to
R298). -/

namespace Sys2Proof.Machine

/-! ## Records (R285, R287, R294) -/

/-- CADDR, TAG and CSCOPE of a record's trailer (R285). -/
def trailerOf (bs : List Byte) : Nat × Nat × Nat := (fieldOf bs 48 8, fieldOf bs 56 2, fieldOf bs 58 1)

/-- First bad field of a trailer (R296). -/
def badTrailer (bs : List Byte) : Option Nat :=
  if fieldOf bs 48 8 % 8 ≠ 0 then some 48
  else if fieldOf bs 58 1 < 3 ∨ fieldOf bs 58 1 > 6 then some 58
  else if fieldOf bs 59 5 ≠ 0 then some 59
  else none

/-- First bad field of a task record (R287, R296). -/
def badTask (bs : List Byte) : Option Nat := if fieldOf bs 20 28 ≠ 0 then some 20 else badTrailer bs

/-- First bad field of the launch part of a record (R294, R296). -/
def badLaunchBody (bs : List Byte) : Option Nat :=
  if fieldOf bs 0 8 % 64 ≠ 0 then some 0
  else if fieldOf bs 16 4 = 0 then some 16
  else if fieldOf bs 20 2 = 0 then some 20
  else if fieldOf bs 22 2 = 0 then some 22
  else none

/-- First bad field of a launch record. -/
def badLaunch (bs : List Byte) : Option Nat :=
  match badLaunchBody bs with
  | some i => some i
  | none => if fieldOf bs 25 23 ≠ 0 then some 25 else badTrailer bs

/-! ## Task queues (R284, R288) -/

/-- A cluster that is present and in service. -/
def State.clusterUp (s : State) (q : Nat) : Bool := decide (q < Config.clusters) && s.pk.topo.clusters.testBit q

/-- Records in the ring. -/
def TQ.ringed (t : TQ) : Nat := (t.rtail + 65536 - t.rhead) % 65536

/-- Slots of the range, and of the ring. -/
def TQ.slots (t : TQ) : Nat := 2 ^ t.slog2
def TQ.ring (t : TQ) : Nat := if t.rlog2 = 0 then 0 else 2 ^ t.rlog2

/-- R288. -/
def TQ.full (t : TQ) : Bool := decide (t.held.length + t.ringed ≥ t.slots + t.ring)

/-- The address of ring record i. -/
def TQ.at' (t : TQ) (i : Nat) : Nat := t.ovbase + 64 * (i % t.ring)

def State.putTq (s : State) (q : Nat) (t : TQ) : State := { s with wk := { s.wk with tqs := mput s.wk.tqs q t } }

/-- One record appended at the ring tail; a write that fails fails the record with SPILL_FAULT (R288). -/
def State.appendRing (s : State) (q : Nat) (r : Rec) : State :=
  match mget s.wk.tqs q with
  | none => s
  | some t =>
    match s.devWrite t.ctx (t.at' t.rtail) r.bytes with
    | (s, true) => s.putTq q { t with rtail := (t.rtail + 1) % 65536, back := t.back ++ [r.deps] }
    | (s, false) => (s.logWork t.ctx .store (t.at' t.rtail) 64).report t.ctx (trailerOf r.bytes) 0x86 (.queue q)

/-- How many held records a spill moves (R288). -/
def TQ.spills (t : TQ) : Nat := min (max 1 (t.slots / 4)) (t.ring - 1)

/-- The record at the ring head moves into the slots; one that cannot be read whole is counted in FAILS (R288). -/
def State.refillOne (s : State) (q : Nat) : State :=
  match mget s.wk.tqs q with
  | none => s
  | some t =>
    let t1 := { t with rhead := (t.rhead + 1) % 65536, back := t.back.drop 1 }
    match s.devRead t.ctx (t.at' t.rhead) 64 with
    | (s, .error _) => ((s.logWork t.ctx .load (t.at' t.rhead) 64).putTq q t1).countFail (.queue q)
    | (s, .ok bs) =>
      if s.devPoisoned t.ctx (t.at' t.rhead) 64 then (s.putTq q t1).countFail (.queue q)
      else s.putTq q { t1 with held := t1.held ++ [{ bytes := bs, emitter := 0, depth := 0, deps := t.back.headD [] }] }

/-- A record that the queue accepts finds its place (R288). Where the ring has no room although the queue is not full, the record at its
head moves into the slots first, so that no record is dropped and the order stays (R286; log entry 30). -/
def State.arrive (s : State) (q : Nat) (r : Rec) : State :=
  match mget s.wk.tqs q with
  | none => s
  | some t =>
    if t.ringed > 0 then ((if t.ringed ≥ t.ring then s.refillOne q else s).appendRing q r)
    else if t.held.length < t.slots then s.putTq q { t with held := t.held ++ [r] }
    else
      let keep := t.held.length - t.spills
      let s1 := s.putTq q { t with held := t.held.take keep }
      ((t.held.drop keep).foldl (fun s x => s.appendRing q x) s1).appendRing q r

/-- Refilling until three quarters of the slots hold records or the ring is empty. -/
def State.refill (s : State) (q : Nat) : Nat → State
  | 0 => s
  | fuel + 1 =>
    match mget s.wk.tqs q with
    | none => s
    | some t => if t.ringed = 0 ∨ 4 * t.held.length ≥ 3 * t.slots then s else (s.refillOne q).refill q fuel

/-- R288. The engine moves records from the ring head back into the slots. -/
def execQueueRefill (q : Nat) (s : State) : Out :=
  match mget s.wk.tqs q with
  | some t => if 2 * t.held.length < t.slots ∧ t.ringed > 0 then .next (s.refill q 65536) else .next s
  | none => .next s

/-- A grid of one block for a task or node launch. -/
def oneBlock (ctx die kdesc arg prio depth : Nat) (parents : List Nat) (reports : List (Nat × Nat × Nat)) (failTo : Nat)
    (deps : List Nat := []) : Grid :=
  { ctx := ctx, die := die, kdesc := kdesc, k := {}, arg := arg, deps := deps, gx := 1, gy := 1, gz := 1, prio := prio, depth := depth, total := 1
    retired := 0, kids := 0, parents := parents, reports := reports, failTo := failTo, status := 1, host := none, child := false }

/-- A block of a grid just made starts through a bind slot, whose record takes the descriptor's fields (R418, R434). -/
def State.startOne (s : State) (key q grid : Nat) (x y z s7 s8 arg depth : Nat) (landing : Option (Nat × Nat)) (p : Spot) : State :=
  match s.bind key, s.grid grid with
  | some b, some g =>
    let b := b.ofKernel g.kdesc g.k
    (s.putBind key { b with run := b.run + 1 }).startBlock key q (b.block key grid g.kdesc g.k x y z s7 s8 arg depth landing) p
  | _, _ => s

/-- R287, R289, R434. A queue launches its oldest record through its bind slot. -/
def execQueueLaunch (q bind : Nat) (s : State) : Out :=
  match s.turn (q / 64), mget s.wk.tqs q with
  | some (key, b, st, p), some t =>
    match t.held with
    | [] => .next s
    | r :: rest =>
      if key ≠ bind ∨ b.src ≠ 1 ∨ b.srcn ≠ q % 64 ∨ !(match st with | .fresh _ | .bad => true | _ => false) then .next s
      else
        let s1 := s.putTq q { t with held := rest, shead := (t.shead + 1) % t.slots }
        let g := oneBlock t.ctx (q / 64 / 8) t.kdesc (fieldOf r.bytes 0 8) t.prio t.depth [] [trailerOf r.bytes] (2 * q + 2) r.deps
        match s1.newGrid g with
        | (s2, some n) =>
          .next (s2.startOne key (q / 64) n (fieldOf r.bytes 8 4) (fieldOf r.bytes 12 4) (fieldOf r.bytes 16 4) 0 0 g.arg t.depth none p)
        | (s2, none) => .next s2
  | _, _ => .next s

/-! ## Node bins (R290 to R293) -/

def State.putBin (s : State) (b : Nat) (n : NBin) : State := { s with wk := { s.wk with nbins := mput s.wk.nbins b n } }

/-- The coalescing count (R290). -/
def NBin.count (n : NBin) : Nat := n.cntm1 + 1

/-- The bin fires when it holds its count (R292). -/
def NBin.settle (n : NBin) : NBin := if n.held.length ≥ n.count then { n with fired := true } else n

/-- An arriving record takes the next slot; the timer starts when it reaches an empty bin (R291, R292). -/
def NBin.take (n : NBin) (r : Rec) (now : Nat) : NBin :=
  ({ n with held := n.held ++ [r], trun := n.trun || n.held.isEmpty, timerAt := if n.held.isEmpty then now else n.timerAt } : NBin).settle

/-- R292. The timer of a bin expires with records held. -/
def execBinTimerExpire (q : Nat) (s : State) : Out :=
  match mget s.wk.nbins q with
  | some n =>
    if n.trun ∧ n.timerAt + 1000 * n.timer ≤ s.timeNs ∧ !n.held.isEmpty then .next (s.putBin q { n with fired := true, trun := false })
    else .next s
  | none => .next s

/-- What a bin is after a launch took k of its records (R292). -/
def NBin.launched (n : NBin) (k slot now : Nat) : NBin :=
  let rest := n.held.drop k
  ({ n with held := rest, fired := false, trun := !rest.isEmpty, timerAt := now, lused := ladd n.lused slot
            shead := (n.shead + k) % 2 ^ n.slog2 } : NBin).settle

/-- A bin takes the count and timer of the descriptor that its launch resolved (R418). -/
def State.binKernel (s : State) (q grid : Nat) : State :=
  match mget s.wk.nbins q, s.grid grid with
  | some n, some g => s.putBin q (n.ofKernel g.k)
  | _, _ => s

/-- R292, R293, R434. A fired bin copies records to its lowest free landing slot and launches a block. Where that copy faults, the fault is
logged and the block starts all the same, which is the model's choice (log entry 22). -/
def execBinLaunch (q bind : Nat) (s : State) : Out :=
  match s.turn (q / 256), mget s.wk.nbins q with
  | some (key, b, st, p), some n =>
    match n.landing with
    | none => .next s
    | some slot =>
      if key ≠ bind ∨ b.src ≠ 2 ∨ b.srcn ≠ q % 256 ∨ !(match st with | .fresh _ | .bad => true | _ => false) then .next s
      else
        let k := min n.held.length n.count
        let rs := n.held.take k
        let at' := n.lbase + 4096 * slot
        let bytes := rs.flatMap Rec.bytes
        let s1 := s.putBin q (n.launched k slot s.timeNs)
        let s2 := match s1.devWrite n.ctx at' bytes with
          | (s, true) => s
          | (s, false) => s.logWork n.ctx .store at' bytes.length
        let depth := 1 + rs.foldl (fun a r => max a r.depth) 0
        let g := oneBlock n.ctx (q / 256 / 8) n.kdesc b.arg n.prio depth (rs.map Rec.emitter)
          (rs.map fun r => if n.trl then trailerOf r.bytes else (0, 0, 0)) (2 * q + 3)
          (rs.foldl (fun a r => r.deps.foldl ladd a) ((List.range (s2.m.writes - s1.m.writes)).map (s1.m.writes + ·)))
        match s2.newGrid g with
        | (s3, some gn) => .next ((s3.binKernel q gn).startOne key (q / 256) gn 0 0 0 k at' b.arg depth (some (q, slot)) p)
        | (s3, none) => .next (s3.freeLanding (some (q, slot)))
  | _, _ => .next s

/-! ## Offers (R294 to R296) -/

/-- Whether a queue takes a record, as a status (R296). -/
def State.offerTask (s : State) (core ctx op : Nat) (bs : List Byte) : State × Nat :=
  let q := if bitsOf op 15 8 = 0xFF then clusterOf core else bitsOf op 15 8
  match mget s.wk.tqs (64 * q + op % 64) with
  | none => (s, 2)
  | some t =>
    if !s.clusterUp q ∨ !t.valid ∨ t.ctx ≠ ctx then (s, 2)
    else if t.full then (s, 1)
    else (s.arrive (64 * q + op % 64) { bytes := bs, emitter := 0, depth := 0, deps := s.m.seenBy core }, 0)

/-- A record enters a bin: its emitter counts a child (R293). -/
def State.intoBin (s : State) (b : Nat) (n : NBin) (r : Rec) : State := (s.putBin b (n.take r s.timeNs)).addKid [r.emitter]

/-- Whether a bin takes a record. -/
def State.offerNode (s : State) (core ctx grid depth op : Nat) (bs : List Byte) : State × Nat :=
  let q := if bitsOf op 15 8 = 0xFF then clusterOf core else bitsOf op 15 8
  match mget s.wk.nbins (256 * q + op % 256) with
  | none => (s, 2)
  | some n =>
    if !s.clusterUp q ∨ !n.valid ∨ n.ctx ≠ ctx then (s, 2)
    else if depth ≥ 10 then (s, 3)
    else if n.held.length ≥ 2 ^ n.slog2 then (s, 1)
    else (s.intoBin (256 * q + op % 256) n { bytes := bs, emitter := grid, depth := depth, deps := s.m.seenBy core }, 0)

/-- Child grids of a die with no block started (R296). -/
def State.unstarted (s : State) (die : Nat) : Nat := (s.wk.grids.filter fun p => p.2.die == die && p.2.child).length

/-- A launch record's grid. -/
def launchGrid (ctx die prio depth : Nat) (parents : List Nat) (bs : List Byte) (reports : List (Nat × Nat × Nat)) (cap : Nat) : Grid :=
  let p := (fieldOf bs 24 1)
  { ctx := ctx, die := die, kdesc := fieldOf bs 0 8, k := {}, arg := fieldOf bs 8 8, gx := fieldOf bs 16 4, gy := fieldOf bs 20 2
    gz := fieldOf bs 22 2, prio := min (if p.testBit 7 then prio else p % 128) cap, depth := depth
    total := fieldOf bs 16 4 * fieldOf bs 20 2 * fieldOf bs 22 2, retired := 0, kids := 0, parents := parents, reports := reports
    failTo := 0, status := 1, host := none, child := true }

/-- Whether a launch is taken. -/
def State.offerLaunch (s : State) (core ctx grid depth prio : Nat) (bs : List Byte) : State × Nat :=
  let cap := (mgetD s.wk.ctxs ctx {}).cap
  if depth ≥ 10 then (s, 3)
  else if s.unstarted (dieOf core) ≥ 4096 then (s, 1)
  else (((s.addKid [grid]).newGrid { launchGrid ctx (dieOf core) prio (depth + 1) [grid] bs [trailerOf bs] cap with deps := s.m.seenBy core }).1, 0)

/-- The lanes that act: every contributor, or the lowest one for a uniform form (R295). -/
def Issue.offerLanes (c : Issue) : List Nat := if c.b.mdN % 2 = 1 then [c.low] else c.lanes

/-- The record addresses of an instruction, as eight 8-byte accesses each (R296). -/
def Issue.recordWants (c : Issue) (s : State) (sp : Bool) : List Want :=
  c.offerLanes.flatMap fun l => (List.range 8).map fun i =>
    { lane := l, va := if sp then c.spAddr s l + 8 * i else (c.addr s l + 8 * i) % 2 ^ 64, n := 8 }

/-- A record's bytes. -/
def State.recordBytes (s : State) (c : Issue) (base lane : Nat) (ps : List Piece) : State × List Byte :=
  let mine := (ps.filter fun p => p.lane == lane).map fun p => { p with lane := 0, off := (p.va + 2 ^ 64 - base) % 2 ^ 64 }
  match s.readPieces (coreOf c.w) ((s.wave c.w).getD c.x) s.stamp false mine [] [] with
  | (s, got, _) => (s, (List.range 64).map fun i => cget got i 0#8)

/-- Every record read, in lane order. -/
def State.allRecords (s : State) (c : Issue) (sp : Bool) (ps : List Piece) : List Nat → State × List (Nat × List Byte)
  | [] => (s, [])
  | l :: ls =>
    match s.recordBytes c (if sp then c.spAddr s l else c.addr s l) l ps with
    | (s, bs) =>
      match s.allRecords c sp ps ls with
      | (s, r) => (s, (l, bs) :: r)

/-- Results of an offer in D: a lane of a v register, or an s register. -/
def Issue.offerWrites (c : Issue) (rs : List (Nat × Nat)) : List RegWrite :=
  if c.b.mdN % 2 = 1 then c.toSD ((rs.headD (0, 0)).2) else rs.flatMap fun r => vWords c.b.d.toNat r.1 r.2 1

/-- R295 to R297. The mould of the three: every record checked, then each offered in ascending lane order, as a release
at device scope. -/
def offerEff (bad : Issue → State → List Byte → Option Nat) (offer : Issue → State → List Byte → State × Nat) (c : Issue) (s : State) :
    Eff :=
  let sp := decide (c.b.mdN ≥ 2)
  let go := fun (s : State) (ps : List Piece) => c.settled <|
    match s.allRecords c sp ps c.offerLanes with
    | (s2, rs) =>
      let wrong := rs.filterMap fun r => (bad c s2 r.2).map fun i => (r.1, i)
      match wrong with
      | (l, i) :: _ =>
        Eff.trap { cause := .workRecord, sub := i, addr := if sp then c.spAddr s l else c.addr s l
                   mask := if c.b.mdN % 2 = 1 then c.con else maskOfList (wrong.map Prod.fst) }
      | [] =>
        let s3 := (c.watchNow s2 ps false true).releaseEager (coreOf c.w) 4
        let out := rs.foldl (fun (a : State × List (Nat × Nat)) r =>
          match offer c a.1 r.2 with
          | (s, st) => (s, a.2 ++ [(r.1, st)])) (s3, [])
        .go { s := out.1.notDiscardable c.x.blk, work := some (.bound (c.offerWrites out.2)), parts := ps }
  if sp then
    match s.checkSp (coreOf c.w) c.x.blk 8 false (c.recordWants s true) with
    | .error t => .trap (if c.b.mdN % 2 = 1 then { t with mask := c.con } else t)
    | .ok ps => go s ps
  else
    match s.checkGlobal (coreOf c.w) (s.ctxNo c.x) c.x.blk { kind := .load, align := 8, win := false } (c.recordWants s false) with
    | (s, .error t) => c.fault s (if c.b.mdN % 2 = 1 then { t with mask := c.con } else t)
    | (s, .ok ps) => go s ps

/-- The operand that names a queue or a bin: the s register B; a literal is the address offset (R295). -/
def Issue.workOp (c : Issue) (s : State) : Nat := (c.s s c.b.b.toNat).toNat

/-- Grid, depth and priority of the issuing block. -/
def Issue.blockInfo (c : Issue) (s : State) : Nat × Nat × Nat :=
  match s.block c.x.blk with
  | some b => (b.grid, b.depth, b.prio)
  | none => (0, 0, 0)

/-- The trailer of a node record counts only when its bin has TRL (R285). -/
def Issue.badNode (c : Issue) (s : State) (bs : List Byte) : Option Nat :=
  let op := c.workOp s
  let q := if bitsOf op 15 8 = 0xFF then clusterOfWave c.w else bitsOf op 15 8
  match mget s.wk.nbins (256 * q + op % 256) with
  | some n => if n.trl then badTrailer bs else none
  | none => none

/-- R296. Offer task records to a queue. -/
def execTqpush (x : Body) (s : State) : Out :=
  run (.tqpush x) s (offerEff (fun _ _ bs => badTask bs) fun c s bs =>
    s.offerTask (coreOf c.w) (s.ctxNo c.x) (c.workOp s) bs)

/-- R296. Offer node records to a bin. -/
def execNrec (x : Body) (s : State) : Out :=
  run (.nrec x) s (offerEff (fun c s bs => c.badNode s bs) fun c s bs =>
    match c.blockInfo s with
    | (g, depth, _) => s.offerNode (coreOf c.w) (s.ctxNo c.x) g depth (c.workOp s) bs)

/-- R296. Offer launch records. -/
def execLaunch (x : Body) (s : State) : Out :=
  run (.launch x) s (offerEff (fun _ _ bs => badLaunch bs) fun c s bs =>
    match c.blockInfo s with
    | (g, depth, prio) => s.offerLaunch (coreOf c.w) (s.ctxNo c.x) g depth prio bs)

end Sys2Proof.Machine
end

