-- ==== Sys2Proof/Machine/Beam.lean ====
section
/-! DEFINITION. Beam.lean: the beam unit: query items, exact classification, the descent, bundle records, and its three
instructions (14 R300 to R315). -/

namespace Sys2Proof.Machine

/-! ## Exact numbers -/

/-- m · 2^e. -/
structure Dy where
  m : Int
  e : Int
deriving DecidableEq, Repr

def Dy.ofInt (n : Int) : Dy := ⟨n, 0⟩

def Dy.add (a b : Dy) : Dy :=
  let e := min a.e b.e
  ⟨a.m * 2 ^ (a.e - e).toNat + b.m * 2 ^ (b.e - e).toNat, e⟩

def Dy.neg (a : Dy) : Dy := ⟨-a.m, a.e⟩
def Dy.sub (a b : Dy) : Dy := a.add b.neg
def Dy.mul (a b : Dy) : Dy := ⟨a.m * b.m, a.e + b.e⟩
def Dy.lt (a b : Dy) : Bool := decide ((a.sub b).m < 0)
def Dy.pos (a : Dy) : Bool := decide (0 < a.m)
def Dy.isNeg (a : Dy) : Bool := decide (a.m < 0)
def Dy.max (a b : Dy) : Dy := if a.lt b then b else a
def Dy.min (a b : Dy) : Dy := if a.lt b then a else b
def Dy.sum (l : List Dy) : Dy := l.foldl Dy.add ⟨0, 0⟩

/-- A finite value. -/
def Dy.ofVal : Val → Option Dy
  | .num n m e => some ⟨if n then -(m : Int) else m, e⟩
  | _ => none

/-- The binary32 code of a number, rounded once. -/
def Dy.code (a : Dy) (rm : Rm) : Nat := (Fmt.f32.result rm false (.num a.isNeg a.m.natAbs a.e)).1

/-- A number rounded to binary32; none when the result is infinite. -/
def Dy.round (a : Dy) (rm : Rm) : Option Dy := Dy.ofVal (Fmt.f32.decode (a.code rm))

abbrev Vec3 := List Dy

def Vec3.get (v : Vec3) (i : Nat) : Dy := v.getD i ⟨0, 0⟩
def dot3 (a b : Vec3) : Dy := Dy.sum ((a.zip b).map fun p => p.1.mul p.2)
def scale3 (k : Dy) (a : Vec3) : Vec3 := a.map k.mul
def add3 (a b : Vec3) : Vec3 := (a.zip b).map fun p => p.1.add p.2
def cross3 (a b : Vec3) : Vec3 :=
  let g := fun i j => ((Vec3.get a i).mul (Vec3.get b j)).sub ((Vec3.get a j).mul (Vec3.get b i))
  [g 1 2, g 2 0, g 0 1]

/-- A vector rounded component by component; none when a component is infinite. -/
def round3 (a : Vec3) (rm : Rm) : Option Vec3 :=
  let r := a.map fun x => x.round rm
  if r.any Option.isNone then none else some (r.filterMap id)

/-! ## Query items (R300 to R303) -/

/-- A query item as the unit uses it: kind (3 for a ray), lattice, apex, axis, corners c00, c10, c01, c11, and the depth
limit, none for +∞. -/
structure Item where
  kind : Nat
  lw : Nat
  lh : Nat
  apex : Vec3
  axis : Vec3
  cs : List Vec3
  dmax : Option Dy
deriving DecidableEq, Repr

/-- The finite binary32 value at word i. -/
def wordVal (ws : List Nat) (i : Nat) : Option Dy := Dy.ofVal (Fmt.f32.decode (ws.getD i 0))

def wordVec (ws : List Nat) (i : Nat) : Vec3 := (List.range 3).map fun j => (wordVal ws (i + j)).getD ⟨0, 0⟩

/-- First failing field of a word list: the lowest word number that fails a test. -/
def firstBad (n : Nat) (bad : Nat → Bool) : Option Nat := ((List.range n).find? bad).map fun i => 4 * i

/-- A ray record, or the offset of its first failing field (R300, R303). -/
def parseRay (ws : List Nat) : Except Nat Item :=
  let d := wordVec ws 3
  let finite := fun i => (wordVal ws i).isSome
  let zero := finite 3 && finite 4 && finite 5 && d.all fun x => x.m == 0
  let bad := fun i => if i = 7 then ws.getD 7 0 != 0 else !finite i || (i == 3 && zero)
    || (i == 6 && !((wordVal ws 6).getD ⟨0, 0⟩).pos)
  match firstBad 8 bad with
  | some o => .error o
  | none => .ok { kind := 3, lw := 0, lh := 0, apex := wordVec ws 0, axis := d, cs := [d, d, d, d]
                  dmax := some (((wordVal ws 6).getD ⟨0, 0⟩).mul (dot3 d d)) }

/-- The corners of a cone (R301). -/
def coneCorners (a up : Vec3) (tau : Dy) : Option (List Vec3) := do
  let u ← round3 (cross3 up a) .rne
  let v ← round3 (cross3 a u) .rne
  let c := fun (su sv : Int) => round3 (add3 a (add3 (scale3 ((Dy.ofInt su).mul tau) u) (scale3 ((Dy.ofInt sv).mul tau) v))) .rne
  let c00 ← c (-1) (-1)
  let c10 ← c 1 (-1)
  let c01 ← c (-1) 1
  let c11 ← c 1 1
  pure [c00, c10, c01, c11]

/-- A query descriptor, or the offset of its first failing field (R300, R301, R303). A cone whose corners overflow, or
whose products with its axis are not above 0, fails at its axis. -/
def parseQuery (ws : List Nat) (dmax : Option Dy) : Except Nat Item :=
  let hdr := ws.getD 0 0
  let kind := hdr % 4
  let lw := bitsOf hdr 4 2
  let lh := bitsOf hdr 7 5
  let finite := fun i => (wordVal ws i).isSome
  let bad := fun i =>
    if i = 0 then decide (hdr / 256 ≠ 0) || kind == 0 || kind == 3 || lw == 7 || lh == 7
    else if kind = 2 then
      (if i ≥ 11 then ws.getD i 0 != 0 else !finite i || (i == 10 && !((wordVal ws 10).getD ⟨0, 0⟩).pos))
    else !finite i
  match firstBad 16 bad with
  | some o => .error (if kind = 2 ∧ o ≥ 52 then 52 else if kind = 2 ∧ o ≥ 44 then 44 else o)
  | none =>
    let a0 := wordVec ws 4
    let cs := if kind = 2 then coneCorners a0 (wordVec ws 7) ((wordVal ws 10).getD ⟨0, 0⟩)
      else some [a0, wordVec ws 7, wordVec ws 10, wordVec ws 13]
    match cs with
    | none => .error 16
    | some cs =>
      let axis := cs.foldl add3 [⟨0, 0⟩, ⟨0, 0⟩, ⟨0, 0⟩]
      match (cs.zipIdx).find? fun c => !(dot3 c.1 axis).pos || (kind == 2 && !(dot3 c.1 a0).pos) with
      | some c => .error (if kind = 2 then 16 else 16 + 12 * c.2)
      | none => .ok { kind := kind, lw := lw, lh := lh, apex := wordVec ws 1, axis := axis, cs := cs, dmax := dmax }

/-- The query control (R313): a misaligned root, or for BQRY a bad DMAX, as a SUBCAUSE. -/
def badControl (ctl : List Nat) (ray : Bool) : Option Nat :=
  let d := Fmt.f32.decode (ctl.getD 3 0)
  if ctl.getD 0 0 % 128 ≠ 0 then some 0x100
  else if !ray && (d.isNan || d.isNeg || d.isZero) then some 0x10C
  else none

/-- The depth limit of the control. -/
def controlDmax (ctl : List Nat) : Option Dy := Dy.ofVal (Fmt.f32.decode (ctl.getD 3 0))

/-- A query's item. -/
def itemOf (ray : Bool) (ws ctl : List Nat) : Except Nat Item := if ray then parseRay ws else parseQuery ws (controlDmax ctl)

/-! ## Nodes (R304) -/

/-- A child that is not empty: its box, none when it is to be culled, and what it leads to. -/
structure Child where
  box : Option (Vec3 × Vec3)
  leaf : Bool
  node : Nat
  first : Nat
  count : Nat
deriving DecidableEq, Repr

/-- A node's children in slot order, or none when it is malformed. -/
def parseNode (bs : List Byte) : Option (List Child) :=
  let kind := fun k => fieldOf bs (16 + k) 1
  let o := (List.range 3).map fun i => Dy.ofVal (Fmt.f32.decode (fieldOf bs (4 * i) 4))
  let ibase := fieldOf bs 72 8
  let cref := fun k => fieldOf bs (96 + 4 * k) 4
  let ks := List.range 8
  if fieldOf bs 15 1 ≠ 0 ∨ fieldOf bs 84 12 ≠ 0 ∨ (ks.any fun k => decide (kind k ≥ 3)) ∨ o.any Option.isNone
      ∨ (ibase % 128 ≠ 0 ∧ ks.any fun k => kind k == 1) ∨ ks.any fun k => kind k == 1 && cref k != 0 then none
  else
    let org := o.filterMap id
    let step := fun (i : Nat) => (⟨1, signedOf 8 (fieldOf bs (12 + i) 1)⟩ : Dy)
    let q := fun k i => fieldOf bs (24 + 6 * k + i) 1
    some (ks.filterMap fun k =>
      if kind k = 0 then none
      else
        let at' := fun (i v : Nat) => (Vec3.get org i).add ((Dy.ofInt v).mul (step i))
        let box := if (List.range 3).any fun i => decide (q k i > q k (3 + i)) then none
          else some ((List.range 3).map fun i => at' i (q k i), (List.range 3).map fun i => at' i (q k (3 + i) + 1))
        some { box := box, leaf := kind k == 2, node := ibase + 128 * ((List.range k).filter fun j => kind j == 1).length
               first := (fieldOf bs 80 4 + cref k % 2 ^ 24) % 2 ^ 32, count := cref k / 2 ^ 24 + 1 })

/-! ## Classification (R305, R306) -/

/-- A sub-range of the lattice. -/
structure Rg where
  i0 : Nat
  j0 : Nat
  lw : Nat
  lh : Nat
deriving DecidableEq, Repr

/-- d(u, v) at u = i / 2^lw and v = j / 2^lh (R302). -/
def Item.dir (t : Item) (i j : Nat) : Vec3 :=
  let u : Dy := ⟨i, -(t.lw : Int)⟩
  let v : Dy := ⟨j, -(t.lh : Int)⟩
  let one := Dy.ofInt 1
  let c := fun k => t.cs.getD k []
  add3 (add3 (scale3 ((one.sub u).mul (one.sub v)) (c 0)) (scale3 (u.mul (one.sub v)) (c 1)))
    (add3 (scale3 ((one.sub u).mul v) (c 2)) (scale3 (u.mul v) (c 3)))

/-- Corners a00, a10, a11, a01 of a sub-range. -/
def Item.corners (t : Item) (r : Rg) : List Vec3 :=
  if t.kind = 3 then t.cs
  else [t.dir r.i0 r.j0, t.dir (r.i0 + 2 ^ r.lw) r.j0, t.dir (r.i0 + 2 ^ r.lw) (r.j0 + 2 ^ r.lh), t.dir r.i0 (r.j0 + 2 ^ r.lh)]

/-- Whether a ray of a sub-range exists (R302). -/
def Item.someRay (t : Item) (r : Rg) : Bool :=
  let w : Int := 2 ^ t.lw
  let h : Int := 2 ^ t.lh
  t.kind != 2 || (List.range (2 ^ r.lw)).any fun i => (List.range (2 ^ r.lh)).any fun j =>
    decide ((2 * (r.i0 + i : Nat) + 1 - w) ^ 2 * h ^ 2 + (2 * (r.j0 + j : Nat) + 1 - h) ^ 2 * w ^ 2 ≤ w ^ 2 * h ^ 2)

/-- M(n) and m(n) of R305 over a box less the apex. -/
def bigM (n lo hi : Vec3) : Dy := Dy.sum ((List.range 3).map fun i => ((Vec3.get n i).mul (Vec3.get lo i)).max ((Vec3.get n i).mul (Vec3.get hi i)))
def smallM (n lo hi : Vec3) : Dy := Dy.sum ((List.range 3).map fun i => ((Vec3.get n i).mul (Vec3.get lo i)).min ((Vec3.get n i).mul (Vec3.get hi i)))

/-- The largest of the four products of one axis of an interval normal; an end none is infinite, and none answers +∞. -/
def axisMax (nlo nhi : Option Dy) (lo hi : Dy) : Option Dy :=
  let up := nhi.isNone && (lo.pos || hi.pos)
  let down := nlo.isNone && (lo.isNeg || hi.isNeg)
  if up || down then none
  else
    let zero := if (nlo.isNone || nhi.isNone) && (lo.m == 0 || hi.m == 0) then [Dy.ofInt 0] else []
    let ps := zero ++ ([nlo, nhi].filterMap id).flatMap fun n => [n.mul lo, n.mul hi]
    ps.foldl (fun (b : Option Dy) p => some (match b with | none => p | some x => x.max p)) none

/-- M of an interval normal is below 0. -/
def sideMiss (n lo hi : Vec3) : Bool :=
  let ms := (List.range 3).map fun i =>
    axisMax ((Vec3.get n i).round .rdn) ((Vec3.get n i).round .rup) (Vec3.get lo i) (Vec3.get hi i)
  !ms.any Option.isNone && (Dy.sum (ms.filterMap id)).isNeg

/-- Some side plane of a sub-range culls the box (R305). -/
def sidesMiss (cs : List Vec3) (lo hi : Vec3) : Bool :=
  let c := fun k => cs.getD (k % 4) []
  (List.range 4).any fun k =>
    let n := cross3 (c k) (c (k + 1))
    let x := dot3 n (c (k + 2))
    let y := dot3 n (c (k + 3))
    if x.pos && y.pos then sideMiss n lo hi
    else if x.isNeg && y.isNeg then sideMiss (n.map Dy.neg) lo hi
    else false

/-- Some line plane of a ray culls the box (R305). -/
def linesMiss (d lo hi : Vec3) : Bool :=
  (List.range 3).any fun k =>
    let n := cross3 d ((List.range 3).map fun i => if i = k then Dy.ofInt 1 else ⟨0, 0⟩)
    (bigM n lo hi).isNeg || (smallM n lo hi).pos

/-- A box's class: 0 agree-miss, 1 agree-hit, 2 disagree; and its depths m(A) and M(A). -/
def Item.classify (t : Item) (box : Vec3 × Vec3) (r : Rg) : Nat × Dy × Dy :=
  let lo := (List.range 3).map fun i => (Vec3.get box.1 i).sub (Vec3.get t.apex i)
  let hi := (List.range 3).map fun i => (Vec3.get box.2 i).sub (Vec3.get t.apex i)
  let near := smallM t.axis lo hi
  let far := bigM t.axis lo hi
  let cs := t.corners r
  let deep := match t.dmax with | some d => d.lt near | none => false
  if far.isNeg || deep || (if t.kind = 3 then linesMiss t.axis lo hi else sidesMiss cs lo hi) then (0, near, far)
  else
    let top := match t.dmax with | some d => far.min d | none => far
    match (((near.max ⟨0, 0⟩).add top).mul ⟨1, -1⟩).round .rne with
    | none => (2, near, far)
    | some sc =>
      let inBand := !sc.isNeg && (match t.dmax with | some d => !d.lt sc | none => true)
      let hit := cs.all fun c =>
        let k := dot3 c t.axis
        (List.range 3).all fun i =>
          ((Vec3.get lo i).mul k).lt ((Vec3.get c i).mul sc) && ((Vec3.get c i).mul sc).lt ((Vec3.get hi i).mul k)
      (if inBand && hit then 1 else 2, near, far)

/-! ## Descent (R307) -/

/-- The parts of a split in part order. -/
def Rg.parts (r : Rg) : List Rg :=
  let us := if r.lw = 0 then [0] else [0, 2 ^ (r.lw - 1)]
  let vs := if r.lh = 0 then [0] else [0, 2 ^ (r.lh - 1)]
  vs.flatMap fun v => us.map fun u => { i0 := r.i0 + u, j0 := r.j0 + v, lw := r.lw - 1, lh := r.lh - 1 }

/-- The tests of one child within a visit: what is left to do, in order. A call that would bring the stack to 65 stands as
a visit at that depth. -/
def Item.test (t : Item) (c : Child) (box : Vec3 × Vec3) : Nat → Rg → Nat → Nat → List BTodo
  | 0, _, _, _ => []
  | fuel + 1, r, lvl, e =>
    if !t.someRay r then []
    else
      match t.classify box r with
      | (0, _, _) => []
      | (cls, near, far) =>
        if cls = 2 ∧ lvl < 6 ∧ 0 < r.lw + r.lh then
          if e ≥ 64 then [.visit 0 0 0 0 0 0 65]
          else r.parts.flatMap fun p => t.test c box fuel p (lvl + 1) (e + 1)
        else if c.leaf then
          let top := match t.dmax with | some d => far.min d | none => far
          [.emit r.i0 r.j0 r.lw r.lh lvl c.first c.count (if cls = 1 then 1 else 0) ((near.max ⟨0, 0⟩).code .rdn) (top.code .rup)]
        else [.visit c.node r.i0 r.j0 r.lw r.lh lvl (e + 1)]

/-- One visit's compare batch: every child in slot order. -/
def Item.visit (t : Item) (cs : List Child) (r : Rg) (lvl e : Nat) : List BTodo :=
  cs.flatMap fun c => match c.box with | some b => t.test c b 8 r lvl e | none => []

/-! ## Queries (R308, R310, R311, R315) -/

def State.query (s : State) (q : Nat) : Option Query := mget s.wk.queries q

def State.putQuery (s : State) (q : Nat) (x : Query) : State := { s with wk := { s.wk with queries := mput s.wk.queries q x } }

/-- A query ends: its state is final, and its grid is no longer its compare grid. -/
def State.endQuery (s : State) (q : Nat) (x : Query) (st sub node : Nat) : State :=
  (s.putQuery q { x with state := st, sub := sub, nodeAt := node, todo := [], units := [] }).modGrid x.hgrid fun h => { h with queries := h.queries - 1 }

/-- A query of a block that is resident goes on; one of a block that is being saved stops between its batches (R316). -/
def State.queryRuns (s : State) (x : Query) : Bool :=
  match s.block x.blk with | some b => !b.saving | none => false

/-- R315. A queued query starts at its root. -/
def execQueryStart (q : Nat) (s : State) : Out :=
  match s.query q with
  | some x =>
    if x.state ≠ 1 ∨ !s.queryRuns x then .next s
    else
      let root := x.ctl.getD 0 0 + 2 ^ 32 * x.ctl.getD 1 0
      match itemOf (x.kind == 3) x.words x.ctl with
      | .ok t => .next (s.putQuery q { x with state := 2, todo := [.visit root 0 0 t.lw t.lh 0 1] })
      | .error _ => .next s
  | none => .next s

/-- A node is read as a load of the issuing wave (R304, R308): some of its 8-byte units that have not been read, each at one moment.
The units read so far, or the state the query ends with. -/
def State.readNode (s : State) (x : Query) (node : Nat) : State × Except (Nat × Nat) (Map (List Byte)) :=
  let core := coreOf x.wave
  if inWindow node then (s, .error (0x12, 2))
  else
    match (List.range 16).foldl (fun (a : State × Except Nat (List (Nat × List (Loc × Nat)))) i =>
      match a with
      | (s, .error e) => (s, .error e)
      | (s, .ok ls) =>
        match s.engineLocs core x.ctx x.blk [] .load ((node + 8 * i) % 2 ^ 64) 8 with
        | (s, .ok l) => (s, .ok (ls ++ [(i, l)]))
        | (s, .error e) => (s, .error e)) (s, .ok []) with
    | (s, .error e) => (s, .error (0x12, if e = 0x85 then 1 else 2))
    | (s, .ok ls) =>
      let now := chosen s.free (ls.filter fun u => (mget x.units u.1).isNone)
      let s1 := s.bump.engineFill core (now.flatMap Prod.snd)
      let got := now.map fun u => (u.1, s1.engineRead core u.2)
      if got.any fun u => u.2.2.any id then ((s1.logUce core 2 (Config.choice s1.free)).bump, .error (0x13, 0))
      else (s1, .ok (got.foldl (fun m u => mput m u.1 u.2.1) x.units))

/-- An HMMA of the grid still has rows to enter (R233). -/
def HGrid.rowsLeft (h : HGrid) : Bool := h.ops.any fun o => o.code == 0x1E6 && decide (o.done < o.args.getD 0 0)

/-- R307, R308, R311. One visit: units of its node are read; once all have been, its compare batch enters the grid. -/
def execCompareBatch (q : Nat) (s : State) : Out :=
  match s.query q with
  | some x =>
    match x.todo with
    | .visit node i0 j0 lw lh lvl e :: rest =>
      if (x.state ≠ 2 ∧ x.state ≠ 3) ∨ e ≥ 65 ∨ !s.queryRuns x ∨ (s.hgrid x.hgrid).rowsLeft then .next s
      else
        match s.readNode x node with
        | (s, .error r) => .next (s.endQuery q x r.1 r.2 node)
        | (s, .ok us) =>
          if us.length < 16 then .next (s.putQuery q { x with state := 2, units := us })
          else
            match parseNode (us.flatMap Prod.snd), itemOf (x.kind == 3) x.words x.ctl with
            | some cs, .ok t => .next (s.putQuery q { x with state := 2, units := [], todo := t.visit cs ⟨i0, j0, lw, lh⟩ lvl e ++ rest })
            | _, _ => .next (s.endQuery q x 0x14 0 node)
    | _ => .next s
  | none => .next s

/-- A bundle record (R309). A trailer of a bin with TRL 1 has CADDR 0 and the CSCOPE of
device scope. -/
def Query.record (x : Query) (i0 j0 lw lh lvl first count hit tentry texit : Nat) (trl : Bool) : List Byte :=
  let flags := (if x.kind = 2 then 1 else 0) + 2 * hit + (if x.kind = 3 then 4 else 0)
  leBytesOf 8 x.item ++ leBytesOf 1 i0 ++ leBytesOf 1 j0 ++ leBytesOf 1 lw ++ leBytesOf 1 lh ++ leBytesOf 1 flags ++ leBytesOf 1 lvl
    ++ leBytesOf 2 (x.ctl.getD 2 0 / 2 ^ 20) ++ leBytesOf 4 first ++ leBytesOf 4 count ++ leBytesOf 4 tentry ++ leBytesOf 4 texit
    ++ leBytesOf 4 x.count ++ leBytesOf 12 0 ++ (if trl then leBytesOf 10 0 ++ leBytesOf 1 4 ++ leBytesOf 5 0 else leBytesOf 16 0)

/-- R309, R310. The record at the head is offered to the bin: accepted, stalled, or the query ends. -/
def execRecordEmit (q : Nat) (s : State) : Out :=
  match s.query q with
  | some x =>
    match x.todo with
    | .emit i0 j0 lw lh lvl first count hit tin tout :: rest =>
      let b := 256 * x.bcl + x.ctl.getD 2 0 % 256
      if (x.state ≠ 2 ∧ x.state ≠ 3) ∨ x.count ≥ 4096 ∨ !s.queryRuns x then .next s
      else
        match mget s.wk.nbins b with
        | none => .next (s.endQuery q x 0x15 0 0)
        | some n =>
          if !s.clusterUp x.bcl ∨ !n.valid ∨ n.ctx ≠ x.ctx then .next (s.endQuery q x 0x15 0 0)
          else if n.held.length ≥ 2 ^ n.slog2 then .next (s.putQuery q { x with state := 3 })
          else
            let depth := ((s.block x.blk).map Block.depth).getD 0
            let r : Rec := { bytes := x.record i0 j0 lw lh lvl first count hit tin tout n.trl, emitter := x.grid, depth := depth, deps := s.m.seenBy (coreOf x.wave) }
            let s1 := (s.releaseEager (coreOf x.wave) 4).intoBin b n r
            .next ((s1.putQuery q { x with state := 2, count := x.count + 1, todo := rest }).notDiscardable x.blk)
    | _ => .next s
  | none => .next s

/-- R307, R315. A query with nothing left to do ends, or at a limit. -/
def execQueryEnd (q : Nat) (s : State) : Out :=
  match s.query q with
  | some x =>
    if (x.state ≠ 2 ∧ x.state ≠ 3) ∨ !s.queryRuns x then .next s
    else
      match x.todo with
      | [] => .next (s.endQuery q x 0x10 0 0)
      | .visit _ _ _ _ _ _ e :: _ => if e ≥ 65 then .next (s.endQuery q x 0x11 2 0) else .next s
      | .emit .. :: _ => if x.count ≥ 4096 then .next (s.endQuery q x 0x11 1 0) else .next s
  | none => .next s

/-! ## Instructions (R313 to R315) -/

/-- The four words of a number. -/
def wordsOf (n x : Nat) : List Nat := (List.range n).map fun i => x / 2 ^ (32 * i) % 2 ^ 32

/-- One query offered to the slots of the cluster: its handle word (R314). -/
def Issue.acceptQuery (c : Issue) (s : State) (ray : Bool) (ctl : List Nat) (addr : Nat) (ws : List Nat) : State × Nat :=
  let q := clusterOfWave c.w
  let w2 := ctl.getD 2 0
  let bcl := if bitsOf w2 15 8 = 0xFF then q else bitsOf w2 15 8
  let g := 16 * q + bitsOf w2 19 16
  let h := s.hgrid g
  let info := c.blockInfo s
  let noTarget := match mget s.wk.nbins (256 * bcl + w2 % 256) with
    | some n => !n.valid || n.ctx != s.ctxNo c.x || !s.clusterUp bcl
    | none => true
  let slot := lowestFree s.wk.queries 64 (64 * q)
  if noTarget then (s, 2 * 2 ^ 28)
  else if info.2.1 ≥ 10 then (s, 3 * 2 ^ 28)
  else if h.state ≠ 2 ∨ h.blk ≠ c.x.blk then (s, 4 * 2 ^ 28)
  else if slot ≥ 64 * q + 64 then (s, 2 ^ 28)
  else
    let gen := mgetD s.wk.qgen slot 0
    let x : Query := { gen := gen, blk := c.x.blk, ctx := s.ctxNo c.x, grid := info.1, wave := c.w, state := 1, sub := 0, count := 0, nodeAt := 0
                       kind := if ray then 3 else ws.getD 0 0 % 4, item := addr, words := ws, ctl := ctl, bcl := bcl, hgrid := g, todo := [] }
    let s1 := (s.putQuery slot x).modGrid g fun h => { h with queries := h.queries + 1 }
    ({ s1 with wk := { s1.wk with qgen := mput s1.wk.qgen slot ((gen + 1) % 1024) } }, 2 ^ 31 + gen * 2 ^ 6 + slot % 64)

/-- The bytes of a lane's item, as words. -/
def State.itemWords (s : State) (c : Issue) (n lane : Nat) (ps : List Piece) : State × List Nat :=
  match s.readPieces (coreOf c.w) ((s.wave c.w).getD c.x) s.stamp false ((ps.filter fun p => p.lane == lane).map fun p => { p with lane := 0 }) [] [] with
  | (s, got, _) => (s, (List.range (n / 4)).map fun i => leVal ((List.range 4).map fun j => cget got (4 * i + j) 0#8))

/-- R314. The mould of BQRY and BRAY: addresses, control and items are checked, then each lane's query is offered in
ascending order. -/
def beamEff (ray : Bool) (c : Issue) (s : State) : Eff :=
  let lanes := if ray then c.lanes else [c.low]
  let n := if ray then 32 else 64
  match s.checkGlobal (coreOf c.w) (s.ctxNo c.x) c.x.blk { kind := .load, align := if ray then 16 else 64, win := false }
      (lanes.map fun l => { lane := l, va := c.addr s l, n := n }) with
  | (s, .error t) => c.fault s (if ray then t else { t with mask := c.con })
  | (s, .ok ps) =>
    let ctl := wordsOf 4 (c.sGroup s c.b.b.toNat 4)
    match badControl ctl ray with
    | some sub => .raise .beamRecord c.con sub
    | none => c.settled <|
      let items := lanes.foldl (fun (a : State × List (Nat × List Nat)) l =>
        match a.1.itemWords c n l ps with
        | (s, ws) => (s, a.2 ++ [(l, ws)])) (s, [])
      let bad := items.2.filterMap fun p => match itemOf ray p.2 ctl with | .error o => some (p.1, o) | .ok _ => none
      match bad with
      | (l, o) :: _ =>
        .raise .beamRecord (if ray then maskOfList (bad.map Prod.fst) else c.con) o (c.addr s l)
      | [] =>
        let out := items.2.foldl (fun (a : State × List (Nat × Nat)) p =>
          match c.acceptQuery a.1 ray ctl (c.addr s p.1) p.2 with
          | (s, h) => (s, a.2 ++ [(p.1, h)])) (c.watchNow items.1 ps false true, [])
        .go { s := out.1, parts := ps
              work := some (.bound (if ray then out.2.flatMap fun r => vWords c.b.d.toNat r.1 r.2 1 else c.toSD ((out.2.headD (0, 0)).2))) }

/-- R314. Offer one frustum or cone query. -/
def execBqry (x : Body) (s : State) : Out := run (.bqry x) s (beamEff false)

/-- R314. Offer a ray query for each contributor. -/
def execBray (x : Body) (s : State) : Out := run (.bray x) s (beamEff true)

/-- The query that a handle names for a block on a cluster: the one in its slot, when the generation and the block are its own
(R314, R315). -/
def State.queryOf (s : State) (q blk h : Nat) : Option (Nat × Query) :=
  if bitsOf h 31 16 ≠ 0x8000 then none
  else (s.query (64 * q + h % 64)).bind fun x => if x.gen = bitsOf h 15 6 ∧ x.blk = blk then some (64 * q + h % 64, x) else none

/-- A query's state as BSTAT reads it. -/
def statWord (h : Nat) (q : Option Query) : Nat :=
  match q with
  | none => h % 2 ^ 16 * 2 ^ 16
  | some x => h % 2 ^ 16 * 2 ^ 16 + x.sub * 2 ^ 8 + x.state + x.count * 2 ^ 32 + x.nodeAt % 2 ^ 64 * 2 ^ 64

/-- Whether BSTAT.wait has nothing to wait for. -/
def State.queryOver (s : State) (q blk h : Nat) : Bool :=
  match s.queryOf q blk h with
  | some p => decide (p.2.state ≥ 0x10)
  | none => true

/-- The read of BSTAT, and with .clr the end of the query's hold on its slot. -/
def State.readStat (s : State) (cluster blk h : Nat) (clr : Bool) : State × Nat :=
  match s.queryOf cluster blk h with
  | none => (s, statWord h none)
  | some (q, x) =>
    (if clr && decide (x.state ≥ 0x10) then { s with wk := { s.wk with queries := mdel s.wk.queries q } } else s, statWord h (some x))

/-- R315. Read a query's state. -/
def execBstat (x : Body) (s : State) : Out :=
  run (.bstat x) s fun c s =>
    let h := (c.s s c.b.a.toNat).toNat
    let clr := c.b.mdN / 2 % 2 = 1
    if c.b.mdN % 2 = 0 ∨ s.queryOver (clusterOfWave c.w) c.x.blk h then
      match s.readStat (clusterOfWave c.w) c.x.blk h clr with
      | (s, v) => .go { s := s, work := some (.bound (c.toSD v)) }
    else .go { s := s, work := some (.bstat true clr h c.dstS) }

/-- A waiting BSTAT whose query is over completes. -/
def State.bstatDone (s : State) (w : Nat) (x : Wave) (p : Pend) : State :=
  match p.work with
  | .bstat _ clr h d =>
    match s.readStat (clusterOfWave w) x.blk h clr with
    | (s, v) => s.modWave w fun x => x.bind p.stamp s.clock (d.writes 0 v 0)
  | _ => s

end Sys2Proof.Machine
end

