-- ==== Sys2Proof/Machine/Fetch.lean ====
section
/-! DEFINITION. Fetch.lean: the instruction cache: a candidate's bytes, and the fill of a missing line (02 R47, R48; 07
R167, R168; 22 R433). -/

namespace Sys2Proof.Machine

/-- The generation of a wave's block (R433). -/
def State.genOf (s : State) (x : Wave) : Nat := ((s.block x.blk).map Block.gen).getD 0

/-- An entry of a list of fetched lines, with its tags. -/
def heldLine (ls : List (Nat × ILine)) (core ctx gen va : Nat) : Option ILine :=
  (ls.find? fun p => p.1 == core && p.2.ctx == ctx && p.2.gen == gen && p.2.va == va).map Prod.snd

/-- A byte of a core's instruction cache, when it is held there; a poisoned byte is never held. -/
def State.lineByte (s : State) (core ctx gen va : Nat) : Option Byte :=
  (heldLine s.co.icache core ctx gen (va / 128 * 128)).bind fun l => mget l.bytes (va % 128)

/-- A byte of code in a window of the trace cache: what a wave issues from (R167). -/
def State.codeByte (s : State) (core ctx gen va : Nat) : Option Byte :=
  (heldLine s.co.traces core ctx gen (va / 64 * 64)).bind fun l => mget l.bytes (va % 64)

/-- The bytes of code at an address up to the first that is not held. -/
def codeRun (held : Nat → Option Byte) : Nat → Nat → List Byte
  | 0, _ => []
  | n + 1, va =>
    match held (va % 2 ^ 64) with
    | some b => b :: codeRun held n (va + 1)
    | none => []

/-- How many bytes an instruction asks for, as far as its first bytes tell (R47, R58). A target list is fetched whole, whatever
else is wrong with its owner, since row 1 of R70 comes first; one whose header is malformed has no other word (log entry 27). -/
def fetchLen (bs : List Byte) : Nat :=
  if bs.length < 2 then 2
  else
    let p := leNat (bs.take 2)
    let base := parcelsLen p
    if !ownsList p then base
    else if bs.length < base + 4 then (if bs.length < base then base else base + 4)
    else
      let h := leNat ((bs.drop base).take 4)
      let n := h / 2 ^ 16
      if h % 2 ^ 16 ≠ 0 ∨ n = 0 ∨ n > 1024 then base + 4 else base + 4 + 4 * n

/-- The offset of the parcel, or of the list word, that holds byte `n` of an instruction (R48, R58). -/
def unitAt (bs : List Byte) (n : Nat) : Nat :=
  let p := leNat (bs.take 2)
  let base := parcelsLen p
  if decide (2 ≤ bs.length) && ownsList p && decide (base ≤ n) then base + (n - base) / 4 * 4 else n / 2 * 2

/-- The bytes of the instruction at an address, or the bytes held before the first that is missing. -/
def fetchTry (held : Nat → Option Byte) (pc : Nat) : Nat → List Byte → Except (List Byte) (List Byte)
  | 0, bs => .ok bs
  | fuel + 1, bs =>
    let n := fetchLen bs
    if n ≤ bs.length then .ok bs
    else
      let more := codeRun held n pc
      if more.length < n then .error more else fetchTry held pc fuel more

/-- The bytes of a wave's candidate. -/
def State.fetch (s : State) (w : Nat) (x : Wave) (pc : Nat) : Except (List Byte) (List Byte) :=
  fetchTry (s.codeByte (coreOf w) (s.ctxNo x) (s.genOf x)) pc 4 []

/-- An issue that stops before its guard is known: a trap that no instruction of the table raises (R48, R70). -/
def noIssue (w : Nat) (x : Wave) (pc : Nat) : Issue :=
  { w := w, x := x, pc := pc, act := x.activeAt pc, con := 0#32, i := .nop {}, b := {}, span := 0 }

/-- SUBCAUSE of FETCH_FAULT: 1 for a page fault, 2 for an access fault, 3 for poison (R48, R269). -/
def fetchSub (reason : Nat) : Nat := if reason = 9 then 3 else if isPageFault reason then 1 else 2

/-- FETCH_FAULT at a wave's candidate: ADDR is its first parcel, or list word, that failed. -/
def State.fetchFault (s : State) (w : Nat) (x : Wave) (pc sub addr : Nat) (bs : List Byte) : State :=
  s.takeTrap (noIssue w x pc) (frameWords bs) { cause := .fetchFault, sub := sub, addr := addr, mask := x.activeAt pc }

/-- Lines of a core's instruction cache, and windows of its trace cache (R5, R167). -/
def lineCap : Nat := 256
def windowCap : Nat := 1024

/-- An entry joins a list of fetched lines; a core that holds as many as it can drops the one filled first, which is the model's choice
of replacement (log entry 25). -/
def keepLine (ls : List (Nat × ILine)) (cap core : Nat) (l : ILine) : List (Nat × ILine) :=
  let others := ls.filter fun p => !(p.1 == core && p.2.ctx == l.ctx && p.2.gen == l.gen && p.2.va == l.va)
  let mine := others.filter fun p => p.1 == core
  (core, l) :: if mine.length < cap then others else mine.take (cap - 1) ++ others.filter fun p => p.1 != core

/-- A line of the instruction cache filled from memory as the core reads it. -/
def State.fillLine (s : State) (core ctx gen va pa : Nat) : State :=
  let bytes := (List.range 128).filterMap fun i => if s.m.corePoisoned core (pa + i) then none else some (i, s.m.coreByte core (pa + i))
  { s with co := { s.co with icache := keepLine s.co.icache lineCap core { ctx := ctx, va := va, gen := gen, bytes := bytes } } }

/-- A window of the trace cache filled from the instruction cache. -/
def State.fillWindow (s : State) (core ctx gen va : Nat) : State :=
  let bytes := (List.range 64).filterMap fun i => (s.lineByte core ctx gen (va + i)).map fun b => (i, b)
  { s with co := { s.co with traces := keepLine s.co.traces windowCap core { ctx := ctx, va := va, gen := gen, bytes := bytes } } }

/-- A core drops a line of its instruction cache, or a window of its trace cache, of its own accord (R168). -/
def State.dropCode (s : State) (window : Bool) (core : Nat) (l : ILine) : State :=
  let drop := fun (ls : List (Nat × ILine)) => ls.filter fun p => !(p.1 == core && p.2.ctx == l.ctx && p.2.gen == l.gen && p.2.va == l.va)
  { s with co := if window then { s.co with traces := drop s.co.traces } else { s.co with icache := drop s.co.icache } }

/-- What the caches of fetched code hold, but for the lines and windows that a test names. -/
def State.dropFetched (s : State) (gone : Nat → ILine → Nat → Bool) : State :=
  { s with co := { s.co with icache := s.co.icache.filter fun p => !gone p.1 p.2 128
                             traces := s.co.traces.filter fun p => !gone p.1 p.2 64 } }

/-- Whether a wave has a candidate to fetch: it runs, and nothing it issued holds it. -/
def Wave.fetches (x : Wave) : Bool := x.run == .running && x.replay.isNone && x.pend.all fun p => !p.hold

/-- R48, R167. What a wave's candidate misses is filled: the window of the trace cache from the line of the instruction cache that holds
the byte, else that line from memory, with the check of execute permission; a failure is the candidate's FETCH_FAULT. -/
def execTraceCacheFill (w : Nat) (s : State) : Out :=
  match s.wave w with
  | none => .next s
  | some x =>
    match x.issuePc with
    | none => .next s
    | some pc =>
      match s.fetch w x pc with
      | .ok _ => .next s
      | .error bs =>
        if !x.fetches then .next s
        else
          let at' := (pc + bs.length) % 2 ^ 64
          let line := at' / 128 * 128
          let failed := (pc + unitAt bs bs.length) % 2 ^ 64
          let ctx := s.ctxNo x
          if (s.lineByte (coreOf w) ctx (s.genOf x) at').isSome then .next (s.fillWindow (coreOf w) ctx (s.genOf x) (at' / 64 * 64))
          else
            match s.translate (coreOf w) ctx line .fetch with
            | (s, .error r) => .next (s.fetchFault w x pc (fetchSub r) failed bs)
            | (s, .ok pa) =>
              let s1 := s.fillLine (coreOf w) ctx (s.genOf x) line pa
              if s1.m.corePoisoned (coreOf w) (pa + (at' - line)) then .next (s1.fetchFault w x pc 3 failed bs) else .next s1

/-- R167. A line of a wave's code that no candidate asks for is fetched ahead; one whose page fails is not, and raises nothing. -/
def State.prefetch (s : State) (w line : Nat) : State :=
  match s.wave w with
  | none => s
  | some x =>
    match s.translate (coreOf w) (s.ctxNo x) (128 * line) .fetch with
    | (s, .error _) => s
    | (s, .ok pa) => s.fillLine (coreOf w) (s.ctxNo x) (s.genOf x) (128 * line) pa

/-! ## ICINV (R119) -/

/-- The longest an instruction may be, with its target list (R47, R58). -/
def spanMax : Nat := 12 + 4 + 4 * 1024

/-- Whether two runs of bytes meet. -/
def runsMeet (a n b m : Nat) : Bool := decide (a < b + m) && decide (b < a + n) && decide (n ≠ 0) && decide (m ≠ 0)

/-- Whether an instruction that `held` gives has a byte of the range and a byte of the line of `n` bytes at `va` (R119). -/
def reachedBy (held : Nat → Option Byte) (va n lo len : Nat) : Bool :=
  let from' := (max (va - spanMax) (lo - spanMax)) / 2 * 2
  (List.range ((min (va + n) (lo + len) - from' + 1) / 2)).any fun i =>
    let a := from' + 2 * i
    match fetchTry held a 4 [] with
    | .ok bs | .error bs => runsMeet a bs.length va n && runsMeet a bs.length lo len

/-- A byte of code as memory holds it for a core, without an effect on its translations. -/
def State.freshByte (s : State) (core ctx va : Nat) : Option Byte :=
  match (s.translate core ctx va .fetch).2 with
  | .ok pa => some (s.m.coreByte core pa)
  | .error _ => none

/-- A byte of code as a wave will find it once every line and window with a byte of the range is gone. -/
def State.afterByte (s : State) (core ctx gen lo len va : Nat) : Option Byte :=
  let kept := fun (n : Nat) (b : Option Byte) => if runsMeet (va / n * n) n lo len then none else b
  kept 64 (s.codeByte core ctx gen va) <|> kept 128 (s.lineByte core ctx gen va) <|> s.freshByte core ctx va

/-- What an invalidation selects, of lines of `n` bytes: those of the context with a byte of the range; and those with a byte of an
instruction that has a byte of the range, as the trace cache holds the instruction, or as it would be fetched afterwards (R119). -/
def State.codeSelected (s : State) (core : Nat) (l : ILine) (n ctx : Nat) (all : Bool) (lo len : Nat) : Bool :=
  l.ctx == ctx && (all || runsMeet l.va n lo len
    || (decide (len ≠ 0) && (reachedBy (s.codeByte core ctx l.gen) l.va n lo len
      || reachedBy (s.afterByte core ctx l.gen lo len) l.va n lo len)))

/-- R119. An ICINV completes: the older stores have left the queue, and the selected lines and windows go. -/
def execIcinvComplete (w n : Nat) (s : State) : Out :=
  match s.wave w with
  | none => .next s
  | some x =>
    match x.pending n with
    | none => .next s
    | some p =>
      match p.work with
      | .icinv all lo len =>
        if x.sq.all fun e => decide (n < e.stamp) then
          .next ((s.dropFetched fun core l size => core == coreOf w && s.codeSelected core l size (s.ctxNo x) all lo len).modWave w
            fun x => x.complete n)
        else .next s
      | _ => .next s

end Sys2Proof.Machine
end

