-- ==== Sys2Proof/Machine/Rein.lean ====
section
/-! DEFINITION. Rein.lean: user-level interrupts: the rein block, the router, and the four instructions (08 R212 to R216; 18
R352 to R355; 23 R445). -/

namespace Sys2Proof.Machine

def State.ctx (s : State) (n : Nat) : Ctx := mgetD s.wk.ctxs n {}

def State.putCtx (s : State) (n : Nat) (c : Ctx) : State := { s with wk := { s.wk with ctxs := mput s.wk.ctxs n c } }

/-! ## The rein block (R353) -/

/-- An entry of the rein block: PAYLOAD, COUNT and CTRL. -/
structure Vec where
  payload : Nat
  count : Nat
  pend : Bool
  mask : Bool
  mode : Nat
  rest : Nat        -- CTRL[7:4] and bytes 11 to 15 as they stand
deriving DecidableEq, Repr

def Vec.ofBytes (bs : List Byte) : Vec :=
  let c := fieldOf bs 10 1
  { payload := fieldOf bs 0 8, count := fieldOf bs 8 2, pend := c.testBit 0, mask := c.testBit 1, mode := bitsOf c 3 2
    rest := c / 16 + fieldOf bs 11 5 * 16 }

def Vec.bytes (v : Vec) : List Byte :=
  leBytesOf 8 v.payload ++ leBytesOf 2 v.count ++ [BitVec.ofNat 8 (v.pend.toNat + 2 * v.mask.toNat + 4 * v.mode + 16 * (v.rest % 16))]
    ++ leBytesOf 5 (v.rest / 16)

/-- One entry of a context's block, or none when it has no block or the block cannot be reached. -/
def State.vecAt (s : State) (ctx v : Nat) : State × Option Vec :=
  let c := s.ctx ctx
  if c.reinblk = 0 ∨ !c.valid then (s, none)
  else
    match s.devRead ctx (c.reinblk + 16 * v) 16 with
    | (s, .ok bs) => (s, some (.ofBytes bs))
    | (s, .error e) => (s.logFault ctx .load e (c.reinblk + 16 * v), none)

/-- An entry written; whether its page took it (log entry 33). -/
def State.putVec (s : State) (ctx v : Nat) (e : Vec) : State × Bool :=
  let va := (s.ctx ctx).reinblk + 16 * v
  match s.devWrite ctx va e.bytes with
  | (s, true) => (s, true)
  | (s, false) => (s.logWork ctx .store va 16, false)

/-- The lowest vector of a range that is pending, and unmasked where that is asked. -/
def State.lowestVec (s : State) (ctx first : Nat) (unmasked : Bool) : State × Option Nat :=
  (List.range 16).foldl (fun a i =>
    match a.2 with
    | some _ => a
    | none =>
      match a.1.vecAt ctx (first + i) with
      | (s, some e) => (s, if e.pend && !(unmasked && e.mask) then some (first + i) else none)
      | (s, none) => (s, none)) (s, none)

/-! ## Wake-up and policy (R355) -/

/-- Waves of a context's handler group. -/
def State.handles (s : State) (ctx first : Nat) (x : Wave) : Bool :=
  match s.block x.blk with
  | some b => b.ctx == ctx && b.rein == some first
  | none => false

/-- Handler waves that wait wake with the lowest pending unmasked vector of their range. -/
def State.wakeReins (s : State) (ctx first : Nat) : State :=
  match s.lowestVec ctx first true with
  | (s, none) => s
  | (s, some v) =>
    s.mapWaves fun _ x =>
      if s.handles ctx first x then x.unpark s.clock (fun p => p.kind == .rein) (some v) else x

/-- Every handler wave that waits although a vector of its range is pending and unmasked wakes, after a change that no send made
(R214, R353). -/
def State.wakeParked (s : State) : State :=
  s.waves.foldl (fun (s : State) p =>
    if p.2.parks.any fun q => q.kind == .rein then
      match (s.block p.2.blk).bind fun b => b.rein.map fun v => (b.ctx, v) with
      | some a => s.wakeReins a.1 a.2
      | none => s
    else s) s

/-- The rein floor of a context's READY binds (R346, R355). -/
def State.setFloor (s : State) (ctx f : Nat) (readyOnly : Bool) : State :=
  { s with wk := { s.wk with binds := s.wk.binds.map fun p =>
      if p.2.ctx == ctx && (!readyOnly || p.2.state == 1) then (p.1, { p.2 with floor := f }) else p } }

/-- POL of a group, for one send to an unmasked vector while no handler wave is resident (R355). -/
def State.reinPolicy (s : State) (ctx v : Nat) : State :=
  let c := s.ctx ctx
  let g := v / 16
  match bitsOf c.pol (2 * g + 1) (2 * g) with
  | 1 => (s.putCtx ctx { c with raised := ladd c.raised v }).setFloor ctx c.hprio true
  | 2 =>
    let kd := c.hkd.getD g 0
    if kd = 0 ∨ c.launched.any fun p => p.1 == g then s
    else
      match s.newGrid (oneBlock ctx c.home kd 0 c.hprio 0 [] [] 0) with
      | (s, some n) => s.putCtx ctx { s.ctx ctx with launched := (g, n) :: (s.ctx ctx).launched }
      | (s, none) => s
  | _ => s

/-- What follows an accepted send to an unmasked vector. -/
def State.reinNotify (s : State) (ctx v : Nat) : State :=
  let first := v / 16 * 16
  if s.waves.any fun p => s.handles ctx first p.2 then s.wakeReins ctx first else s.reinPolicy ctx v

/-! ## The router (R354) -/

/-- Whether an entry of the permission table admits a sender and a vector. -/
def Ctx.permits (c : Ctx) (id v : Nat) : Bool := c.perms.any fun e => (id &&& e.idmask) == (e.idbase &&& e.idmask) && e.vecmap.testBit v

/-- A refused send is counted. -/
def State.countRefused (s : State) (ctx : Nat) : State :=
  let c := s.ctx ctx
  s.putCtx ctx { c with refused := (c.refused + 1) % 2 ^ 32, dirty := true }

/-- What happens before an accepted send happens before the RTAKE that claims it (R369). -/
def State.noteSend (s : State) (ctx v : Nat) (deps : List Nat) : State :=
  if deps.isEmpty then s
  else
    let c := s.ctx ctx
    s.putCtx ctx { c with sent := mput c.sent v (deps.foldl ladd (cget c.sent v [])) }

/-- One send, whole: accepted or refused. A vector that cannot be read or written refuses it (log entry 33). -/
def State.routeSend (s : State) (id ctx v payload : Nat) (deps : List Nat := []) : State × Bool :=
  let c := s.ctx ctx
  if c.reinblk = 0 ∨ !c.valid ∨ !c.permits id v then (s.countRefused ctx, false)
  else
    match s.vecAt ctx v with
    | (s, none) => (s.countRefused ctx, false)
    | (s, some e) =>
      let p := match e.mode with
        | 0 => e.payload ||| payload
        | 1 => (e.payload + payload) % 2 ^ 64
        | _ => payload
      match s.putVec ctx v { e with payload := p, count := min (e.count + 1) 0xFFFF, pend := true } with
      | (s, false) => (s.countRefused ctx, false)
      | (s, true) =>
        let s1 := s.noteSend ctx v deps
        (if e.mask then s1 else s1.reinNotify ctx v, true)

/-- The result of the n-th send of a host page; RSTAT holds that of the latest (R395). -/
def State.pageResult (s : State) (page n : Nat) (ok : Bool) : State :=
  { s with wk := { s.wk with hqs := mmod s.wk.hqs page fun q =>
      if q.resultOf ≤ n then { q with result := if ok then 1 else 2, resultOf := n } else q } }

/-- A kernel send's answer. -/
def State.sendAnswer (s : State) (w : Nat × Nat) (ok : Bool) : State :=
  s.modWave w.1 fun x =>
    match (x.pending w.2).map Pend.work with
    | some (.send d) => x.bind w.2 s.clock (kwriteAll d.base (if ok then BitVec.allOnes 32 else 0#32))
    | _ => x

/-- R354, R355. The router handles a send, unless an older one of the same sender to the same vector waits. -/
def execReinRouterSend (n : Nat) (s : State) : Out :=
  match s.wk.sends[n]? with
  | none => .next s
  | some d =>
    if (s.wk.sends.take n).any fun e => e.id == d.id && e.vec == d.vec && e.ctx == d.ctx then .next s
    else
      let s0 := { s with wk := { s.wk with sends := s.wk.sends.eraseIdx n } }
      match s0.routeSend d.id d.ctx d.vec d.payload d.deps with
      | (s1, ok) =>
        let s2 := match d.w with
          | some w => s1.sendAnswer w ok
          | none => s1
        .next (match d.page with | some p => s2.pageResult p d.seq ok | none => s2)

/-- R352. The count of refused sends is written into the context's image. -/
def execRefusedWriteback (ctx : Nat) (s : State) : Out :=
  let c := s.ctx ctx
  if c.dirty ∧ c.record then
    .next ((s.putCtx ctx { c with dirty := false }).qWrite 0 (c.image + 72) (leBytesOf 4 c.refused)).1
  else .next s

/-! ## The peer module (R445) -/

/-- R445. A peer's rein arrives: its payload, vector, target context and sending context. -/
def execPeerReinArrival (val : Nat) (s : State) : Out :=
  if s.pk.twin.state ≠ 2 then .next s
  else .next (s.routeSend (2 ^ 14 + bitsOf val 85 78) (bitsOf val 77 70) (bitsOf val 69 64) (val % 2 ^ 64)).1

/-- R445. The peer answers the send of issue stamp n. -/
def execPeerReinAnswer (n ok : Nat) (s : State) : Out :=
  match s.pk.peerSends.find? fun d => (d.w.map Prod.snd) == some n with
  | none => .next s
  | some d =>
    let s1 := { s with pk := { s.pk with peerSends := s.pk.peerSends.filter fun e => e.w != d.w } }
    match d.w with
    | some w => .next (s1.sendAnswer w (ok == 1))
    | none => .next s1

/-! ## Instructions (R213 to R216) -/

/-- R213, R354. Send a rein: a release at device scope, to a peer at fabric scope, answered by the router. -/
def execRsend (x : Body) (s : State) : Out :=
  run (.rsend x) s fun c s =>
    let t := c.sB s
    let route := bitsOf t 15 14
    let d : Dst := { cls := 2, base := c.b.d.toNat, cnt := 1 }
    let send : Send := { id := 2 ^ 15 + s.ctxNo c.x, vec := bitsOf t 13 8, ctx := t % 256, payload := c.sGroup s c.b.a.toNat 2
                         route := route, w := some (c.w, s.stamp), page := none }
    let s1 := (s.releaseEager (coreOf c.w) (if route = 1 then 6 else 4)).notDiscardable c.x.blk
    let send := { send with deps := s1.m.seenBy (coreOf c.w) }
    c.settled <| if route = 0 then .go { s := { s1 with wk := { s1.wk with sends := s1.wk.sends ++ [send] } }, work := some (.send d) }
    else if route = 1 ∧ s.pk.twin.state = 2 then
      .go { s := { s1 with pk := { s1.pk with peerSends := s1.pk.peerSends ++ [send] } }, work := some (.send d) }
    else .go { s := s1, work := some (.bound (kwriteAll d.base 0#32)) }

/-- A handler wave's context and first vector; any other wave raises REIN_PERM (R214). -/
def Issue.handler (c : Issue) (s : State) (f : Nat → Nat → Eff) : Eff :=
  match (s.block c.x.blk).bind fun b => b.rein.map fun v => (b.ctx, v) with
  | some p => f p.1 p.2
  | none => .raise .reinPerm c.con

/-- R214. Wait for a pending unmasked vector of the range. -/
def execRwait (x : Body) (s : State) : Out :=
  run (.rwait x) s fun c s => c.handler s fun ctx first =>
    match s.lowestVec ctx first true with
    | (s, some v) => .go { s := s, work := some (.bound (c.toSD v)) }
    | (s, none) => .go { s := s.modWave c.w fun x => x.park c.con s.stamp .rein, work := some (.park (some c.dstS)) }

/-- RTAKE clears a vector: the floor it held falls (R355). -/
def State.lowerFloor (s : State) (ctx v : Nat) : State :=
  let c := s.ctx ctx
  if c.raised.contains v then
    let left := c.raised.filter fun u => u != v
    let s1 := s.putCtx ctx { c with raised := left }
    if left.isEmpty then s1.setFloor ctx 0 false else s1
  else s

/-- The acquire of a claim: what happens before the sends that the vector holds (R354, R369). -/
def State.takeSent (s : State) (core ctx v : Nat) : State :=
  let c := s.ctx ctx
  (s.putCtx ctx { c with sent := mdel c.sent v }).acquireAt core 4 (cget c.sent v [])

/-- A pending vector is claimed: its payload, count and number (R215). One whose entry cannot be written is not claimed (log entry
33). -/
def State.claimVec (s : State) (core ctx v : Nat) : State × Nat :=
  match s.vecAt ctx v with
  | (s, some e) =>
    if e.pend then
      match s.putVec ctx v { e with payload := 0, count := 0, pend := false } with
      | (s, false) => (s, 0)
      | (s, true) => ((s.lowerFloor ctx v).takeSent core ctx v, e.payload + e.count * 2 ^ 64 + (2 ^ 31 + v) * 2 ^ 96)
    else (s, 0)
  | (s, none) => (s, 0)

/-- The result of a claim goes to four s registers. -/
def Issue.takeOut (c : Issue) (r : State × Nat) : Eff := .go { s := r.1, work := some (.bound (sWords c.b.d.toNat r.2 4)) }

/-- R215. Claim a named vector. -/
def execRtake (x : Body) (s : State) : Out :=
  run (.rtake x) s fun c s => c.handler s fun ctx first =>
    let v := (c.s s c.b.a.toNat).toNat
    if v < first ∨ first + 16 ≤ v then .raise .reinPerm c.con else c.takeOut (s.claimVec (coreOf c.w) ctx v)

/-- R215. Claim the lowest pending vector of the range. -/
def execRtakeAny (x : Body) (s : State) : Out :=
  run (.rtakeAny x) s fun c s => c.handler s fun ctx first =>
    match s.lowestVec ctx first false with
    | (s, some v) => c.takeOut (s.claimVec (coreOf c.w) ctx v)
    | (s, none) => c.takeOut (s, 0)

/-- Mask bits changed; a pending vector that becomes unmasked is notified as if just sent (R216, R355). -/
def maskEff (f : Bool → Bool → Bool) (c : Issue) (s : State) : Eff :=
  c.handler s fun ctx first =>
    let m := c.sA s
    .go { s := (List.range 16).foldl (fun s i =>
      match s.vecAt ctx (first + i) with
      | (s, some e) =>
        let new := f e.mask (m.testBit i)
        if new = e.mask then s
        else
          match s.putVec ctx (first + i) { e with mask := new } with
          | (s, true) => if e.pend && !new then s.reinNotify ctx (first + i) else s
          | (s, false) => s
      | (s, none) => s) s }

/-- R216. Mask the named vectors. -/
def execRmaskSet (x : Body) (s : State) : Out := run (.rmaskSet x) s (maskEff fun o b => o || b)

/-- R216. Unmask the named vectors. -/
def execRmaskClr (x : Body) (s : State) : Out := run (.rmaskClr x) s (maskEff fun o b => o && !b)

/-- R216. Write all 16 mask bits. -/
def execRmaskWr (x : Body) (s : State) : Out := run (.rmaskWr x) s (maskEff fun _ b => b)

end Sys2Proof.Machine
end

