-- ==== Sys2Proof/Machine/Save.lean ====
section
/-! DEFINITION. Save.lean: bind commands, pre-emption by save and by discard, restore (09 R237; 11 R262 to R268, R448; 18 R344
to R348). -/

namespace Sys2Proof.Machine

/-! ## Frames and trap queues (R258, R262, R263) -/

/-- Address of a wave's frame: its bind's save area, its block's save slot, its wave index (log entry 14). -/
def State.frameAddr (s : State) (x : Wave) : Nat :=
  match s.block x.blk with
  | some b => (((s.bind b.bind).map Bind.save).getD 0 + 0x1000 + 2 ^ 24 * b.saveNo + 128 * x.widx) % 2 ^ 64
  | none => 0

def State.sup (s : State) (core : Nat) : Sup := mgetD s.co.sups core {}

def State.putSup (s : State) (core : Nat) (u : Sup) : State := { s with co := { s.co with sups := mput s.co.sups core u } }

/-- A stop joins a queue: in stop order, and in ascending slot order among the stops of one clock. An entry of the same slot gives
way to it in its place, which is the model's choice (R262; log entry 35). -/
def addStop (q : List Stop) (e : Stop) : List Stop :=
  if q.any fun o => o.slot == e.slot then q.map fun o => if o.slot = e.slot then e else o
  else
    let before := q.takeWhile fun o => o.at' != e.at' || decide (o.slot < e.slot)
    before ++ e :: q.drop before.length

/-- A stop pushed into the core's queue, with the writes of its frame. -/
def State.pushStop (s : State) (w : Nat) (x : Wave) (wrote : List Nat) : State :=
  let u := s.sup (coreOf w)
  let e : Stop := { slot := slotOf w, frame := s.frameAddr x, blk := x.blk, ctx := s.ctxNo x, at' := s.clock
                    cause := (x.frame.map fun f => f.trap.cause.code).getD 0, deps := wrote }
  s.putSup (coreOf w) { u with queue := addStop u.queue e }

/-! ## Bind commands (R345) -/

/-- RUN, PAUSE and RESTORE: the state a command leads to, where it is accepted. -/
def Bind.ready (b : Bind) (now : Nat) : Bind := ({ b with state := 1, since := now, aged := 0 } : Bind).settle

/-- R345. -/
def execCmdRun (bind : Nat) (s : State) : Out :=
  let b := (s.bind bind).getD {}
  if b.state = 0 ∨ b.state = 2 ∨ b.state = 5 then .next (s.putBind bind (b.ready s.timeNs)) else .next s

/-- R345. -/
def execCmdPause (bind : Nat) (s : State) : Out :=
  let b := (s.bind bind).getD {}
  if b.state = 1 then .next (s.putBind bind { b with state := 2 }) else .next s

/-- R345. -/
def execCmdRestore (bind : Nat) (s : State) : Out :=
  let b := (s.bind bind).getD {}
  if b.state = 4 then .next (s.putBind bind (b.ready s.timeNs)) else .next s

/-- R344, R345. A command of no meaning is cleared without effect. -/
def execCmdUnassigned (_bind _code : Nat) (s : State) : Out := .next s

/-- Blocks of an item end without having run to their end (R285). -/
def State.endItems (s : State) (grid status n : Nat) : State :=
  match s.grid grid with
  | some g => (s.putGrid' grid { g with retired := g.retired + n, status := worseStatus g.status status }).settleGrid 65536 grid
  | none => s

/-- What a saved block still holds goes with it: its image, and its collectives. -/
def State.dropSaved (s : State) (img : Nat) : State :=
  { s with
    wk := { s.wk with saved := mdel s.wk.saved img }
    pk := { s.pk with colls := s.pk.colls.filter fun p => p.2.blk != img } }

/-- Every block of a bind ends ABORTED: the resident ones are torn down, the saved, the requeued and those not started go; the bind
is EMPTY, its record otherwise as it stood, and its rein floor goes with what it started (R345, R346; log entry 44). A SAVE that was
going on ends with it. -/
def State.abortBind (s : State) (key : Nat) : State :=
  let b := (s.bind key).getD {}
  let s := s.modBind key fun b => { b with state := 6 }
  let here := (s.wk.blocks.filter fun p => p.2.bind == key).map Prod.fst
  let saved := s.wk.saved.filter fun p => p.2.block.bind == key
  let s1 := here.foldl (fun s id => s.teardown id 0x82) s
  let s2 := saved.foldl (fun (s : State) p => ((s.dropSaved p.1).freeLanding p.2.block.landing).endItems p.2.block.grid 0x82 1) s1
  let s3 := b.requeue.foldl (fun (s : State) t => (s.freeLanding t.landing).endItems t.grid 0x82 1) s2
  let s4 := if b.src = 0 ∧ b.next < b.past then s3.endItems b.item 0x82 (b.past - b.next) else s3
  let s5 := if b.state = 3 then s4.clearSelect b else s4
  s5.modBind key fun b => { b with state := 0, run := 0, floor := 0, requeue := [] }

/-- R345. -/
def execCmdTeardown (bind : Nat) (s : State) : Out :=
  if ((s.bind bind).getD {}).state = 0 then .next s else .next (s.abortBind bind)

/-! ## Discard (R268) -/

/-- The copies of a block that are in flight complete. -/
def State.finishCopies (s : State) (id : Nat) (t : Block) : State :=
  t.cores.foldl (fun s core =>
    (s.ring id core).busy.foldl (fun s e =>
      if e.coll.isSome then s
      else match s.copyRest core t.ctx id e with | (s1, st) => s1.finishCopy core id e st) s) s

/-- A block is discarded: it goes without a report and waits to start again. -/
def State.discard (s : State) (id : Nat) (t : Block) : State :=
  let s1 := s.finishCopies id t
  let s2 := t.cores.foldl (fun s c => s.releaseEager c 4) (s1.removeWaves id)
  (s2.freeBlock id).modBind t.bind fun b => { b with requeue := b.requeue ++ [t] }

/-! ## Save (R265, R266) -/

/-- SELECT at the base of a bind's save area; none when it cannot be read. -/
def State.readSelect (s : State) (b : Bind) : State × Option Nat :=
  match s.devRead b.ctx b.save 8 with
  | (s, .ok bs) => (s, some (leVal bs))
  | (s, .error _) => (s, none)

/-- The blocks SELECT names: every resident block, one, or none. -/
def State.selected (s : State) (key : Nat) (sel : Option Nat) : List (Nat × Block) :=
  let mine := s.wk.blocks.filter fun p => p.2.bind == key && !p.2.saving
  match sel with
  | none => []
  | some v =>
    if v = 0 then mine
    else if v.testBit 63 ∧ bitsOf v 62 15 = 0 ∧ bitsOf v 7 6 = 0 then
      mine.filter fun p =>
        p.2.cores.head? == some (bitsOf v 14 8)
          && (s.waves.any fun w => w.2.blk == p.1 && w.2.widx == 0 && w.1 == 64 * bitsOf v 14 8 + v % 64)
    else []

/-- A block starts to be saved: its running waves stop issuing; those that a trap stopped stay as they are, and one that runs
for a STEP ends it first (R265, R275). -/
def State.beginSave (s : State) (id : Nat) : State :=
  ({ s with wk := { s.wk with blocks := mmod s.wk.blocks id fun b => { b with saving := true } } } : State).mapWaves fun _ x =>
    if x.blk = id ∧ x.run = .running ∧ x.hit.isNone ∧ !x.stepping then { x with run := .saving } else x

/-- SAVE with a value of SELECT: blocks that may be discarded are, the others begin their save. -/
def State.save (s : State) (key : Nat) (sel : Option Nat) : State :=
  let b := (s.bind key).getD {}
  let ts := s.selected key sel
  let s1 := s.putBind key { b with state := 3, back := if sel = some 0 then 4 else b.state }
  let s2 := ts.foldl (fun (s : State) p =>
    if b.disc ∧ p.2.idem ∧ p.2.discardable then s.discard p.1 p.2 else s.beginSave p.1) s1
  s2.saveEnds key

/-- R345, R268. -/
def execCmdSave (bind : Nat) (s : State) : Out :=
  let b := (s.bind bind).getD {}
  if b.state = 1 ∨ b.state = 2 then
    match s.readSelect b with
    | (s, sel) => .next (s.save bind sel)
  else .next s

/-- Whether the cluster is stopped for debug: then no block of it is saved (R265). -/
def State.clusterStopped (s : State) (q : Nat) : Bool := let d := s.dbg q; d.state != 0 || d.stepRun

/-- Nothing of a block, and nothing that acts on it, is still on its way (R265 steps 1 to 3, R266, R448, R449). -/
def State.quiet (s : State) (id : Nat) (t : Block) : Bool :=
  s.stilled id
    && (s.co.rings.all fun p => p.2.busy.all fun e => e.coll.isSome || !((s.block (p.1 / 128)).map Block.ctx == some t.ctx && e.windowed))

/-- The grids of a block drained in place (R237). -/
def State.drainGrids (s : State) (id : Nat) : State :=
  s.wk.hgrids.foldl (fun (s : State) p =>
    match p.2.lead with
    | some w => if p.2.blk = id ∧ p.2.state = 2 then s.drainGrid w p.1 (p.2.ops.length + 1) else s
    | none => s) s

/-- Registers of a wave, by 32·register + lane. -/
def regsOf {α : Type} (m : Map α) (w : Nat) (x : Wave) : Map α :=
  (x.gmap.zipIdx).flatMap fun g => (mslice m ((deviceRow w * 1024 + 8 * g.1) * 32) 256).map fun p => (256 * g.2 + p.1, p.2)

/-- A wave as it is saved (R192, R200, R267). -/
def Wave.saved (x : Wave) : Wave :=
  { (x.mapLanes fun _ y => { y with neglect := 0 }) with
    txn := x.txn.lose, mon := { x.mon with line := none, event := false, resumed := x.mon.resumed || x.mon.line.isSome }
    run := if x.trapped then .stopped else .running, hit := none, stepping := false }

/-- The position of a core in a block's core set. -/
def Block.pos (t : Block) (core : Nat) : Nat := t.cores.idxOf core

/-- A grid as it is saved: the rows of a cut HMMA that have not entered are gathered anew after the restore (R237). -/
def HGrid.saved (h : HGrid) (widx : Nat → Nat) : HGrid :=
  { h with signed := h.signed.map widx, lead := h.lead.map widx, ops := h.ops.map fun o => { o with ahead := o.done } }

/-- The image of a block whose save has come to rest (R265 step 4). A query whose node is read in part reads it anew (R308, R316). -/
def State.imageOf (s : State) (id : Nat) (t : Block) : Saved :=
  let ws := s.waves.filter fun p => p.2.blk == id
  let widx := fun w => ((s.wave w).map Wave.widx).getD 0
  let q := clusterOf (t.cores.headD 0)
  { block := { t with saving := false }
    waves := ws.map fun p => (64 * t.pos (coreOf p.1) + slotOf p.1, p.2.saved)
    regs := ws.map fun p => (regsOf s.co.rf p.1 p.2, regsOf s.co.rfBad p.1 p.2)
    sp := t.sp.map fun r => (mslice s.co.sp (2 ^ 18 * r.1 + r.2.1) r.2.2, mslice s.co.spBad ((2 ^ 18 * r.1 + r.2.1) / 2) (r.2.2 / 2))
    bars := (s.co.bars.filterMap fun p =>
        if p.1 % 2 = 0 ∧ p.1 / 2 / 1024 / 128 = id then some (t.pos (p.1 / 2 / 1024 % 128), p.1 / 2 % 1024, p.2) else none)
      ++ (List.range t.cn).filterMap fun j => (mget s.co.bars (2 * (64 * q + t.cb + j) + 1)).map fun b => (0, 0x400 + j, b)
    sems := t.cores.flatMap fun c => (List.range t.sems).map fun i => (t.pos c, i, cget s.co.sems (semKeyOf id c i) 0#32)
    rings := t.cores.filterMap fun c => (mget s.co.rings (ringKey id c)).map fun r => (t.pos c, r)
    tbls := s.co.tbls.filterMap fun p => if p.2.blk = id then some (t.pos (p.1 / 8), p.2) else none
    grids := s.wk.hgrids.filterMap fun p =>
      if p.2.state ≠ 0 ∧ p.2.blk = id then some (p.1 % 16, p.2.saved widx) else none
    queries := (s.wk.queries.filter fun p => p.2.blk == id).map fun p => (p.1 % 64, { p.2 with wave := 64 * t.pos (coreOf p.2.wave), units := [] })
    rels := t.sp.map fun r => mslice s.co.spRels (2 ^ 18 * r.1 + r.2.1) r.2.2
    deps := t.cores.foldl (fun a c => (s.m.seenBy c).foldl ladd a) [] }

/-- The block leaves its cluster; its collectives stay its own. -/
def State.unplace (s : State) (id : Nat) : State :=
  let s1 : State := { s.dropStops id with
    waves := s.waves.filter fun p => p.2.blk != id
    wk := { s.wk with hgrids := s.wk.hgrids.filter fun p => !(p.2.state != 0 && p.2.blk == id) } }
  s1.freeBlock id

/-- R265, R266. The image of a block is written, and everything the block held is freed. -/
def execSaveImageWrite (blk : Nat) (s : State) : Out :=
  match s.block blk with
  | some t =>
    if !t.saving ∨ s.clusterStopped (clusterOf (t.cores.headD 0)) ∨ !s.quiet blk t then .next s
    else
      let s1 := s.drainGrids blk
      let s2 := t.cores.foldl (fun s c => s.releaseEager c 4) s1
      let v := s2.imageOf blk t
      let s3 := s2.unplace blk
      .next (({ s3 with wk := { s3.wk with saved := mput s3.wk.saved blk v } } : State).saveEnds t.bind)
  | none => .next s

/-! ## Restore (R237, R267) -/

/-- Keys of a saved block's barriers and semaphores on its new cores. -/
def remapKey (id : Nat) (old new : List Nat) (k per : Nat) : Nat :=
  if k / per / 128 = id then (id * 128 + new.getD (old.idxOf (k / per % 128)) 0) * per + k % per else k

def remapBar (id q : Nat) (t : Block) (new : List Nat) (key : Nat) : Nat :=
  if key % 2 = 0 then 2 * remapKey id t.cores new (key / 2) 1024
  else 2 * (64 * q + key / 2 % 64) + 1

/-- What a restored wave waits for, under its new names. -/
def remapPark (id q : Nat) (t : Block) (new : List Nat) : ParkKind → ParkKind
  | .bar k ph => .bar (remapBar id q t new k) ph
  | .sem k th => .sem (remapKey id t.cores new k 64) th
  | .mon u => .mon u
  | .rein => .rein
  | .muster g => .muster (16 * q + g % 16)

def remapWork (q : Nat) : Work → Work
  | .hmma g => .hmma (16 * q + g % 16)
  | .hrel g => .hrel (16 * q + g % 16)
  | .grid g ws t => .grid (16 * q + g % 16) ws t
  | k => k

/-- A wave as it is restored (R66, R267). -/
def Wave.restored (x : Wave) (id q : Nat) (t : Block) (new gmap : List Nat) (clock : Nat) : Wave :=
  let pend := x.pend.map fun (p : Pend) => { p with work := remapWork q p.work }
  let d := (List.range 6).map fun i => (pend.filter fun p => p.slot == i + 1).length
  { x with
    gmap := gmap, pend := pend, d := d, dwas := d, next := clock
    parks := x.parks.map fun p => { p with kind := remapPark id q t new p.kind }
    arrivals := (x.arrivals.map fun p => (arrKey (remapBar id q t new (p.1 / 32)) (p.1 % 32), p.2)).foldl (fun m p => mput m p.1 p.2) [] }

/-- Registers of a saved wave written under its new granules. -/
def putRegs {α : Type} (m : Map α) (w : Nat) (gmap : List Nat) (r : Map α) : Map α :=
  r.foldl (fun m p => mput m ((deviceRow w * 1024 + 8 * gmap.getD (p.1 / 256) 0) * 32 + p.1 % 256) p.2) m

/-- One wave reinstated. -/
def State.putBack (s : State) (id q : Nat) (t : Block) (new : List Nat) (a : Wave × (Map Word × Map Nat) × Nat × List Nat) : State :=
  let w := a.2.2.1
  let gs := a.2.2.2
  let s1 := s.zeroGranules (deviceRow w) gs
  let x := a.1.restored id q t new gs s.clock
  ({ s1 with co := { s1.co with rf := putRegs s1.co.rf w gs a.2.1.1, rfBad := putRegs s1.co.rfBad w gs a.2.1.2 } } : State).putWave w x

/-- A region reinstated, with the releases that its bytes carry. -/
def State.putRegion (s : State) (a : ((Map Byte × Map Bool) × Map (List Rel)) × Nat × Nat × Nat) : State :=
  let base := 2 ^ 18 * a.2.1 + a.2.2.1
  let s1 := s.clearRegion a.2.1 a.2.2.1 a.2.2.2
  { s1 with co := { s1.co with
      sp := a.1.1.1.foldl (fun m p => mput m (base + p.1) p.2) s1.co.sp
      spBad := a.1.1.2.foldl (fun m p => mput m (base / 2 + p.1) p.2) s1.co.spBad
      spRels := a.1.2.foldl (fun m p => mput m (base + p.1) p.2) s1.co.spRels } }

/-- Per-core state of the block reinstated: barriers, semaphores, rings, table pairs. -/
def State.putUnits (s : State) (id q : Nat) (t : Block) (v : Saved) (new : List Nat) : State :=
  let core := fun pos => new.getD pos 0
  let s1 := v.bars.foldl (fun (s : State) b =>
    s.putBar (if b.2.1 ≥ 0x400 then 2 * (64 * q + t.cb + (b.2.1 - 0x400)) + 1 else 2 * ((id * 128 + core b.1) * 1024 + b.2.1)) b.2.2) s
  let s2 := v.rings.foldl (fun (s : State) r => s.putRing id (core r.1) r.2) s1
  let s3 := v.tbls.foldl (fun (s : State) r =>
    match s.freeTable (core r.1) with
    | some i => { s with co := { s.co with tbls := mput s.co.tbls (8 * core r.1 + i) r.2 } }
    | none => s) s2
  v.sems.foldl (fun (s : State) b => s.setSem (semKeyOf id (core b.1) b.2.1) b.2.2.toNat) s3

/-- The grids rebuilt on their new rows for the bind that restores them (R219, R237). -/
def State.putGrids (s : State) (key q : Nat) (v : Saved) (p : Spot) : State :=
  let place := (v.waves.map fun x => x.2.widx).zip (p.waves.map Prod.fst)
  let wave := fun i => ((place.find? fun a => a.1 == i).map Prod.snd).getD 0
  v.grids.foldl (fun (s : State) g =>
    match p.grids.find? fun a => a.1 == g.1 with
    | some (j, base, gs) => s.putGrid (16 * q + j) { g.2 with bslot := key % 256, base := base, granules := gs, signed := g.2.signed.map wave, lead := g.2.lead.map wave }
    | none => s) s

/-- The queries of a saved block in their slots again, each on the core of its place, with the next generation of each slot after theirs
(R314, R316; log entry 43). -/
def State.putQueries (s : State) (q : Nat) (v : Saved) (p : Spot) : State :=
  v.queries.foldl (fun (s : State) y =>
    let x : Query := { y.2 with wave := 64 * p.cores.getD (y.2.wave / 64) 0, hgrid := 16 * q + y.2.hgrid % 16 }
    { s with wk := { s.wk with queries := mput s.wk.queries (64 * q + y.1) x, qgen := mput s.wk.qgen (64 * q + y.1) ((x.gen + 1) % 1024) } }) s

/-- The blocks of a bind count where they run: one restored by another bind is counted there (R344; log entry 44). -/
def State.moveRun (s : State) (old key : Nat) : State :=
  if old = key then s else (s.modBind old fun b => { b with run := b.run - 1 }).modBind key fun b => { b with run := b.run + 1 }

/-- A saved block reinstated by a bind on a placement. -/
def State.restore (s : State) (key img q : Nat) (v : Saved) (p : Spot) : State :=
  let t := v.block
  let t' := { t with bind := key, cores := p.cores, sp := p.regions }
  let s := s.moveRun t.bind key
  let s1 : State := { s with wk := { s.wk with saved := mdel s.wk.saved img, blocks := mput s.wk.blocks img t' } }
  let s2 := ((v.sp.zipIdx.map fun r => (r.1, v.rels.getD r.2 [])).zip p.regions).foldl (fun s a => s.putRegion a) s1
  let s3 := s2.clearBars q t.cb t.cn
  let s4 := (((v.waves.map Prod.snd).zip v.regs).zip p.waves).foldl (fun (s : State) a => s.putBack img q t p.cores (a.1.1, a.1.2, a.2)) s3
  let s5 := (s4.putGrids key q v p).putUnits img q t v p.cores
  let s6 : State := { s5.putQueries q v p with
    pk := { s5.pk with colls := s5.pk.colls.map fun y => if y.2.blk = img then (y.1, { y.2 with core := p.cores.getD (t.pos y.2.core) 0 }) else y } }
  let s7 := p.cores.foldl (fun s c => s.acquireAt c 4 v.deps) s6
  let s8 := p.waves.foldl (fun (s : State) a => match s.wave a.1 with | some x => if x.run = .stopped then s.pushStop a.1 x [] else s | none => s) s7
  match t.rein with
  | some first => s8.wakeReins t.ctx first
  | none => s8

/-- R267, R347. The saved block whose turn it is on a cluster is placed and reinstated. -/
def execBlockRestore (img cluster : Nat) (s : State) : Out :=
  match s.turn cluster with
  | some (key, b, .saved i v, p) =>
    if i ≠ img then .next s else .next ((s.restore key img cluster v p).bindStarted key cluster b.eff b.ctx)
  | _ => .next s

/-! ## Pre-emption and aging (R346, R348) -/

/-- The first of two victims: the lower priority, then the most recently started. -/
def firstVictim (a b : Nat × Block) : Nat × Block :=
  if a.2.prio < b.2.prio then a
  else if b.2.prio < a.2.prio then b
  else if b.2.started < a.2.started ∨ (b.2.started = a.2.started ∧ b.1 < a.1) then a else b

/-- The next victim for a candidate (R348). -/
def State.victim (s : State) (q key e : Nat) : Option (Nat × Block) :=
  let vs := s.wk.blocks.filter fun p =>
    clusterOf (p.2.cores.headD 0) == q && p.2.bind != key && !p.2.saving && decide (p.2.prio + 16 ≤ e)
      && (s.waves.any fun w => w.2.blk == p.1 && w.2.widx == 0)
      && (match s.bind p.2.bind with | some b => b.state == 1 || b.state == 2 | none => false)
  match vs with
  | [] => none
  | v :: r => some (r.foldl firstVictim v)

/-- R348. The management core names a victim in its bind's SELECT word and orders its SAVE. -/
def execPreemption (bind : Nat) (s : State) : Out :=
  match s.bind bind with
  | none => .next s
  | some b =>
    let q := b.cluster bind
    match s.candidates q with
    | [] => .next s
    | c :: _ =>
      if c.1 ≠ bind ∨ (s.spotOf q c).isSome ∨ (s.wk.blocks.any fun p => clusterOf (p.2.cores.headD 0) == q && p.2.saving) then .next s
      else
        match s.victim q bind c.2.eff with
        | none => .next s
        | some (id, t) =>
          let slot := ((s.waves.find? fun w => w.2.blk == id && w.2.widx == 0).map fun w => slotOf w.1).getD 0
          let sel := 2 ^ 63 + t.cores.headD 0 * 2 ^ 8 + slot
          let vb := (s.bind t.bind).getD {}
          match s.devWrite vb.ctx vb.save (leBytesOf 8 sel) with
          | (s, true) =>
            match s.readSelect vb with
            | (s, sel) => .next (s.save t.bind sel)
          | (s, false) => .next s

/-- The aging steps that a waiting bind has earned (R346). -/
def Bind.agingDue (b : Bind) (now : Nat) : Bool :=
  b.state == 1 && b.age != 0 && decide (b.aged < (now - b.since) / 1000 / b.age) && decide (b.prio + b.aged < max b.cap b.prio)

/-- R346. The effective priority of a READY bind rises by one step. -/
def execPriorityAgingStep (bind : Nat) (s : State) : Out :=
  match s.bind bind with
  | some b => if b.agingDue s.timeNs then .next (s.putBind bind { b with aged := b.aged + 1 }) else .next s
  | none => .next s

end Sys2Proof.Machine
end

