-- ==== Sys2Proof/Machine/Host.lean ====
section
/-! DEFINITION. Host.lean: doorbells, host command queues and their commands, contexts, bias flips, and the host's data
accesses (18 R350 to R352; 21 R393 to R401). -/

namespace Sys2Proof.Machine

/-! ## Doorbells (R395 to R397) -/

/-- DEVREADY (R413). -/
def State.devReady (s : State) : Bool := s.pk.topo.status.testBit 0

def State.modHq (s : State) (hq : Nat) (f : HostQ → HostQ) : State := { s with wk := { s.wk with hqs := mmod s.wk.hqs hq f } }

/-- A page that takes writes: the device is ready and the page's queue is configured. -/
def State.openPage (s : State) (page : Nat) : Option HostQ :=
  if s.devReady then (mget s.wk.hqs page).bind fun q => if q.conf then some q else none else none

/-- R350, R395, R397. A new tail count: the commands it starts acquire what the host had written before it. -/
def execDoorbellTail (page val : Nat) (s : State) : Out :=
  match s.openPage page with
  | some _ => .next (s.modHq page fun q => { q with tail := val % 2 ^ 32, deps := s.m.seenBy hostAgent })
  | none => .next s

/-- R395, R396. One rein with RPAY; one whose ROUTE is not 0, or from a page that is not valid, is refused. -/
def execDoorbellRsend (page val : Nat) (s : State) : Out :=
  match s.openPage page with
  | none => .next s
  | some q =>
    let n := q.sends + 1
    let s1 := s.modHq page fun q => { q with sends := n }
    if bitsOf val 15 14 ≠ 0 ∨ !q.valid then .next ((s1.countRefused (val % 256)).pageResult page n false)
    else
      let d : Send := { id := q.dbsender % 2 ^ 14, vec := bitsOf val 13 8, ctx := val % 256, payload := q.rpay, route := 0, w := none
                        page := some page, seq := n, deps := s.m.seenBy hostAgent }
      .next { s1 with wk := { s1.wk with sends := s1.wk.sends ++ [d] } }

/-- R395, R396. Writing 1 arms the queue's vector once. -/
def execDoorbellIrqArm (page val : Nat) (s : State) : Out :=
  match s.openPage page with
  | some _ => .next (if val = 1 then s.modHq page fun q => { q with armed := true } else s)
  | none => .next s

/-! ## Commands (R350, R351) -/

def cmdOpc (bs : List Byte) : Nat := fieldOf bs 0 1

/-- Whether bytes i to j − 1 are 0. -/
def zeroes (bs : List Byte) (i j : Nat) : Bool := fieldOf bs i (j - i) == 0

/-- A command whose fields lie in their ranges and whose reserved bytes are 0. -/
def State.cmdOk (s : State) (bs : List Byte) : Bool :=
  decide (fieldOf bs 1 1 < 2) && zeroes bs 4 8 && fieldOf bs 8 8 % 8 == 0 &&
    match cmdOpc bs with
    | 1 => badLaunchBody (bs.drop 16) == none && zeroes bs 41 64
    | 2 => zeroes bs 48 64
    | 3 => fieldOf bs 16 8 % 8 == 0 && decide (fieldOf bs 32 1 < 2) && (fieldOf bs 33 1 == 5 || fieldOf bs 33 1 == 6) && zeroes bs 34 64
    | 4 => fieldOf bs 16 8 % 8 == 0 && decide (fieldOf bs 32 1 < 2) && zeroes bs 33 36 && zeroes bs 40 64
    | 5 =>
      (if fieldOf bs 25 1 = 2 then decide (4 ≤ fieldOf bs 26 2) && decide (fieldOf bs 26 2 ≤ 16) && decide (fieldOf bs 28 1 < 4)
       else decide (fieldOf bs 25 1 < 2) && zeroes bs 26 29) && zeroes bs 29 64
    | 6 =>
      fieldOf bs 16 8 % 1024 == 0 && (s.ctx (fieldOf bs 24 1)).record && zeroes bs 26 32 && zeroes bs 36 40 && zeroes bs 48 64
        && (decide (fieldOf bs 25 1 < 32) || (fieldOf bs 25 1 == 0xFF && zeroes bs 32 48))
    | 7 =>
      let a := fieldOf bs 16 8
      let n := fieldOf bs 24 4
      a % 65536 == 0 && decide (1 ≤ n) && decide (n ≤ 2 ^ 24) && decide (s.pk.topo.mbase ≤ a)
        && decide (a + 65536 * n ≤ s.pk.topo.mbase + s.pk.topo.memsize) && decide (fieldOf bs 28 1 < 2) && zeroes bs 29 64
    | 8 => (fieldOf bs 16 1 == 5 || fieldOf bs 16 1 == 6) && zeroes bs 17 64
    | _ => false

/-- Commands that the tail has made visible and that have not started (R350). -/
def HostQ.open' (q : HostQ) : Bool :=
  q.conf && decide (q.started < q.completed + min ((q.tail + 2 ^ 32 - q.completed % 2 ^ 32) % 2 ^ 32) (2 ^ q.k))

/-- The next command of a queue, when it may start: its number and bytes. One with ORD waits for the earlier ones to complete. -/
def State.nextCmd (s : State) (hq : Nat) : State × Option (Nat × List Byte) :=
  match mget s.wk.hqs hq with
  | none => (s, none)
  | some q =>
    if !q.open' then (s, none)
    else
      match s.qRead q.ctx (q.base + 64 * (q.started % 2 ^ q.k)) 64 with
      | (s, .error _) => (s, none)
      | (s, .ok bs) =>
        if !q.busy.isEmpty ∧ (fieldOf bs 1 1).testBit 0 then (s, none) else (s, some (q.started, bs))

/-- A command starts. -/
def State.startCmd (s : State) (hq idx : Nat) (bs : List Byte) : State :=
  s.modHq hq fun q => { q with started := q.started + 1, busy := q.busy ++ [{ idx := idx, bytes := bs, at' := s.timeNs }] }

/-- The mould of the command events: the next command of the queue starts when it is the one named and is well formed;
`f` gives its effect from its queue, its number and its bytes. -/
def State.runCmd (s : State) (hq : Nat) (is : List Byte → Bool) (f : State → HostQ → Nat → List Byte → State) : Out :=
  match s.nextCmd hq with
  | (s, none) => .next s
  | (s, some (idx, bs)) =>
    match mget s.wk.hqs hq with
    | some q => if s.cmdOk bs && is bs then .next (f (s.startCmd hq idx bs) q idx bs) else .next s
    | none => .next s

/-- A command that only queue 0 may give (R351). -/
def State.ownOnly (s : State) (hq idx : Nat) (f : State) : State := if hq = 0 then f else s.hostDone hq idx 0x89

/-- A status the spec does not state: a free value (log entry 23). -/
def State.openDone (s : State) (hq idx : Nat) : State := s.bump.hostDone hq idx (Config.openValue s.free % 256)

/-- R351. A command with an unassigned code, a nonzero reserved byte or a field outside its range. -/
def execBadCommand (hq : Nat) (s : State) : Out :=
  match s.nextCmd hq with
  | (s, some (idx, bs)) => if s.cmdOk bs then .next s else .next ((s.startCmd hq idx bs).hostDone hq idx 0x87)
  | (s, none) => .next s

/-- R293, R294, R351. A grid starts at depth 0. No block issues the launch, so a priority to inherit is open (log entry
23). -/
def execHostLaunch (hq : Nat) (s : State) : Out :=
  s.runCmd hq (fun bs => cmdOpc bs == 1) fun s q idx bs =>
    let g := launchGrid q.ctx q.die (Config.openValue s.free % 128) 0 [] (bs.drop 16) [] (s.ctx q.ctx).cap
    ((s.bump).newGrid { g with host := some (hq, idx), child := false, deps := q.deps }).1

/-- R203. Bits of an entry that are reserved. -/
def Copy.reserved (e : Copy) : Bool := bitsOf (e.word 0) 31 27 != 0 || bitsOf (e.word 0) 15 10 != 0 || e.word 7 / 65536 != 0

/-- Whether an address, with the n bytes from it on, meets the window range. -/
def meetsWindow (a n : Nat) : Bool := decide (a < windowBase + 0x20000000) && decide (windowBase < a + max n 1)

/-- The STATUS with which a host's copy entry fails before it moves anything (R351); 1 for none. -/
def Copy.hostCheck (e : Copy) : Nat :=
  if e.opc ≠ 1 ∧ e.opc ≠ 2 then 0x81
  else if e.shape ∨ e.sem ∨ e.reserved ∨ e.scope = 7 ∨ (e.opc = 2 ∧ e.len % 4 ≠ 0) then 0x82
  else if (e.opc = 1 ∧ meetsWindow e.src e.len) ∨ meetsWindow e.dst e.len then 0x87
  else if e.rcode ≠ 0 then 0x84
  else 1

/-- R351. One copy entry in the queue's context, moved by the first core's path of the queue's die. -/
def execHostCopy (hq : Nat) (s : State) : Out :=
  s.runCmd hq (fun bs => cmdOpc bs == 2) fun s q idx bs =>
    let e : Copy := { idx := idx, fields := (List.range 8).map fun i => fieldOf bs (16 + 4 * i) 4, status := 1, cut := s.free, coll := none, pub := 0 }
    let core := 32 * q.die
    let r := if e.hostCheck = 1 then (s.bump.acquireAt core 5 q.deps).copyRest core q.ctx 0 e else (s, e.hostCheck)
    let s1 := r.1.releaseEager core 5
    s1.hostDone hq idx (if r.2 = 1 then 1 + 2 ^ 8 else 0x8B + r.2 * 2 ^ 8) { core := core, deps := s1.m.seenBy core }

/-- What a command of a queue releases: what the host had written before its doorbell, and what its waits have acquired. -/
def HostQ.release (q : HostQ) (scope : Nat) : List Rel := [{ core := hostAgent, scope := scope, deps := q.deps, lazy := false }]

/-- The releases that a read of 8 bytes of a queue's context returns (R366). -/
def State.qRels (s : State) (ctx va : Nat) : List Rel :=
  match (s.translateRun 0 ctx .load 9 va 8).2 with
  | .ok rs => s.m.relsAt (rs.flatMap fun r => (List.range r.2).map (r.1 + ·))
  | .error _ => []

/-- R351. A value written with a store-release. -/
def execHostSignalWrite (hq : Nat) (s : State) : Out :=
  s.runCmd hq (fun bs => cmdOpc bs == 3 && fieldOf bs 32 1 == 0) fun s q idx bs =>
    match (s.pushDown 5 fun _ => true).qWrite q.ctx (fieldOf bs 16 8) (leBytesOf 8 (fieldOf bs 24 8)) (q.release (fieldOf bs 33 1)) with
    | (s, true) => s.hostDone hq idx 1
    | (s, false) => s.openDone hq idx

/-- R351. An atomic addition followed by a release. -/
def execHostSignalAdd (hq : Nat) (s : State) : Out :=
  s.runCmd hq (fun bs => cmdOpc bs == 3 && fieldOf bs 32 1 == 1) fun s q idx bs =>
    let a := fieldOf bs 16 8
    match s.qRead q.ctx a 8 with
    | (s, .error _) => s.openDone hq idx
    | (s, .ok old) =>
      if s.devPoisoned q.ctx a 8 then s.openDone hq idx
      else
        match s.qWrite q.ctx a (leBytesOf 8 (leVal old + fieldOf bs 24 8)) (joinRels (s.qRels q.ctx a) (q.release (fieldOf bs 33 1))) with
        | (s, true) => (s.pushDown 5 fun _ => true).hostDone hq idx 1
        | (s, false) => s.openDone hq idx

/-- WAIT's condition (R351): reached modulo 2^64 as in R199, or equal. -/
def waitHolds (bs : List Byte) (v : Nat) : Bool :=
  let t := fieldOf bs 24 8
  if fieldOf bs 32 1 = 0 then decide ((v + 2 ^ 64 - t) % 2 ^ 64 < 2 ^ 63) else v == t

/-- The read of a WAIT whose condition holds is an acquire at system scope for the commands after it (R351). -/
def State.waitSees (s : State) (hq va : Nat) : State :=
  let q := mgetD s.wk.hqs hq {}
  let rs := (s.qRels q.ctx va).filter fun r => scopeHolds r.scope r.core hostAgent
  s.modHq hq fun q => { q with deps := rs.foldl (fun a r => r.deps.foldl ladd a) q.deps }

/-- The commands that wait, oldest first: the first whose condition holds completes; whether one did. -/
def State.tryWaits (s : State) (hq : Nat) : List Cmd → State × Bool
  | [] => (s, false)
  | c :: cs =>
    if cmdOpc c.bytes ≠ 4 then s.tryWaits hq cs
    else
      match s.qRead ((mgetD s.wk.hqs hq {}).ctx) (fieldOf c.bytes 16 8) 8 with
      | (s, .error _) => (s.openDone hq c.idx, true)
      | (s, .ok v) => if waitHolds c.bytes (leVal v) then ((s.waitSees hq (fieldOf c.bytes 16 8)).hostDone hq c.idx 1, true) else s.tryWaits hq cs

/-- R351. A command that waits completes; else the next command of the queue, a WAIT, starts. -/
def execHostWait (hq : Nat) (s : State) : Out :=
  match s.tryWaits hq (mgetD s.wk.hqs hq {}).busy with
  | (s, true) => .next s
  | (s, false) =>
    s.runCmd hq (fun bs => cmdOpc bs == 4) fun s _ idx bs => (s.tryWaits hq [{ idx := idx, bytes := bs, at' := 0 }]).1

/-- R351. The timeout of a WAIT expires. -/
def execHostWaitTimeout (hq : Nat) (s : State) : Out :=
  match (mgetD s.wk.hqs hq {}).busy.find? fun c =>
      cmdOpc c.bytes == 4 && fieldOf c.bytes 36 4 != 0 && decide (c.at' + 1000 * fieldOf c.bytes 36 4 ≤ s.timeNs) with
  | some c => .next (s.hostDone hq c.idx 0x88)
  | none => .next s

/-- A FENCE that no earlier command of its queue stands before completes with a release at its scope; whether one did (R351). -/
def State.tryFence (s : State) (hq : Nat) : State × Bool :=
  match (mgetD s.wk.hqs hq {}).busy with
  | [] => (s, false)
  | c :: _ => if cmdOpc c.bytes = 8 then ((s.pushDown 5 fun _ => true).hostDone hq c.idx 1, true) else (s, false)

/-- R351. A FENCE whose earlier commands have all completed completes; else the next command of the queue, a FENCE, starts. -/
def execHostFence (hq : Nat) (s : State) : Out :=
  match s.tryFence hq with
  | (s, true) => .next s
  | (s, false) => s.runCmd hq (fun bs => cmdOpc bs == 8) fun s _ _ _ => (s.tryFence hq).1

/-! ## Contexts (R352, R403) -/

/-- A permission entry from its 16 bytes. -/
def parsePerm (bs : List Byte) : Perm := { idbase := fieldOf bs 0 2, idmask := fieldOf bs 2 2, vecmap := fieldOf bs 8 8 }

/-- The 32 permission entries of an image. -/
def parsePerms (bs : List Byte) : List Perm := (List.range 32).map fun e => parsePerm (bs.drop (128 + 16 * e))

/-- A record's reserved bits are 0 and its translation is enabled (R352, R403). -/
def ctxOk (bs : List Byte) : Bool :=
  fieldOf bs 0 8 % 1024 == 0 && decide (fieldOf bs 48 4 < 2 ^ 20) && fieldOf bs 52 1 == 1 && zeroes bs 53 64
    && decide (fieldOf bs 68 1 < 16) && zeroes bs 70 72 && zeroes bs 76 128
    && (List.range 32).all fun e => zeroes bs (132 + 16 * e) (136 + 16 * e)

/-- A context record from its image. -/
def parseCtx (at' : Nat) (bs : List Byte) : Ctx :=
  let m := fieldOf bs 68 1
  { valid := m.testBit 1, reinblk := fieldOf bs 0 8, handler := fieldOf bs 8 8, hkd := (List.range 4).map fun g => fieldOf bs (16 + 8 * g) 8
    pasid := fieldOf bs 48 4, age := fieldOf bs 64 2, cap := fieldOf bs 66 1, hprio := fieldOf bs 67 1, skid := m.testBit 0
    home := bitsOf m 3 2, pol := fieldOf bs 69 1, refused := fieldOf bs 72 4, perms := parsePerms bs, image := at', record := true }

/-- R352. A context record comes into force; a handler wave that waits on a vector that is now pending and unmasked wakes (R214). -/
def execCtxcfgInstall (hq : Nat) (s : State) : Out :=
  s.runCmd hq (fun bs => cmdOpc bs == 5 && fieldOf bs 25 1 == 0) fun s q idx bs =>
    s.ownOnly hq idx <|
      match s.qRead q.ctx (fieldOf bs 16 8) 640 with
      | (s, .error _) => s.openDone hq idx
      | (s, .ok img) =>
        if !ctxOk img then s.hostDone hq idx 0x87
        else
          let n := fieldOf bs 24 1
          let old := s.ctx n
          let s1 := s.putCtx n { parseCtx (fieldOf bs 16 8) img with launched := old.launched, raised := old.raised, sent := old.sent }
          s1.wakeParked.hostDone hq idx 1

/-- Records that a queue's ring still holds end with a status (R286). -/
def State.endRing (s : State) (n status : Nat) : Nat → State
  | 0 => s
  | fuel + 1 =>
    match mget s.wk.tqs n with
    | none => s
    | some t =>
      if t.ringed = 0 then s
      else
        let s1 := match s.devRead t.ctx (t.at' t.rhead) 64 with
          | (s, .ok bs) => s.report t.ctx (trailerOf bs) status (.queue n)
          | (s, .error _) => s.countFail (.queue n)
        (s1.putTq n { (mget s1.wk.tqs n).getD t with rhead := (t.rhead + 1) % 65536 }).endRing n status fuel

/-- Every record a queue holds ends with a status (R285, R299). -/
def State.endQueue (s : State) (n status : Nat) : State :=
  match mget s.wk.tqs n with
  | none => s
  | some t =>
    let s1 := t.held.foldl (fun s r => s.report t.ctx (trailerOf r.bytes) status (.queue n)) s
    let s2 := s1.putTq n { (mget s1.wk.tqs n).getD t with held := [] }
    s2.endRing n status 65536

/-- Every record a bin holds ends with a status; its emitter loses a child (R285, R293, R299). -/
def State.endBin (s : State) (n status : Nat) : State :=
  match mget s.wk.nbins n with
  | none => s
  | some b =>
    let s1 := b.held.foldl (fun s r =>
      s.report b.ctx (if b.trl then trailerOf r.bytes else (0, 0, 0)) status (.bin n)) s
    let s2 := s1.putBin n { (mget s1.wk.nbins n).getD b with held := [], fired := false, trun := false }
    b.held.foldl (fun s r => s.dropKids [r.emitter]) s2

/-- Commands of a queue that have started or that its tail has made visible end ABORTED (R285). -/
def State.endCmds (s : State) (hq : Nat) : Nat → State
  | 0 => s
  | fuel + 1 =>
    match mget s.wk.hqs hq with
    | none => s
    | some q =>
      match q.busy with
      | c :: _ => (s.hostDone hq c.idx 0x82).endCmds hq fuel
      | [] =>
        if !q.open' then s
        else
          match s.qRead q.ctx (q.base + 64 * (q.started % 2 ^ q.k)) 64 with
          | (s, .ok bs) => ((s.startCmd hq q.started bs).hostDone hq q.started 0x82).endCmds hq fuel
          | (s, .error _) => (s.modHq hq fun q => { q with started := q.started + 1, completed := q.completed + 1 }).endCmds hq fuel

/-- Everything of a context ends ABORTED, its handlers with it, and the context is no longer in force (R264, R345, R299, R352, R442). -/
def State.endCtx (s : State) (n : Nat) : State :=
  let keys := fun {α : Type} (m : Map α) (p : α → Bool) => (m.filter fun x => p x.2).map Prod.fst
  let s1 := (keys s.wk.binds fun b => b.ctx == n && b.state != 0).foldl (fun s k => s.abortBind k) s
  let s2 := (keys s1.wk.tqs fun t => t.ctx == n).foldl (fun s k => s.endQueue k 0x82) s1
  let s3 := (keys s2.wk.nbins fun b => b.ctx == n).foldl (fun s k => s.endBin k 0x82) s2
  let s4 := (keys s3.wk.grids fun g => g.ctx == n).foldl (fun (s : State) g =>
    match s.grid g with | some x => s.endItems g 0x82 (x.total - x.retired) | none => s) s3
  let s5 := (keys s4.wk.hqs fun q => q.ctx == n && q.conf).foldl (fun (s : State) k =>
    if k = 0 then s else (s.endCmds k (2 ^ 18)).modHq k fun q => { q with conf := false }) s4
  let c := s5.ctx n
  let s6 := if c.record then (s5.qWrite 0 (c.image + 72) (leBytesOf 4 c.refused)).1 else s5
  { s6 with
    co := { s6.co with sups := s6.co.sups.map fun p =>
      (p.1, { p.2 with handling := p.2.handling.filter fun e => e.ctx != n, queue := p.2.queue.filter fun e => e.ctx != n
                       hart := { p.2.hart with user := p.2.hart.user && !(p.2.handling.any fun e => e.ctx == n) } }) }
    wk := { s6.wk with
      ctxs := mdel s6.wk.ctxs n
      tqs := s6.wk.tqs.map fun p => if p.2.ctx = n then (p.1, { p.2 with valid := false }) else p
      nbins := s6.wk.nbins.map fun p => if p.2.ctx = n then (p.1, { p.2 with valid := false }) else p } }

/-- R351. A context is torn down. -/
def execCtxcfgTeardown (hq : Nat) (s : State) : Out :=
  s.runCmd hq (fun bs => cmdOpc bs == 5 && fieldOf bs 25 1 == 1) fun s _ idx bs =>
    s.ownOnly hq idx ((s.endCtx (fieldOf bs 24 1)).hostDone hq idx 1)

/-- A queue as it is created. -/
def newHostQ (q : HostQ) (base k die ctx : Nat) : HostQ :=
  { conf := true, base := base, k := k, die := die, ctx := ctx, dbsender := q.dbsender, pageCtx := q.pageCtx, valid := q.valid }

/-- The lowest queue from 1 on that is not configured (log entry 24). -/
def State.freeHostQ (s : State) : Option Nat := (List.range 2046).map (· + 1) |>.find? fun n => !(mgetD s.wk.hqs n {}).conf

/-- R350. A queue is created for a context; the command's address is its ring's (log entry 24). -/
def execCtxcfgCreateQueue (hq : Nat) (s : State) : Out :=
  s.runCmd hq (fun bs => cmdOpc bs == 5 && fieldOf bs 25 1 == 2) fun s _ idx bs =>
    s.ownOnly hq idx <|
      match s.freeHostQ with
      | none => s.hostDone hq idx 0x87
      | some n =>
        let q := newHostQ (mgetD s.wk.hqs n {}) (fieldOf bs 16 8) (fieldOf bs 26 2) (fieldOf bs 28 1) (fieldOf bs 24 1)
        ({ s with wk := { s.wk with hqs := mput s.wk.hqs n q } } : State).hostDone hq idx 1

/-- R351. Permission entries of a context are loaded; they are in force for every later send. -/
def execReincfg (hq : Nat) (s : State) : Out :=
  s.runCmd hq (fun bs => cmdOpc bs == 6) fun s q idx bs =>
    s.ownOnly hq idx <|
      let n := fieldOf bs 24 1
      let e := fieldOf bs 25 1
      let c := { s.ctx n with reinblk := fieldOf bs 16 8 }
      if e = 0xFF then
        match s.qRead q.ctx c.image 640 with
        | (s, .ok img) => (s.putCtx n { c with perms := parsePerms img }).wakeParked.hostDone hq idx 1
        | (s, .error _) => s.openDone hq idx
      else (s.putCtx n { c with perms := c.perms.set e (parsePerm (bs.drop 32)) }).wakeParked.hostDone hq idx 1

/-! ## Bias (R398 to R401) -/

/-- Whether a physical address lies in a set of granules. -/
def State.inGranules (s : State) (gs : List Nat) (pa : Nat) : Bool :=
  decide (s.pk.topo.mbase ≤ pa) && gs.contains ((pa - s.pk.topo.mbase) / 65536)

/-- The release and acquire that the end of a flip makes between all agents, for the bytes of its granules (R378): what the device has
written there is at the SLC, every core has seen it, and no host copy is left. -/
def State.flipSync (s : State) (gs : List Nat) : State :=
  let mine := fun l => s.inGranules gs (128 * l)
  let s1 := (s.m.l1.filter fun p => mine (p.1 / 128)).foldl (fun s k => s.writeBack (k.1 % 128) (k.1 / 128)) s
  (s1.l2ToMem fun a => s.inGranules gs a).mapMem fun m =>
    let m1 := (hostAgent :: List.range Config.cores).foldl (fun (m : Mem) c => (m.dropClean c mine).see c fun e => e.lines.any mine) m
    { m1 with snoop := m1.snoop.filter fun l => !mine l }

/-- Granules flip to device bias: host copies are back-invalidated (R400). -/
def State.flipToDevice (s : State) (gs : List Nat) : State :=
  (s.flipSync gs).mapMem fun m => { m with bias := gs.foldl ladd m.bias }

/-- Granules flip to host bias: every device cache writes back and drops its lines of them first (R400). -/
def State.flipToHost (s : State) (gs : List Nat) : State :=
  let s1 := s.flipSync gs
  let s2 := (s1.m.l1.filter fun p => s1.inGranules gs (128 * (p.1 / 128))).foldl (fun s k => s.expel (k.1 % 128) (k.1 / 128)) s1
  s2.mapMem fun m => { m with bias := m.bias.filter fun g => !gs.contains g }

/-- The granules a BIASFLIP names (R401). -/
def State.granulesOf (s : State) (bs : List Byte) : List Nat :=
  (List.range (fieldOf bs 24 4)).map fun i => (fieldOf bs 16 8 - s.pk.topo.mbase) / 65536 + i

/-- R400, R401. A granule that has the target bias already is left as it is. -/
def execBiasflipToHost (hq : Nat) (s : State) : Out :=
  s.runCmd hq (fun bs => cmdOpc bs == 7 && fieldOf bs 28 1 == 0) fun s _ idx bs =>
    s.ownOnly hq idx ((s.flipToHost ((s.granulesOf bs).filter fun g => s.m.bias.contains g)).hostDone hq idx 1)

/-- R400, R401. A granule that has the target bias already is left as it is. -/
def execBiasflipToDevice (hq : Nat) (s : State) : Out :=
  s.runCmd hq (fun bs => cmdOpc bs == 7 && fieldOf bs 28 1 == 1) fun s _ idx bs =>
    s.ownOnly hq idx ((s.flipToDevice ((s.granulesOf bs).filter fun g => !s.m.bias.contains g)).hostDone hq idx 1)

/-! ## The data link (R393, R399, R417) -/

/-- The lines of a range. -/
def linesOfRange (a n : Nat) : List Nat := if n = 0 then [] else (List.range ((a + n - 1) / 128 + 1 - a / 128)).map fun i => a / 128 + i

/-- Whether a host module of the data link is in service (R392). -/
def State.dataLink (s : State) : Bool := bitsOf s.pk.topo.hlinks 11 8 != 0

/-- R393. A host read: its bytes, with the poison indication above them; under host bias it snoops the device's caches first (R377). Outside memory in service it receives all ones
with poison (R417). -/
def execHostDataRead (addr size : Nat) (s : State) : Out :=
  if !s.dataLink then .next s
  else if !((List.range size).all fun i => s.inMemory (addr + i)) then .next { s with hostRd := 2 ^ (8 * size + 1) - 1 }
  else
    let as := (List.range size).map (addr + ·)
    let s1 := ((linesOfRange addr size).foldl State.hostSnoop s).hostDue as
    .next { s1.hostSees as with hostRd := leVal (readBytes s1.hostByte addr size) + if s1.m.poisoned addr size then 2 ^ (8 * size) else 0 }

/-- R393, R399. A host write, line by line; one outside memory in service changes nothing (R417). A handler wave for which it makes a vector pending and unmasked wakes (R214, R353). -/
def execHostDataWrite (addr size val : Nat) (s : State) : Out :=
  if s.dataLink && (List.range size).all fun i => s.inMemory (addr + i) then
    let bs := leBytesOf size val
    .next ((linesOfRange addr size).foldl (fun s l =>
      let lo := max addr (128 * l)
      let hi := min (addr + size) (128 * l + 128)
      s.hostStore lo ((bs.drop (lo - addr)).take (hi - lo))) s).wakeParked
  else .next s

end Sys2Proof.Machine
end

