-- ==== Sys2Proof/Machine/Int.lean ====
section
/-! DEFINITION. Int.lean: the integer and address operations, vector and uniform (04 R100 to R106), with the
C16 and I32 rows that have their effect (02 R49, R50). -/

namespace Sys2Proof.Machine

/-- val() of R101 for type T. -/
def valT (x : Body) (a : Nat) : Int := intOf x.bitsT (x.ty % 2 == 0) a

/-- sat() of R101 for type T. -/
def satT (x : Body) (v : Int) : Nat :=
  let w := x.bitsT
  if x.ty % 2 = 0 then lowBits w (clampInt (-(2 ^ (w - 1))) (2 ^ (w - 1) - 1) v)
  else lowBits w (clampInt 0 (2 ^ w - 1) v)

/-- mod 2^w, or saturated with .sat (R102). -/
def wrapT (x : Body) (v : Int) : Nat := if x.hi % 2 = 1 then satT x v else lowBits x.bitsT v

/-- The count of 0 bits above the highest 1 bit of a `w`-bit number (R103). -/
def clz (w a : Nat) : Nat := if a = 0 then w else w - 1 - a.log2

/-- The number of 1 bits among the low `w` (R103). -/
def popCount : Nat → Nat → Nat
  | 0, _ => 0
  | w + 1, a => a % 2 + popCount w (a / 2)

/-- Bit i of the result is bit w − 1 − i (R103). -/
def bitRev : Nat → Nat → Nat
  | 0, _ => 0
  | w + 1, a => a % 2 * 2 ^ w + bitRev w (a / 2)

/-- PRMT of R103, one result byte. -/
def prmtByte (y s : Nat) : Nat :=
  let v := y / 256 ^ (s % 8) % 256
  if s % 16 ≥ 8 then (if v ≥ 128 then 0xFF else 0) else v

/-- The condition codes of ICMP (R100). -/
def relHolds (cond : Nat) (a b : Int) : Bool :=
  match cond with
  | 0 => decide (a = b)
  | 1 => decide (a ≠ b)
  | 2 => decide (a < b)
  | 3 => decide (a ≤ b)
  | 4 => decide (a > b)
  | _ => decide (a ≥ b)

/-- The shift, field and byte operations of R103. -/
def bfeVal (x : Body) (a b : Nat) : Nat :=
  let w := x.bitsT
  let pos := b % 256
  let len := min (b / 256 % 256) w
  let f := if pos ≥ w then 0 else a / 2 ^ pos % 2 ^ len
  if x.ty % 2 = 0 ∧ len > 0 ∧ f ≥ 2 ^ (len - 1) then f + (2 ^ w - 2 ^ len) else f

def bfiVal (x : Body) (a b c : Nat) : Nat :=
  let w := x.bitsT
  let pos := b % 256
  let top := min (pos + min (b / 256 % 256) w) w
  if pos ≥ w ∨ top ≤ pos then c
  else c % 2 ^ pos + a % 2 ^ (top - pos) * 2 ^ pos + c / 2 ^ top * 2 ^ top

def rotVal (w n a : Nat) : Nat := (a * 2 ^ n + a / 2 ^ (w - n)) % 2 ^ w

/-- The value an integer operation writes (R102 to R104), and the carry of IADDC. `k` is the predicate's bit. -/
def intResult (o : IntOp) (x : Body) (a b c : Nat) (k : Bool) : Nat × Bool :=
  let w := x.bitsT
  match o with
  | .mov => (a, false)
  | .iadd => (wrapT x (valT x a + valT x b), false)
  | .isub => (wrapT x (valT x a - valT x b), false)
  | .iaddc => ((a + b + k.toNat) % 2 ^ w, decide (a + b + k.toNat ≥ 2 ^ w))
  | .imul => (a * b % 2 ^ w, false)
  | .imulh => (lowBits w ((valT x a * valT x b).fdiv (2 ^ w)), false)
  | .imad =>
    (if x.hi = 1 then lowBits 64 (valT x a * valT x b + c) else lowBits w (valT x a * valT x b + c), false)
  | .imin => (lowBits w (min (valT x a) (valT x b)), false)
  | .imax => (lowBits w (max (valT x a) (valT x b)), false)
  | .iabs => (wrapT x (valT x a).natAbs, false)
  | .shl => (if b ≥ w then 0 else a * 2 ^ b % 2 ^ w, false)
  | .shr =>
    (if x.hi = 1 then lowBits w ((intOf w true a).fdiv (2 ^ min b w)) else if b ≥ w then 0 else a / 2 ^ b, false)
  | .rot => (if x.hi = 1 then rotVal w ((w - b % w) % w) a else rotVal w (b % w) a, false)
  | .and => (a &&& b, false)
  | .or => (a ||| b, false)
  | .xor => (a ^^^ b, false)
  | .andn => (a &&& (2 ^ w - 1 - b), false)
  | .bfe => (bfeVal x a b, false)
  | .bfi => (bfiVal x a b c, false)
  | .popc => (popCount w a, false)
  | .clz => (clz w a, false)
  | .brev => (bitRev w a, false)
  | .prmt =>
    let y := c * 2 ^ 32 + a
    (prmtByte y (b % 16) + 256 * prmtByte y (b / 16 % 16) + 65536 * prmtByte y (b / 256 % 16)
      + 16777216 * prmtByte y (b / 4096 % 16), false)
  | .lea =>
    let e : Int := if x.ty = 0 then intOf 32 true b else b
    (lowBits 64 (a + e * 2 ^ x.hi), false)
  | .icmp => (if relHolds x.hi (valT x a) (valT x b) then 2 ^ 32 - 1 else 0, false)
  | .sel => (if k then a else b, false)

/-- The literal of an integer operation is sign-extended for a signed type (R56). -/
def Body.signedT (x : Body) : Bool := x.ty % 2 == 0

/-- Width in bits of the source that the literal replaces: a single count of the shifts and BFE, LEA's B by its
type, else w (R100). -/
def litBits (o : IntOp) (x : Body) : Nat :=
  match o with
  | .shl | .shr | .rot | .bfe => 32
  | .mov => 32 * Body.regs x.dW
  | _ => x.bitsT

/-- The operands of a lane (lane 32 for a uniform form). -/
def Issue.intArgs (c : Issue) (s : State) (o : IntOp) (u : Bool) (lane : Nat) : Nat × Nat × Nat :=
  match o with
  | .mov => (c.lastA s (Body.signedT c.b) (litBits o c.b) lane, 0, 0)
  | .iabs | .popc | .clz | .brev => (c.regA s lane, 0, 0)
  | .imad | .bfi | .prmt => (c.regA s lane, c.regB s lane, c.third s u lane)
  | _ => (c.regA s lane, c.lastB s (Body.signedT c.b) (litBits o c.b) lane, 0)

/-- A vector integer operation (R101). -/
def intEff (o : IntOp) (c : Issue) (s : State) : Eff :=
  let kc := c.k s c.b.hi
  let r := fun l => let p := c.intArgs s o false l; intResult o c.b p.1 p.2.1 p.2.2 (kc.getLsbD l)
  match o with
  | .icmp => c.fixed s (c.lanes.map fun l => .k c.b.d.toNat l ((r l).1 != 0))
  | .iaddc =>
    c.fixed s (c.lanes.flatMap fun l =>
      let y := r l
      .k c.b.hi l y.2 :: vWords c.b.d.toNat l y.1 (Body.regs c.b.dW))
  | _ => c.fixed s (c.toD fun l => (r l).1)

/-- A uniform integer operation (R105). -/
def intEffU (o : IntOp) (c : Issue) (s : State) : Eff :=
  let p := c.intArgs s o true 32
  let y := intResult o c.b p.1 p.2.1 p.2.2 ((c.k s c.b.hi).getLsbD c.low)
  match o with
  | .iaddc => c.fixed s (c.toSD y.1 ++ kwriteAll c.b.hi (if y.2 then BitVec.allOnes 32 else 0#32))
  | _ => c.fixed s (c.toSD y.1)

/-- R104. Vector move of a register or an extended literal. -/
def execMov (x : Body) (s : State) : Out := run (.mov x) s (intEff .mov)

/-- R102. Vector integer add, wrapping or saturating. -/
def execIadd (x : Body) (s : State) : Out := run (.iadd x) s (intEff .iadd)

/-- R102. Vector integer subtract, wrapping or saturating. -/
def execIsub (x : Body) (s : State) : Out := run (.isub x) s (intEff .isub)

/-- R102. Vector add with carry in and out through a predicate. -/
def execIaddc (x : Body) (s : State) : Out := run (.iaddc x) s (intEff .iaddc)

/-- R102. Vector integer multiply, low bits. -/
def execImul (x : Body) (s : State) : Out := run (.imul x) s (intEff .imul)

/-- R102. Vector integer multiply, high bits. -/
def execImulh (x : Body) (s : State) : Out := run (.imulh x) s (intEff .imulh)

/-- R102. Vector integer multiply-add, optionally wide. -/
def execImad (x : Body) (s : State) : Out := run (.imad x) s (intEff .imad)

/-- R102. Vector integer minimum. -/
def execImin (x : Body) (s : State) : Out := run (.imin x) s (intEff .imin)

/-- R102. Vector integer maximum. -/
def execImax (x : Body) (s : State) : Out := run (.imax x) s (intEff .imax)

/-- R102. Vector integer absolute value. -/
def execIabs (x : Body) (s : State) : Out := run (.iabs x) s (intEff .iabs)

/-- R103. Vector shift left. -/
def execShl (x : Body) (s : State) : Out := run (.shl x) s (intEff .shl)

/-- R103. Vector logical or arithmetic shift right. -/
def execShr (x : Body) (s : State) : Out := run (.shr x) s (intEff .shr)

/-- R103. Vector rotate left or right. -/
def execRot (x : Body) (s : State) : Out := run (.rot x) s (intEff .rot)

/-- R103. Vector bitwise and. -/
def execAnd (x : Body) (s : State) : Out := run (.and x) s (intEff .and)

/-- R103. Vector bitwise or. -/
def execOr (x : Body) (s : State) : Out := run (.or x) s (intEff .or)

/-- R103. Vector bitwise xor. -/
def execXor (x : Body) (s : State) : Out := run (.xor x) s (intEff .xor)

/-- R103. Vector and-not. -/
def execAndn (x : Body) (s : State) : Out := run (.andn x) s (intEff .andn)

/-- R103. Vector bit-field extract. -/
def execBfe (x : Body) (s : State) : Out := run (.bfe x) s (intEff .bfe)

/-- R103. Vector bit-field insert. -/
def execBfi (x : Body) (s : State) : Out := run (.bfi x) s (intEff .bfi)

/-- R103. Vector population count. -/
def execPopc (x : Body) (s : State) : Out := run (.popc x) s (intEff .popc)

/-- R103. Vector count leading zeros. -/
def execClz (x : Body) (s : State) : Out := run (.clz x) s (intEff .clz)

/-- R103. Vector bit reverse. -/
def execBrev (x : Body) (s : State) : Out := run (.brev x) s (intEff .brev)

/-- R103. Vector byte permute. -/
def execPrmt (x : Body) (s : State) : Out := run (.prmt x) s (intEff .prmt)

/-- R104. Vector address computation a + ext(b)*2^sh. -/
def execLea (x : Body) (s : State) : Out := run (.lea x) s (intEff .lea)

/-- R104. Vector integer compare into a predicate. -/
def execIcmp (x : Body) (s : State) : Out := run (.icmp x) s (intEff .icmp)

/-- R104. Vector select by predicate. -/
def execSel (x : Body) (s : State) : Out := run (.sel x) s (intEff .sel)

/-- R105. Uniform move on s registers. -/
def execMovU (x : Body) (s : State) : Out := run (.movU x) s (intEffU .mov)

/-- R105. Uniform integer add. -/
def execIaddU (x : Body) (s : State) : Out := run (.iaddU x) s (intEffU .iadd)

/-- R105. Uniform integer subtract. -/
def execIsubU (x : Body) (s : State) : Out := run (.isubU x) s (intEffU .isub)

/-- R105. Uniform add with carry through a predicate. -/
def execIaddcU (x : Body) (s : State) : Out := run (.iaddcU x) s (intEffU .iaddc)

/-- R105. Uniform integer multiply. -/
def execImulU (x : Body) (s : State) : Out := run (.imulU x) s (intEffU .imul)

/-- R105. Uniform integer multiply high. -/
def execImulhU (x : Body) (s : State) : Out := run (.imulhU x) s (intEffU .imulh)

/-- R105. Uniform integer multiply-add. -/
def execImadU (x : Body) (s : State) : Out := run (.imadU x) s (intEffU .imad)

/-- R105. Uniform integer minimum. -/
def execIminU (x : Body) (s : State) : Out := run (.iminU x) s (intEffU .imin)

/-- R105. Uniform integer maximum. -/
def execImaxU (x : Body) (s : State) : Out := run (.imaxU x) s (intEffU .imax)

/-- R105. Uniform integer absolute value. -/
def execIabsU (x : Body) (s : State) : Out := run (.iabsU x) s (intEffU .iabs)

/-- R105. Uniform shift left. -/
def execShlU (x : Body) (s : State) : Out := run (.shlU x) s (intEffU .shl)

/-- R105. Uniform shift right. -/
def execShrU (x : Body) (s : State) : Out := run (.shrU x) s (intEffU .shr)

/-- R105. Uniform rotate. -/
def execRotU (x : Body) (s : State) : Out := run (.rotU x) s (intEffU .rot)

/-- R105. Uniform bitwise and. -/
def execAndU (x : Body) (s : State) : Out := run (.andU x) s (intEffU .and)

/-- R105. Uniform bitwise or. -/
def execOrU (x : Body) (s : State) : Out := run (.orU x) s (intEffU .or)

/-- R105. Uniform bitwise xor. -/
def execXorU (x : Body) (s : State) : Out := run (.xorU x) s (intEffU .xor)

/-- R105. Uniform and-not. -/
def execAndnU (x : Body) (s : State) : Out := run (.andnU x) s (intEffU .andn)

/-- R105. Uniform bit-field extract. -/
def execBfeU (x : Body) (s : State) : Out := run (.bfeU x) s (intEffU .bfe)

/-- R105. Uniform bit-field insert. -/
def execBfiU (x : Body) (s : State) : Out := run (.bfiU x) s (intEffU .bfi)

/-- R105. Uniform population count. -/
def execPopcU (x : Body) (s : State) : Out := run (.popcU x) s (intEffU .popc)

/-- R105. Uniform count leading zeros. -/
def execClzU (x : Body) (s : State) : Out := run (.clzU x) s (intEffU .clz)

/-- R105. Uniform bit reverse. -/
def execBrevU (x : Body) (s : State) : Out := run (.brevU x) s (intEffU .brev)

/-- R105. Uniform byte permute. -/
def execPrmtU (x : Body) (s : State) : Out := run (.prmtU x) s (intEffU .prmt)

/-- R105. Uniform address computation. -/
def execLeaU (x : Body) (s : State) : Out := run (.leaU x) s (intEffU .lea)

/-- R105. Uniform compare writing all ones or zero to an s register. -/
def execIcmpU (x : Body) (s : State) : Out := run (.icmpU x) s (intEffU .icmp)

/-- R105. Uniform select by the predicate bit of the lowest contributing lane. -/
def execSelU (x : Body) (s : State) : Out := run (.selU x) s (intEffU .sel)

/-- R49. C16 move: D := B in every guarded lane, with an implicit stall of L-1. -/
def execCMov (x : C16) (s : State) : Out := run16 0 x (.mov (x.moveBody)) s (intEff .mov)

/-- R49. C16 integer add: D := D + B. -/
def execCIadd (x : C16) (s : State) : Out := run16 1 x (.iadd (x.body 3)) s (intEff .iadd)

/-- R49. C16 integer subtract: D := D - B. -/
def execCIsub (x : C16) (s : State) : Out := run16 2 x (.isub (x.body 3)) s (intEff .isub)

/-- R49. C16 bitwise and: D := D and B. -/
def execCAnd (x : C16) (s : State) : Out := run16 3 x (.and (x.body 3)) s (intEff .and)

/-- R49. C16 bitwise or: D := D or B. -/
def execCOr (x : C16) (s : State) : Out := run16 4 x (.or (x.body 3)) s (intEff .or)

/-- R49. C16 bitwise xor: D := D xor B. -/
def execCXor (x : C16) (s : State) : Out := run16 5 x (.xor (x.body 3)) s (intEff .xor)

/-- R49. C16 shift left: D := D << B. -/
def execCShl (x : C16) (s : State) : Out := run16 6 x (.shl (x.body 3)) s (intEff .shl)

/-- R49. C16 logical shift right: D := D >> B. -/
def execCShr (x : C16) (s : State) : Out := run16 7 x (.shr (x.body 3)) s (intEff .shr)

/-- R49. C16 integer multiply, low 32 bits. -/
def execCImul (x : C16) (s : State) : Out := run16 13 x (.imul (x.body 5)) s (intEff .imul)

/-- R49. C16 signed 32-bit maximum. -/
def execCImax (x : C16) (s : State) : Out := run16 14 x (.imax (x.body 3)) s (intEff .imax)

/-- R49. C16 signed 32-bit minimum. -/
def execCImin (x : C16) (s : State) : Out := run16 15 x (.imin (x.body 3)) s (intEff .imin)

/-- R50. I32 move D := A. -/
def execI32Mov (x : I32) (s : State) : Out := run32 0x00 x (.mov (x.body1 0#5 0#8)) s (intEff .mov)

/-- R50. I32 integer add. -/
def execI32Iadd (x : I32) (s : State) : Out := run32 0x01 x (.iadd (x.body 0#5)) s (intEff .iadd)

/-- R50. I32 integer subtract. -/
def execI32Isub (x : I32) (s : State) : Out := run32 0x02 x (.isub (x.body 0#5)) s (intEff .isub)

/-- R50. I32 integer multiply, low bits. -/
def execI32Imul (x : I32) (s : State) : Out := run32 0x03 x (.imul (x.body 0#5)) s (intEff .imul)

/-- R50. I32 signed multiply, high bits. -/
def execI32ImulhI32 (x : I32) (s : State) : Out := run32 0x04 x (.imulh (x.body 0#5)) s (intEff .imulh)

/-- R50. I32 unsigned multiply, high bits. -/
def execI32ImulhN32 (x : I32) (s : State) : Out := run32 0x05 x (.imulh (x.body 1#5)) s (intEff .imulh)

/-- R50. I32 accumulating multiply-add D := A*B + D. -/
def execI32Imad (x : I32) (s : State) : Out := run32 0x06 x (.imad (x.body 0#5)) s (intEff .imad)

/-- R50. I32 signed minimum. -/
def execI32IminI32 (x : I32) (s : State) : Out := run32 0x07 x (.imin (x.body 0#5)) s (intEff .imin)

/-- R50. I32 signed maximum. -/
def execI32ImaxI32 (x : I32) (s : State) : Out := run32 0x08 x (.imax (x.body 0#5)) s (intEff .imax)

/-- R50. I32 unsigned minimum. -/
def execI32IminN32 (x : I32) (s : State) : Out := run32 0x09 x (.imin (x.body 1#5)) s (intEff .imin)

/-- R50. I32 unsigned maximum. -/
def execI32ImaxN32 (x : I32) (s : State) : Out := run32 0x0A x (.imax (x.body 1#5)) s (intEff .imax)

/-- R50. I32 integer absolute value. -/
def execI32Iabs (x : I32) (s : State) : Out := run32 0x0B x (.iabs (x.body1 0#5 0#8)) s (intEff .iabs)

/-- R50. I32 shift left. -/
def execI32Shl (x : I32) (s : State) : Out := run32 0x0C x (.shl (x.body 0#5)) s (intEff .shl)

/-- R50. I32 logical shift right. -/
def execI32Shr (x : I32) (s : State) : Out := run32 0x0D x (.shr (x.body 0#5)) s (intEff .shr)

/-- R50. I32 arithmetic shift right. -/
def execI32ShrA (x : I32) (s : State) : Out := run32 0x0E x (.shr (x.body 4#5)) s (intEff .shr)

/-- R50. I32 rotate left. -/
def execI32Rot (x : I32) (s : State) : Out := run32 0x0F x (.rot (x.body 0#5)) s (intEff .rot)

/-- R50. I32 bitwise and. -/
def execI32And (x : I32) (s : State) : Out := run32 0x10 x (.and (x.body 0#5)) s (intEff .and)

/-- R50. I32 bitwise or. -/
def execI32Or (x : I32) (s : State) : Out := run32 0x11 x (.or (x.body 0#5)) s (intEff .or)

/-- R50. I32 bitwise xor. -/
def execI32Xor (x : I32) (s : State) : Out := run32 0x12 x (.xor (x.body 0#5)) s (intEff .xor)

/-- R50. I32 and-not. -/
def execI32Andn (x : I32) (s : State) : Out := run32 0x13 x (.andn (x.body 0#5)) s (intEff .andn)

/-- R50. I32 population count. -/
def execI32Popc (x : I32) (s : State) : Out := run32 0x14 x (.popc (x.body1 0#5 0#8)) s (intEff .popc)

/-- R50. I32 count leading zeros. -/
def execI32Clz (x : I32) (s : State) : Out := run32 0x15 x (.clz (x.body1 0#5 0#8)) s (intEff .clz)

/-- R50. I32 bit reverse. -/
def execI32Brev (x : I32) (s : State) : Out := run32 0x16 x (.brev (x.body1 0#5 0#8)) s (intEff .brev)

end Sys2Proof.Machine
end

