-- ==== Sys2Proof/Machine/Super.lean ====
section
/-! DEFINITION. Super.lean: the stop of a wave and its report, the core supervisor's requests, the debug unit's commands, and
errors (11 R258 to R264, R269 to R275; 15 R318 to R321). -/

namespace Sys2Proof.Machine

/-! ## The frame in memory (R258) -/

/-- The CAUSE word. -/
def Frame.causeWord (f : Frame) : Nat :=
  f.dbg.toNat * 2 ^ 18 + f.replay.toNat * 2 ^ 17 + f.imprecise.toNat * 2 ^ 16 + ((f.skidCause.map Cause.code).getD 0) * 2 ^ 8 + f.trap.cause.code

/-- The bytes 0x00 to 0x5F that the device writes. -/
def Frame.bytes (f : Frame) : List Byte :=
  leBytesOf 4 f.causeWord ++ leBytesOf 4 f.trap.sub ++ leBytesOf 8 f.trap.addr ++ leBytesOf 4 f.trap.mask.toNat
    ++ leBytesOf 4 f.issueSet.toNat ++ leBytesOf 8 f.pc ++ (f.iwords ++ List.replicate 12 0#8).take 12 ++ leBytesOf 4 f.trap.reg
    ++ leBytesOf 4 (f.skid % 256) ++ leBytesOf 4 f.who ++ leBytesOf 8 f.time ++ leBytesOf 16 f.stv ++ leBytesOf 4 f.live.toNat
    ++ leBytesOf 4 f.parked.toNat ++ leBytesOf 4 f.exited.toNat ++ leBytesOf 4 f.wcw.toNat

/-- Every producer of a stopping wave has completed, but for those of R448; a debug stop drains its grid (R237, R262). -/
def Wave.atRest (x : Wave) : Bool :=
  x.pend.all fun p => match p.work with
    | .hmma _ => x.dbg
    | .grid .. => x.dbg
    | k => k.kept

/-- The frame as it is written: DEBUG_STOP names the wave as it stands once its producers have completed, while the frame of a trap has what
stood when the trap was taken, and either TIME is of that moment (R258; that these moments are 'at the stop' is the model's choice, log
entry 39). -/
def Wave.stopFrame (x : Wave) (f : Frame) : Frame :=
  if f.trap.cause = .debugStop then
    { f with
      trap := { f.trap with mask := x.stopAt.2 }, pc := x.stopAt.1, stv := x.stv, live := x.lanesIn .live, parked := x.lanesIn .parked
      exited := x.lanesIn .exited, wcw := x.wcwRead }
  else f

/-- R262. The stop of a wave is reported: its frame is written, and its entry joins the trap queue. A step's end makes the
unit read stopped again (R320). -/
def execWaveStopReport (w : Nat) (s : State) : Out :=
  match s.wave w with
  | none => .next s
  | some x =>
    if x.run ≠ .stopping ∨ !x.atRest then .next s
    else
      let s1 := match s.gridOfWave w with
        | some (g, h) => if x.dbg ∧ h.lead = some w ∧ h.state = 2 then s.drainGrid w g (h.ops.length + 1) else s
        | none => s
      match s1.wave w with
      | none => .next s1
      | some x1 =>
        let x1 : Wave := { x1 with frame := x1.frame.map x1.stopFrame }
        let s2 := match x1.frame with
          | some f => (s1.devWrite (s1.ctxNo x1) (s1.frameAddr x1) f.bytes).1
          | none => s1
        let wrote := (List.range (s2.m.writes - s1.m.writes)).map (s1.m.writes + ·)
        let s3 := (s2.modWave w fun x => { x with run := .stopped, reported := true, frame := x1.frame }).pushStop w x1 wrote
        let q := clusterOfWave w
        let d := s3.dbg q
        .next (if x.stepping then (s3.modWave w fun x => { x with stepping := false }).putDbg q { d with stepRun := false } else s3)

/-! ## The supervisor (R262 to R264) -/

/-- The word of TRAPQ for a stop. -/
def Stop.word (e : Stop) : Nat := e.frame / 128 * 128 + 64 + e.slot

/-- The status of a teardown after a trap: FAULTED with the cause (R262). -/
def Stop.status (e : Stop) : Nat := 0x81 + e.cause * 2 ^ 8

/-- The hart as the dispatch enters a handler with it: in user mode, with the frame in a0, the slot in a1 and the stub's address in ra (R262,
R264). What its other registers hold the spec leaves open (log entry 47). -/
def Hart.enter (h : Hart) (handler : Nat) (e : Stop) (free : Nat) : Hart :=
  { h with
    x := (List.range 31).map fun i =>
      if i = 0 then Config.handlerStub else if i = 9 then BitVec.ofNat 64 e.frame else if i = 10 then BitVec.ofNat 64 e.slot
      else BitVec.ofNat 64 (Config.openValue (free + i))
    pc := BitVec.ofNat 64 (handler / 2 * 2), user := true, resv := none }

/-- The supervisor of a core runs its context's handler for a stop. -/
def State.enterHandler (s : State) (core : Nat) (e : Stop) : State :=
  let u := s.sup core
  { (s.putSup core { u with handling := some e, hart := u.hart.enter (s.ctx e.ctx).handler e s.free }) with free := s.free + 31 }

/-- R263. A read of TRAPQ from its first byte on. One of 8 bytes takes the oldest entry: the handler of its context runs, or its block is
torn down (R262); a narrower one gives its bytes of that entry and leaves it. One that begins at a later byte is a read of a register
(`Input.read`). -/
def execTrapqRead (core size : Nat) (s : State) : Out :=
  let u := s.sup core
  match u.queue with
  | [] => .next { s with hostRd := 0 }
  | e :: rest =>
    if size ≠ 8 then .next { s with hostRd := e.word % 256 ^ size }
    else
      let s1 := { (s.putSup core { u with queue := rest }).mapMem (fun m => (m.learn core e.deps).dropClean core fun _ => true) with hostRd := e.word }
      if u.handling.isSome then .next s1
      else if (s.ctx e.ctx).handler ≠ 0 then .next (s1.enterHandler core e)
      else .next (s1.teardown e.blk e.status)

/-- What a resumed wave issues first: the instruction of its frame, when REPLAY is 1 there (R261). -/
def State.replayOf (s : State) (x : Wave) : State × Option (Nat × Word × List Byte) :=
  match s.devRead (s.ctxNo x) (s.frameAddr x) 96 with
  | (s, .ok bs) =>
    (s, if (fieldOf bs 0 4).testBit 17 then some (fieldOf bs 0x18 8, BitVec.ofNat 32 (fieldOf bs 0x14 4), (bs.drop 0x20).take 12) else none)
  | (s, .error _) => (s, (x.frame.bind fun f => if f.replay then some (f.pc, f.issueSet, f.iwords) else none))

/-- A stopped wave runs again, unless its block is being saved. -/
def State.resumeWave (s : State) (w : Nat) (x : Wave) : State :=
  let saving := ((s.block x.blk).map Block.saving).getD false
  match s.replayOf x with
  | (s, r) =>
    s.putWave w { x with run := if saving then .saving else .running, trapped := false, dbg := false, frame := none, reported := false
                         replay := r <|> x.replay, next := s.clock + 1 }

/-- R261, R264. WCMD := 1 resumes a wave that a trap alone stopped, with every neglect count at 0. -/
def State.wcmd (s : State) (w : Nat) : State :=
  match s.wave w with
  | some x =>
    if x.run = .stopped ∧ x.trapped ∧ !x.dbg then s.resumeWave w (x.mapLanes fun _ y => { y with neglect := 0 })
    else s
  | none => s

def execWcmdResume (w : Nat) (s : State) : Out := .next (s.wcmd w)

/-- The handler that runs on a core ends. -/
def State.endHandler (s : State) (core : Nat) : State :=
  let u := s.sup core
  s.putSup core { u with handling := none, hart := { u.hart with user := false } }

/-- R264. -/
def execEcallDone (core : Nat) (s : State) : Out :=
  if (s.sup core).handling.isSome then .next (s.endHandler core) else .next s

/-- R264. The block is torn down, FAULTED with a0[7:0]. -/
def execEcallTeardown (core a0 : Nat) (s : State) : Out :=
  match (s.sup core).handling with
  | some e => .next ((s.endHandler core).teardown e.blk (0x81 + a0 % 256 * 2 ^ 8))
  | none => .next s

/-- R264. The launch's word receives ESCALATED with the cause, and the wave stays stopped. -/
def execEcallEscalate (core : Nat) (s : State) : Out :=
  match (s.sup core).handling with
  | none => .next s
  | some e =>
    let detail := e.cause * 2 ^ 8
    let d : Done := { core := core, deps := s.m.seenBy core }
    let s1 := match (s.block e.blk).bind fun b => s.grid b.grid with
      | some g =>
        match g.host with
        | some (hq, idx) => s.hostInterim hq idx (3 + detail) d
        | none => g.reports.foldl (fun (s : State) (r : Nat × Nat × Nat) => s.report g.ctx (r.1, r.2.1, 5) (3 + detail) .none d) s
      | none => s
    .next (s1.endHandler core)

/-- R264. An exception of the supervisor in a handler tears the block down. -/
def State.superFault (s : State) (core code : Nat) : State :=
  match (s.sup core).handling with
  | some e => (s.endHandler core).teardown e.blk (0x83 + code % 256 * 2 ^ 8)
  | none => s

def execSupervisorException (core code : Nat) (s : State) : Out := .next (s.superFault core code)

/-- Where an access of a supervisor goes: its own core's window, or a physical address. Its failure is the code of a RISC-V exception:
misaligned, a window of another core, or what the translation gives (R169). -/
inductive SuperAt where
  | own
  | mem (pa : Nat)
deriving DecidableEq, Repr

def State.superAt (s : State) (core ctx addr size : Nat) (k : AccKind) : State × Except Nat SuperAt :=
  let w := k == .store || k == .rmw
  if addr % size ≠ 0 then (s, .error (if w then 6 else 4))
  else if inWindow addr then (s, if (addr - windowBase) / 0x400000 = core then .ok .own else .error (if w then 7 else 5))
  else
    match s.translate core ctx addr k with
    | (s, .ok pa) => (s, .ok (.mem pa))
    | (s, .error r) => (s, .error (if isPageFault r then (if w then 15 else 13) else (if w then 7 else 5)))

/-- A supervisor's queued stores leave its queue. -/
def State.superDrain (s : State) (core : Nat) : State := (s.sup core).sq.foldl (fun s _ => s.superLeave core) s

/-- A store joins the supervisor's queue. -/
def State.superPush (s : State) (core pa size val : Nat) : State :=
  let u := s.sup core
  s.putSup core { u with sq := u.sq ++ [(pa, leBytesOf size val)] }

/-- A supervisor's read of global memory: its own store queue is as a wave's, so a load that the queued stores meet is served after they
have left (R166). -/
def State.superRead (s : State) (core pa size : Nat) : State × Nat :=
  let s1 := if (s.sup core).sq.any fun q => decide (q.1 < pa + size) && decide (pa < q.1 + q.2.length) then s.superDrain core else s
  let s2 := s1.prepareRead core false (.mem pa)
  (s2, leVal (s2.locBytes core (.mem pa) size))

/-- R169. A global store of a handler joins the supervisor's own store queue; one that fails is an exception of its own (R264).
Its own window takes a store as REGISTER_WRITE gives. -/
def execSupervisorStore (core addr size val : Nat) (s : State) : Out :=
  match (s.sup core).handling with
  | none => .next s
  | some e =>
    if size ≠ 1 ∧ size ≠ 2 ∧ size ≠ 4 ∧ size ≠ 8 then .next s
    else
      match s.superAt core e.ctx addr size .store with
      | (s, .ok .own) => .next s
      | (s, .ok (.mem pa)) => .next (s.superPush core pa size val)
      | (s, .error code) => .next (s.superFault core code)

/-- R169. A global load of a handler; a fault is an exception of the supervisor's own (R264). Its own window is read as a register. -/
def State.superLoad (s : State) (core addr size : Nat) : State :=
  match (s.sup core).handling with
  | none => s
  | some e =>
    if size ≠ 1 ∧ size ≠ 2 ∧ size ≠ 4 ∧ size ≠ 8 then s
    else
      match s.superAt core e.ctx addr size .load with
      | (s, .ok .own) => s
      | (s, .ok (.mem pa)) => match s.superRead core pa size with | (s, v) => { s with hostRd := v }
      | (s, .error code) => s.superFault core code

/-- R169. A FENCE of a supervisor: its stores leave its queue, then it acts as a device-scope FENCE. -/
def State.superFence (s : State) (core : Nat) : State :=
  let s1 := (s.superDrain core).fence core 0 4 (s.sup core).heard
  s1.putSup core { s1.sup core with fenced := s1.m.seenBy core, heard := [] }

/-! ## The debug unit (R271 to R275) -/

/-- R273. A wave's candidate lies at an armed breakpoint: HITS rises; while the unit runs, the wave stops without issuing it
and the cluster is told to stop. Behind a pending translation check it is held as a trap of the candidate's own is (R260). -/
def execInstructionBreakpointHit (w : Nat) (s : State) : Out :=
  match s.wave w with
  | none => .next s
  | some x =>
    match x.issuePc with
    | none => .next s
    | some pc =>
      match s.breakAt w x pc with
      | none => .next s
      | some i =>
        if x.run ≠ .running then .next s
        else if x.pend.any fun p => p.work.isCheck then
          .next (s.modWave w fun x => { x with pend := x.pend.map fun (p : Pend) => { p with work := p.work.holding .breakpoint } })
        else
          let q := clusterOfWave w
          let d := s.dbg q
          let b := d.brk.getD i {}
          let s1 := s.putDbg q { d with brk := d.brk.set i { b with hits := (b.hits + 1) % 2 ^ 32 } }
          if d.state = 0 then
            let t : Trap := { cause := .breakpoint, sub := 0x80000000 + i, mask := x.activeAt pc }
            let iw := match s.fetch w x pc with | .ok bs => frameWords bs | .error bs => frameWords bs
            .next ((s1.debugHit q 1 i (some w) false).modWave w fun x =>
              { x.stopWith (mkFrame s w x t 0#32 pc iw true false false none 0) with skipBp := pc :: x.skipBp })
          else
            match x.hit with
            | some h => .next (s1.takeHit w x h)
            | none => .next (s1.modWave w fun x => { x with skipBp := pc :: x.skipBp })

/-- R271, R274. The last wave of the stop has stopped. -/
def execClusterStopped (q : Nat) (s : State) : Out :=
  let d := s.dbg q
  if d.state = 1 ∧ !(s.waves.any fun p => s.observed q p.1 p.2 && (p.2.hit.isSome || (p.2.run == .stopping && p.2.dbg))) then
    .next (s.putDbg q { d with state := 2 })
  else .next s

/-- R275, R321. CMD RESUME: every wave stopped for debug runs, and every held release is applied. -/
def State.debugResume (s : State) (q : Nat) : State :=
  let d := s.dbg q
  if d.state ≠ 2 ∨ d.stepRun then s
  else
    let ws := s.waves.filter fun p => s.observed q p.1 p.2 && p.2.dbg && p.2.run == .stopped
    let s1 := s.putDbg q { d with state := 0, stat := d.stat % 2 ^ 31 }
    let s2 := ws.foldl (fun (s : State) p => match s.wave p.1 with | some x => s.resumeWave p.1 x | none => s) s1
    s2.releaseHeld fun w x => s2.observed q w x

def execDbgResume (q : Nat) (s : State) : Out := .next (s.debugResume q)

/-- R275. CMD STEP: one stopped wave runs for one issue. -/
def State.debugStep (s : State) (q core slot : Nat) : State :=
  let d := s.dbg q
  let w := 64 * (4 * q + core % 4) + slot % 64
  match s.wave w with
  | none => s
  | some x =>
    if d.state ≠ 2 ∨ d.stepRun ∨ !x.dbg ∨ x.run ≠ .stopped ∨ x.liveMask = 0#32 then s
    else ((s.resumeWave w x).modWave w fun x => { x with run := .running, stepping := true, issues := 0 }).putDbg q { d with stepRun := true }

def execDbgStep (q core slot : Nat) (s : State) : Out := .next (s.debugStep q core slot)

/-- A stepped wave has issued, and what it issued can no longer trap (R275). -/
def Wave.stepOver (x : Wave) : Bool :=
  x.stepping && x.run == .running && decide (x.issues ≥ 1) && x.pend.all fun p =>
    match p.work with
    | .check .. => false
    | .sfu _ t => t.isNone
    | _ => !p.late

/-- R275, R320. The stepped wave has issued once: it stops again with DEBUG_STOP. -/
def execDbgStepDone (w : Nat) (s : State) : Out :=
  match s.wave w with
  | some x =>
    if x.stepOver then
      .next (s.takeHit w x { clock := s.clock, issues := x.issues, trap := { cause := .debugStop, sub := 1 }, pc := none, issueSet := 0#32, iwords := [] })
    else .next s
  | none => .next s

/-! ## Errors (R235, R269, R270, R391) -/

/-- R269, R391. An uncorrectable error in an array of a core: 0 register file, 1 scratchpad, 2 L1, 3 instruction or trace cache, at a
byte offset; 4 memory and 6 a line of the L2 or the SLC, at a physical address; 5 the storage of the grid on the core. It marks what
it hits, in an L1 that core's copy alone, and raises nothing. -/
def State.hitArray (s : State) (core arr off : Nat) : State :=
  match arr with
  | 0 =>
    let k := core * 4 * 1024 * 32 + off % 2 ^ 19 / 4
    { s with co := { s.co with rfBad := mput s.co.rfBad k (cget s.co.rfBad k 0 ||| 2 ^ (off % 4 / 2)) } }
  | 1 => { s with co := { s.co with spBad := mput s.co.spBad ((2 ^ 18 * core + off % 2 ^ 18) / 2) true } }
  | 2 =>
    let ls := s.m.linesOf core
    if ls.isEmpty then s else s.poisonCopy core (ls.getD (off / 128 % ls.length) 0 * 128 + off % 128)
  | 3 =>
    let lines := s.co.icache.filter fun p => p.1 == core
    let windows := s.co.traces.filter fun p => p.1 == core
    let n := off / 128 % max 1 (lines.length + windows.length)
    match lines[n]? with
    | some l => s.dropCode false core l.2
    | none => match windows[n - lines.length]? with | some l => s.dropCode true core l.2 | none => s
  | 5 =>
    match s.gridOnCore core with
    | some (g, _) => s.modGrid g fun h => h.mark off
    | none => s
  | _ => s.poison off

/-- An error of a memory channel counted, and reported to the management core of die 0 (R391). -/
def State.logChannel (s : State) (pa : Nat) (hard : Bool) : State :=
  let k := s.channel pa
  let n := mgetD s.pk.errs k (0, 0)
  { s with pk := { s.pk with
      errs := mput s.pk.errs k (if hard then (n.1, n.2 + 1) else (n.1 + 1, n.2))
      reports := s.pk.reports ++ [(Config.cores + k, if hard then 4 else 3, pa)] } }

/-- R269, R270, R391. An error of grid storage is logged as one of the register file, whose banks and buffers hold it (R227, R235; log
entry 34). -/
def execUncorrectableError (core arr off : Nat) (s : State) : Out :=
  let s1 := s.hitArray core arr off
  .next (if arr < 4 then s1.logUce core arr off else if arr = 4 then s1.logChannel off true else if arr = 5 then s1.logUce core 0 off else s1)

/-- R269, R270, R391. -/
def execCorrectableError (core arr off : Nat) (s : State) : Out :=
  let e := mgetD s.co.errstat core 0
  .next <| if arr = 4 then s.logChannel off false
    else if arr > 5 then s
    else { s with co := { s.co with errstat := mput s.co.errstat core (e / 2 ^ 16 * 2 ^ 16 + min (e % 2 ^ 16 + 1) 0xFFFF) } }

/-- R270. -/
def execErrstatClear (core : Nat) (s : State) : Out :=
  .next { s with co := { s.co with errstat := mdel s.co.errstat core } }

end Sys2Proof.Machine
end

