-- ==== Sys2Proof/Machine/Landing.lean ====
section
/-! DEFINITION. Landing.lean: how results land, passes are served, drains are answered and lines leave caches of their own
accord (02 R61, R62; 07 R160, R229; 08 R198; 18 R342; 19 R372). -/

namespace Sys2Proof.Machine

/-- What a pending instruction whose result may land leaves behind; none when it has to wait (R61, R62). -/
def State.land (s : State) (w : Nat) (x : Wave) (p : Pend) : Option State :=
  match p.work with
  | .regs ws | .bound ws =>
    if p.due ≤ s.clock ∧ x.inOrder p then some ((s.applyWrites w ws).modWave w fun x => x.complete p.stamp) else none
  | .slot => if p.due ≤ s.clock then some (s.putWave w (x.complete p.stamp)) else none
  | .barq key d =>
    if p.due ≤ s.clock then
      let b := s.bar key (((s.block x.blk).map Block.threads).getD 1)
      some (s.putWave w (x.bind p.stamp s.clock (d.writes 0 (b.arr * 2 ^ 16 + b.phase % 2 ^ 16) 0)))
    else none
  | .cpseal _ | .cpwait _ => if x.batchReady p.stamp p.work then some (s.batchDone w x p) else none
  | .bstat _ _ h _ => if s.queryOver (clusterOfWave w) x.blk h then some (s.bstatDone w x p) else none
  | _ => none

/-- R62. A result lands: its registers are written, and its slot is released. -/
def execResultLanded (w n : Nat) (s : State) : Out :=
  match s.pendOf w n with
  | some (x, p) => .next ((s.land w x p).getD s)
  | none => .next s

/-- R160, R229, R232. One pass of a scratchpad instruction, or one pass row of an HMMA. -/
def execScratchpadPass (w n : Nat) (s : State) : Out :=
  match s.pendOf w n with
  | some (x, p) =>
    match p.work with
    | .hmma _ => .next (s.enterRow w n)
    | _ => .next (s.spPass w x p)
  | none => .next s

/-- The lines of which an acquire of some wave of a die waits for drains (R342). -/
def State.acquireWaits (s : State) (die line : Nat) : Bool :=
  s.waves.any fun p => dieOf (coreOf p.1) == die && p.2.pend.any fun q =>
    match q.work with
    | .load _ _ (some sc) todo .. => decide (sc ≥ 2) && (memLines todo).contains line
    | _ => false

/-- R342. A core writes back what its release tagged, and answers the drain an acquire asked for. -/
def execDrainAcknowledge (die core line : Nat) (s : State) : Out :=
  if s.acquireWaits die line ∧ (s.m.recorded die line 128).contains core then .next (s.acknowledge die core line) else .next s

/-- A line that some transaction of a core reserves stays in its L1. -/
def State.reserved (s : State) (core line : Nat) : Bool :=
  s.waves.any fun p => coreOf p.1 == core && p.2.txn.lines.any fun q => q.1 == line

/-- R165, R339, R390. A cache drops a line of its own accord: an L1 by the core's number; 128 is the L2s, which write it to the SLC;
129 is the SLC of its home hub, which writes it to memory; 130 is the snoop filter, which ends the host's copy. -/
def execCacheEviction (core line : Nat) (s : State) : Out :=
  .next <|
    if core < 128 then (if (s.m.l1Line core line).isSome ∧ !s.reserved core line then s.expel core line else s)
    else if core = 128 then s.l2ToMem fun a => lineOf a == line
    else if core = 129 then s.slcToMem fun a => lineOf a == line
    else if core = 130 then s.mapMem fun m => { m with snoop := m.snoop.filter fun l => l != line }
    else s

/-! ## How much the caches hold (R5, R390) -/

/-- Lines an L1 of 128 KiB holds (R165), an L2 of 64 MiB (R339), and the 256 MiB of SLC of a hub (R390). -/
def l1Cap : Nat := 1024
def l2Cap : Nat := 2 ^ 19
def slcCap : Nat := 2 ^ 21

/-- The first of the lines a list names, when they are more than `cap`. -/
def overFull (cap : Nat) (ls : List Nat) : Option Nat := if ls.eraseDups.length ≤ cap then none else ls.head?

/-- A line that a cache has to give up, as it holds more than it has room for: the cache as CACHE_EVICTION numbers it, and the line.
Lines held for a transaction stay (R192). Which of the others goes is the model's choice of replacement (log entry 11). -/
def State.overCap (s : State) : Option (Nat × Nat) :=
  let l1 := if s.m.l1.length ≤ l1Cap then none else
    (s.m.l1.foldl (fun a p => ladd a (p.1 % 128)) []).findSome? fun c =>
      let ls := s.m.linesOf c
      if ls.length ≤ l1Cap then none else (ls.find? fun l => !s.reserved c l).map fun l => (c, l)
  let l2 := if s.m.l2.length ≤ l2Cap then none else
    (List.range 4).findSome? fun d => overFull l2Cap (s.m.l2.filterMap fun p => if p.2.1 = d then some (lineOf p.1) else none)
  let slc := if s.m.slc.length ≤ slcCap then none else
    (List.range 2).findSome? fun h => overFull slcCap (s.m.slc.filterMap fun p => if s.homeHub p.1 = h then some (lineOf p.1) else none)
  l1 <|> l2.map (128, ·) <|> slc.map (129, ·)

end Sys2Proof.Machine
end

