-- ==== Sys2Proof/Machine/Lane.lean ====
section
/-! DEFINITION. Lane.lean: the operations across lanes and the random numbers (03 R91, R92; 05 R146 to R151). -/

namespace Sys2Proof.Machine

/-- Tile size of the wave (R78, R91). -/
def Wave.tile (x : Wave) : Nat := 32 / 2 ^ x.ts

/-- The base of a lane's tile. -/
def tileBase (n l : Nat) : Nat := l / n * n

/-- R92. Set the tile size of the wave. -/
def execLpart (x : Body) (s : State) : Out :=
  run (.lpart x) s fun c s => .go { s := s.modWave c.w fun y => { y with ts := c.b.mdN } }

/-- The source of SHFL for tile index j and operand b, or none out of range (R148). -/
def shflSource (mode n j b : Nat) : Option Nat :=
  match mode with
  | 0 => some (b % n)
  | 1 => if b ≤ j then some (j - b) else none
  | 2 => if j + b < n then some (j + b) else none
  | _ => if j ^^^ b < n then some (j ^^^ b) else none

/-- R148. Read another lane of the tile. -/
def execShfl (x : Body) (s : State) : Out :=
  run (.shfl x) s fun c s =>
    let n := c.x.tile
    c.fixed s (c.lanes.flatMap fun l =>
      let r : Nat × Bool := match shflSource (c.b.mdN % 4) n (l % n) (c.lastB s false 32 l) with
        | none => (c.regA s l, false)
        | some j => if c.con.getLsbD (tileBase n l + j) then (c.regA s (tileBase n l + j), true) else (0, false)
      .k c.b.hi l r.2 :: vWords c.b.d.toNat l r.1 (Body.regs c.b.dW))

/-- Contributors of a lane's tile. -/
def Issue.tileMates (c : Issue) (l : Nat) : List Nat :=
  c.lanes.filter fun m => tileBase c.x.tile m == tileBase c.x.tile l

/-- R149. Combine a predicate over each tile. -/
def execVote (x : Body) (s : State) : Out :=
  run (.vote x) s fun c s =>
    let a := c.k s c.b.a.toNat
    let bits := fun l => (c.tileMates l).map fun m => a.getLsbD m
    match c.b.mdN with
    | 0 => c.fixed s (c.lanes.map fun l => .k c.b.d.toNat l ((bits l).all id))
    | 1 => c.fixed s (c.lanes.map fun l => .k c.b.d.toNat l ((bits l).any id))
    | 2 => c.fixed s (c.lanes.map fun l => .k c.b.d.toNat l ((bits l).all id || !(bits l).any id))
    | _ => c.fixed s (c.toD fun l =>
        (c.tileMates l).foldl (fun w m => if a.getLsbD m then w + 2 ^ (m - tileBase c.x.tile l) else w) 0)

/-- The operations of R150 and their identities. -/
def reduxOp (op a b : Nat) : Nat × Cond :=
  match op with
  | 0 => ((a + b) % 2 ^ 32, 0#5)
  | 1 => (lowBits 32 (min (intOf 32 true a) (intOf 32 true b)), 0#5)
  | 2 => (lowBits 32 (max (intOf 32 true a) (intOf 32 true b)), 0#5)
  | 3 => (min a b, 0#5)
  | 4 => (max a b, 0#5)
  | 5 => (a &&& b, 0#5)
  | 6 => (a ||| b, 0#5)
  | 7 => (a ^^^ b, 0#5)
  | 8 => fpAdd .f32 .rne false a b
  | 9 => fpMinMax .f32 false a b
  | _ => fpMinMax .f32 true a b

def reduxId (op : Nat) : Nat :=
  match op with
  | 1 => 0x7FFFFFFF | 2 => 0x80000000 | 3 => 0xFFFFFFFF | 5 => 0xFFFFFFFF | 8 => 0x80000000 | 9 => 0x7FC00000 | 10 => 0x7FC00000
  | _ => 0

/-- One step of REDUX at distance k: v[i] := op(v[i], v[i+k]) for i a multiple of 2k. -/
def reduxStep (op k : Nat) (v : List Nat × Cond) : List Nat × Cond :=
  let r := v.1.zipIdx.map fun p => if p.2 % (2 * k) = 0 then reduxOp op p.1 (v.1.getD (p.2 + k) 0) else (p.1, 0#5)
  (r.map Prod.fst, r.foldl (fun a p => a ||| p.2) v.2)

/-- One step of SCAN at distance k: v[i] := op(v[i−k], v[i]) for i ≥ k, all at once. -/
def scanStep (op k : Nat) (v : List Nat × Cond) : List Nat × Cond :=
  let r := v.1.zipIdx.map fun p => if p.2 ≥ k then reduxOp op (v.1.getD (p.2 - k) 0) p.1 else (p.1, 0#5)
  (r.map Prod.fst, r.foldl (fun a p => a ||| p.2) v.2)

/-- The tree over a tile of 2^t lanes: distances 1, 2, 4, … below the tile size. -/
def tileTree (step : Nat → List Nat × Cond → List Nat × Cond) (v : List Nat) (t : Nat) : List Nat × Cond :=
  (List.range t).foldl (fun v i => step (2 ^ i) v) (v, 0#5)

/-- The values a tile combines (R150). -/
def Issue.tileVals (c : Issue) (s : State) (op b0 : Nat) : List Nat :=
  (List.range c.x.tile).map fun i => if c.con.getLsbD (b0 + i) then c.regA s (b0 + i) else reduxId op

/-- REDUX and SCAN: the value of each contributor from its tile's tree, the conditions of the tile at each of them. -/
def Issue.tiles (c : Issue) (s : State) (op : Nat) (step : Nat → List Nat × Cond → List Nat × Cond)
    (pick : List Nat → Nat → Nat) : Eff :=
  let n := c.x.tile
  let rs := c.lanes.map fun l =>
    let r := tileTree step (c.tileVals s op (tileBase n l)) (5 - c.x.ts)
    (l, pick r.1 (l % n), r.2)
  c.settleFp s rs (rs.flatMap fun r => vWords c.b.d.toNat r.1 r.2.1 1)

/-- A result of a .f32 operation is never a NaN other than the canonical one, even where nothing has been combined into it
(R20, R150). -/
def reduxOut (op v : Nat) : Nat := if op ≥ 8 then (Fmt.f32.keep v).1 else v

/-- R150. Reduce over each tile in a fixed order. -/
def execRedux (x : Body) (s : State) : Out :=
  run (.redux x) s fun c s => c.tiles s c.b.mdN (reduxStep c.b.mdN) fun v _ => reduxOut c.b.mdN (v.getD 0 0)

/-- R150. Scan over each tile in a fixed order. -/
def execScan (x : Body) (s : State) : Out :=
  run (.scan x) s fun c s =>
    let op := c.b.mdN % 16
    c.tiles s op (scanStep op) fun v i =>
      reduxOut op (if c.b.md.getLsbD 4 then (if i = 0 then reduxId op else v.getD (i - 1) 0) else v.getD i 0)

/-- R151. The lanes of the tile that hold the same value. -/
def execMatchLanes (x : Body) (s : State) : Out :=
  run (.matchLanes x) s fun c s => c.fixed s (c.toD fun l =>
    (c.tileMates l).foldl (fun w m => if c.regA s m = c.regA s l then w + 2 ^ (m - tileBase c.x.tile l) else w) 0)

/-- R151. Broadcast one lane of the tile. -/
def execBcast (x : Body) (s : State) : Out :=
  run (.bcast x) s fun c s => c.fixed s (c.toD fun l =>
    let m := tileBase c.x.tile l + c.lastB s false 32 l % c.x.tile
    if c.con.getLsbD m then c.regA s m else 0)

end Sys2Proof.Machine
end

