-- ==== Sys2Proof/Machine/Package.lean ====
section
/-! DEFINITION. Package.lean: invalidation, power, reset and boot, attestation, service operations, die-to-die modules and
the twin link (21 R392, R402 to R417; 23 R437 to R446). -/

namespace Sys2Proof.Machine

/-! ## The IOMMU's commands (R402, R406) -/

/-- Whether an invalidation names a TLB entry. -/
def IoInval.hits (v : IoInval) (e : TlbEntry) : Bool :=
  match v with
  | .vma p a => (p == none || p == some e.pscid) && (match a with | none => true | some a => a / 2 ^ e.bits == e.page)
  | _ => false

/-- The PSCID of a context, as far as the walker holds it. -/
def State.pscidOf (s : State) (ctx : Nat) : Option Nat :=
  (s.m.iommu.procs.find? fun p => p.pid == (s.ctx ctx).pasid).map ProcCtx.pscid

/-- Cached translations and process contexts that an invalidation names are dropped, and lines of code with them (R168). -/
def State.applyInval (s : State) (v : IoInval) : State :=
  match v with
  | .vma p _ =>
    { s with m := { s.m with tlb := s.m.tlb.filter fun e => !v.hits e } }.dropFetched fun _ l _ =>
      match p, s.pscidOf l.ctx with
      | some a, some b => a == b
      | _, _ => true
  | .ddt => s.mapMem fun m => { m with iommu := { m.iommu with pdtp := none, procs := [] } }
  | .pdt pid => s.mapMem fun m => { m with iommu := { m.iommu with procs := m.iommu.procs.filter fun p => p.pid != pid } }

/-- An invalidation is applied, and remembered until the next IOFENCE.C. -/
def State.invalidate (s : State) (v : IoInval) : State :=
  (s.applyInval v).mapMem fun m => { m with iommu := { m.iommu with inval := m.iommu.inval ++ [v] } }

/-- R402. IOTINVAL.VMA: `ctx` is 0 for every PSCID, else the PSCID + 1; `size` is 0 for every address. -/
def execIotinvalVma (ctx addr size : Nat) (s : State) : Out :=
  .next (s.invalidate (.vma (if ctx = 0 then none else some (ctx - 1)) (if size = 0 then none else some addr)))

/-- R402. IODIR.INVAL_DDT of the device. -/
def execIodirInvalDdt (dev : Nat) (s : State) : Out := if dev = s.pk.topo.devid then .next (s.invalidate .ddt) else .next s

/-- R402. IODIR.INVAL_PDT of one process. -/
def execIodirInvalPdt (dev pid : Nat) (s : State) : Out :=
  if dev = s.pk.topo.devid then .next (s.invalidate (.pdt pid)) else .next s

/-- Every access that has translated and is not performed yet: those of the waves, in the order in which they issued, and the
supervisors' stores. -/
def State.settleAll (s : State) : State :=
  let s1 := s.settle fun _ _ _ => true
  s1.co.sups.foldl (fun (s : State) p => p.2.sq.foldl (fun s _ => s.superLeave p.1) s) s1

/-- Whether stores that a wave holds back in its transaction have translated through an entry that an invalidation names: they are neither
performed nor discarded before the transaction ends (R190, R406). -/
def State.fenceHeld (s : State) : Bool :=
  s.waves.any fun p => !p.2.txn.buf.isEmpty && s.m.iommu.inval.any fun v =>
    match v with
    | .vma none _ => true
    | .vma (some a) _ => match s.pscidOf (s.ctxNo p.2) with | some b => a == b | none => true
    | _ => false

/-- The covered accesses are performed, nothing stale is held, and the completion word is written (R406). -/
def State.fenceDone (s : State) (addr val : Nat) : State :=
  let vs := s.m.iommu.inval
  let s1 := if vs.isEmpty then s else s.settleAll
  let s2 := (vs.foldl State.applyInval s1).mapMem fun m => { m with iommu := { m.iommu with inval := [] } }
  if addr ≠ 0 ∧ s2.inMemory addr then s2.sysStore addr (leBytesOf 4 val) else s2

/-- R406. IOFENCE.C completes, or waits for the transactions that hold stores it covers. -/
def execIofenceC (addr val : Nat) (s : State) : Out :=
  .next <| if s.fenceHeld then s.mapMem fun m => { m with iommu := { m.iommu with fences := m.iommu.fences ++ [(addr, val)] } }
    else s.fenceDone addr val

/-- Each IOFENCE.C that waits completes, once nothing it covers is held back. -/
def State.fencesDone (s : State) : State :=
  if s.fenceHeld then s
  else s.m.iommu.fences.foldl (fun s f => s.fenceDone f.1 f.2) (s.mapMem fun m => { m with iommu := { m.iommu with fences := [] } })

/-- The command queue stops at an error: bit 8 a memory fault, bit 10 an illegal command. -/
def Iommu.cqStop (i : Iommu) (bit : Nat) : Iommu :=
  { i with cqcsr := i.cqcsr + 2 ^ bit, ipsr := if i.cqcsr.testBit 1 && !i.ipsr.testBit 0 then i.ipsr + 1 else i.ipsr }

/-- Whether the command queue has a command to process. -/
def Iommu.commands (i : Iommu) : Bool :=
  i.cqcsr.testBit 16 && !i.cqcsr.testBit 8 && !i.cqcsr.testBit 10 && i.cqh != i.cqt && i.fences.isEmpty

/-- What a command of two words does; none for one that the walker does not have (R402; its encodings are the standard's, log entry 13). -/
def ioCommand (w0 w1 : Nat) (s : State) : Option Out :=
  match w0 % 128, w0 / 128 % 8 with
  | 1, 0 =>
    some (execIotinvalVma (if w0.testBit 32 then bitsOf w0 31 12 + 1 else 0) (bitsOf w1 61 10 * 4096) (bitsOf w0 10 10) s)
  | 2, 0 => some (execIofenceC (if w0.testBit 10 then bitsOf w1 61 0 * 4 else 0) (bitsOf w0 63 32) s)
  | 3, 0 => some (execIodirInvalDdt (if w0.testBit 33 then bitsOf w0 63 40 else s.pk.topo.devid) s)
  | 3, 1 => if w0.testBit 33 then some (execIodirInvalPdt (bitsOf w0 63 40) (bitsOf w0 31 12) s) else none
  | _, _ => none

/-- The command at the head of the command queue is processed. -/
def State.ioProcess (s : State) : State :=
  let i := s.m.iommu
  let at' := ringBase i.cqb + 16 * i.cqh
  if !i.commands then s
  else if !s.inMemory at' ∨ s.m.poisoned at' 16 then s.mapMem fun m => { m with iommu := i.cqStop 8 }
  else
    let bs := s.sysBytes at' 16
    let s1 := s.mapMem fun m => { m with iommu := { i with cqh := (i.cqh + 1) % ringSize i.cqb } }
    match ioCommand (leVal (bs.take 8)) (leVal (bs.drop 8)) s1 with
    | some (.next t) => t
    | _ => s.mapMem fun m => { m with iommu := i.cqStop 10 }

/-! ## Power and clock (R407) -/

/-- A value brought into a range. -/
def clamp (lo hi v : Nat) : Nat := min hi (max lo v)

/-- LIMIT as a write leaves it. -/
def State.limitOf (s : State) (v : Nat) : Nat := clamp s.pk.flash.pmin s.pk.flash.pmax (clamp 600 900 (v % 1024))

/-- R407, R408. -/
def execPowerLimitWrite (val : Nat) (s : State) : Out :=
  if s.devReady then .next { s with pk := { s.pk with power := { s.pk.power with limit := s.limitOf val } } } else .next s

/-- R407. One step of 25 MHz between 800 and 2,000. -/
def execClockStep (mhz : Nat) (s : State) : Out :=
  let c := s.pk.power.clkmhz
  if (mhz = c + 25 ∨ mhz + 25 = c) ∧ 800 ≤ mhz ∧ mhz ≤ 2000 then
    .next { s with pk := { s.pk with power := { s.pk.power with clkmhz := mhz, stepAt := s.timeNs } } }
  else .next s

/-- The step the clock may take: down while the draw is above the limit, up otherwise (R8, R407). -/
def Power.step (p : Power) : Option Nat :=
  if p.limit < p.draww then (if 800 < p.clkmhz then some (p.clkmhz - 25) else none)
  else if p.clkmhz < 2000 then some (p.clkmhz + 25) else none

/-- DRAWW, the draw averaged over a millisecond, takes a new value as one ends; which one is open (R407; log entry 45). -/
def State.meter (s : State) : State :=
  { s with free := s.free + 1
           pk := { s.pk with power := { s.pk.power with draww := Config.openValue s.free % 65536, stepAt := s.timeNs } } }

/-- A step down that is due: each is made within 10 µs (R407). -/
def State.stepDue (s : State) : Option Nat :=
  let p := s.pk.power
  if p.limit < p.draww ∧ p.stepAt + 10000 ≤ s.timeNs then p.step else none

/-! ## Topology (R394, R413) -/

/-- A message on vector 0. -/
def State.message (s : State) : State := { s with pk := { s.pk with msix := s.pk.msix ++ [0] } }

/-- The topology block changes: GEN rises, and vector 0 announces it. -/
def State.announce (s : State) (f : Topo → Topo) : State :=
  State.message { s with pk := { s.pk with topo := { f s.pk.topo with gen := (s.pk.topo.gen + 1) % 2 ^ 32 } } }

/-- A firmware event. -/
def State.firmwareEvent (s : State) : State := State.message { s with pk := { s.pk with fwEvent := true } }

/-- A bit of a mask set or cleared. -/
def setBit (m i : Nat) (on : Bool) : Nat := if m.testBit i = on then m else if on then m + 2 ^ i else m - 2 ^ i

/-- Cores of the clusters of a mask (R413). -/
def coresIn (clusters cores : Nat) : Nat := cores &&& (List.range 32).foldl (fun a q => if clusters.testBit q then a + 15 * 2 ^ (4 * q) else a) 0

/-- How many bits are set. -/
def ones (m n : Nat) : Nat := ((List.range n).filter fun i => m.testBit i).length

/-! ## Boot and reset (R408, R409, R411) -/

/-- The module's identity: helper data, SHA3-256 and the unclonable function's response give the seed of its key pair (R410). -/
def Flash.identity (f : Flash) : Nat × Nat := Config.mldsaKeys (Config.sha3 [Config.pufResponse, f.helper])

/-- An entry of the retirement log, signed by the identity key (R411). -/
def Flash.signed (f : Flash) (e : Nat) : Nat × Nat := (e, Config.mldsaSign f.identity.1 [e])

/-- The entries of the retirement log that verify (R411). -/
def Flash.verified (f : Flash) : List Nat := (f.log.filter fun e => e == f.signed e.1).map Prod.fst

/-- The shipped sets without what the verified entries of the retirement log name. -/
def Flash.clustersNow (f : Flash) : Nat := (f.verified.filter (· < 32)).foldl (fun m q => setBit m q false) f.clusters
def Flash.channelsNow (f : Flash) : Nat := (f.verified.filter (· ≥ 256)).foldl (fun m k => setBit m (k - 256) false) f.channels

/-- An image is accepted: its signature verifies and its version is at least the floor of its kind (R411). -/
def Flash.accepts (f : Flash) (i : Image) : Bool := i.sigOk && decide (f.floors.getD i.kind 0 ≤ i.version)

/-- The dies whose management core starts on a patch: the last one accepted, on every die (R408). -/
def Flash.patches (f : Flash) : List (Nat × Nat) :=
  match (f.images.filter fun i => f.accepts i && i.kind == 2).getLast? with
  | some i => (List.range 4).map fun die => (die, i.version)
  | none => []

/-- The topology at boot; the bit of a twin link that is up already stands. -/
def Topo.boot (t : Topo) (f : Flash) : Topo :=
  let size := 2 ^ 33 * ones f.channelsNow 96
  { t with memsize := size, memnext := size, clusters := f.clustersNow, cores := coresIn f.clustersNow f.cores, channels := f.channelsNow
           dlinks := 2 ^ 32 - 1, hlinks := 2 ^ 12 - 1, status := 1 + t.status / 2 % 2 * 2 }

/-- The fields of the configuration record that the model holds (R411). -/
def Flash.fields (f : Flash) : List Nat := [f.format, f.serial, f.clusters, f.cores, f.channels, f.pmin, f.pmax] ++ f.floors ++ [f.rlog]

/-- R408, R411. The module boots: a record that does not verify leaves it in the boot state; else its sets come from the
record and the log, its identity is derived, every granule is in host bias, queue 0 is configured, management cores start on an accepted
patch, a rejected image is a firmware event, and DEVREADY is set. -/
def execPerstRelease (s : State) : Out :=
  if s.devReady then .next s
  else if !s.pk.flash.sigOk ∨ s.pk.flash.format ≠ 1 then .next s.firmwareEvent
  else
    let q0 : HostQ := { conf := true, base := s.pk.topo.mbase }
    let s := if s.pk.flash.images.all s.pk.flash.accepts then s else s.firmwareEvent
    .next (({ s with
      m := { s.m with bias := [] }
      co := { s.co with start := (List.range Config.cores).map fun c => (c, s.clock) }
      wk := { s.wk with hqs := mput s.wk.hqs 0 q0 }
      pk := { s.pk with power := { s.pk.power with limit := s.limitOf s.pk.power.limit }, identity := some s.pk.flash.identity, patches := s.pk.flash.patches
                        chans := s.pk.flash.channelsNow, moved := [] } } : State).announce fun t => t.boot s.pk.flash)

/-- R409. PERST#: contexts, queues and memory contents go; flash, what the host die places, and what was sent stay. -/
def execModuleReset (s : State) : Out :=
  let r := State.reset
  .next { r with
    pk := { r.pk with flash := s.pk.flash, msix := s.pk.msix
                      topo := { r.pk.topo with mbase := s.pk.topo.mbase, devid := s.pk.topo.devid } }
    agenda := s.agenda, stamp := s.stamp, free := s.free, hostRd := s.hostRd }

/-- R409. Every context is torn down, and every host queue is emptied. -/
def execFunctionLevelReset (s : State) : Out :=
  let s1 := s.endCmds 0 (2 ^ 18)
  let s2 := (List.range 256).foldl (fun s n => s.endCtx n) s1
  .next { s2 with wk := { s2.wk with hqs := s2.wk.hqs.map fun p =>
    if p.1 = 0 then (p.1, { p.2 with tail := 0, started := 0, completed := 0, busy := [] })
    else (p.1, { p.2 with conf := false, busy := [] }) } }

/-- R412. A nonce of 32 bytes is answered by a report: the nonce, the digests of the record, the log and every accepted image, the
topology as it stands, and a signature of all of it by the identity key. -/
def execAttestationRequest (val : Nat) (s : State) : Out :=
  if s.devReady then
    let t := s.pk.topo
    let body := [val % 2 ^ 256, Config.sha3 s.pk.flash.fields, Config.sha3 (s.pk.flash.log.flatMap fun e => [e.1, e.2])]
      ++ ((s.pk.flash.images.filter s.pk.flash.accepts).map fun i => Config.sha3 [i.body])
      ++ [t.mbase, t.memsize
                , t.clusters, t.cores, t.channels, t.dlinks, t.hlinks, t.status, t.gen, t.memnext, t.devid]
    .next { s with
      pk := { s.pk with report := body ++ [Config.mldsaSign (s.pk.identity.getD (0, 0)).1 body] } }
  else .next s

/-! ## Service (R414 to R417) -/

/-- SVCSTAT.STATE. -/
def State.svc (s : State) (n : Nat) : State := { s with pk := { s.pk with svc := n } }

/-- The mould of SVCCMD: a request while one runs, or for a unit not in the state it requires, is refused and changes nothing
else; that STATE then reads refused until the operation that runs ends is deduced (log entry 37). -/
def State.service (s : State) (ok : Bool) (f : State) : Out :=
  if !s.devReady then .next s else if s.pk.svc = 1 ∨ s.pk.offline.isSome ∨ !ok then .next (s.svc 3) else .next f

/-- Keys of a map whose entries satisfy a test. -/
def keysWhere {α : Type} (m : Map α) (p : Nat → α → Bool) : List Nat := (m.filter fun x => p x.1 x.2).map Prod.fst

/-- A bind of a cluster that goes: every block of it is saved (R416). -/
def State.saveAll (s : State) (key : Nat) : State :=
  match s.bind key with
  | none => s
  | some b =>
    if b.state = 1 ∨ b.state = 2 ∨ b.state = 3 then
      let s1 := s.putBind key { b with state := 3, back := 4 }
      ((keysWhere s1.wk.blocks fun _ t => t.bind == key && !t.saving).foldl (fun s id => s.beginSave id) s1).saveEnds key
    else s

/-- Whether a block lives on a cluster. -/
def Block.on (t : Block) (q : Nat) : Bool := clusterOf (t.cores.headD 0) == q

/-- A core's caches are emptied, its dirty lines first. -/
def State.flushCore (s : State) (core : Nat) : State :=
  let s1 := (s.m.linesOf core).foldl (fun s l => s.expel core l) s
  ({ s1 with m := { s1.m with tlb := s1.m.tlb.filter fun e => e.unit != core } } : State).dropFetched fun c _ _ => c == core

/-- Records held by the queues and bins of a cluster end RETIRED (R416). -/
def State.endRecords (s : State) (q status : Nat) : State :=
  let s1 := (keysWhere s.wk.tqs fun k _ => k / 64 == q).foldl (fun s k => s.endQueue k status) s
  (keysWhere s1.wk.nbins fun k _ => k / 256 == q).foldl (fun s k => s.endBin k status) s1

/-- The supervisor's stores of a core leave their queue, and the core loses power. -/
def State.stopSup (s : State) (core : Nat) : State :=
  let s1 := (s.sup core).sq.foldl (fun (s : State) _ => s.superLeave core) s
  { s1 with co := { s1.co with sups := mdel s1.co.sups core } }

/-- The last steps of taking a cluster offline: its records, its supervisors, its L1s, its bits. -/
def State.gate (s : State) (q : Nat) : State :=
  let s1 := (List.range 4).foldl (fun s i => (s.stopSup (4 * q + i)).flushCore (4 * q + i)) (s.endRecords q 0x84)
  ({ s1 with pk := { s1.pk with offline := none } } : State).announce fun t =>
    { t with clusters := setBit t.clusters q false, cores := coresIn (setBit t.clusters q false) t.cores }

/-- R416. Taking a cluster offline: first its binds are saved; once no block is left on it, it is gated. -/
def execSvcClusterOffline (q : Nat) (s : State) : Out :=
  if s.pk.offline = some q then
    if s.wk.blocks.any fun p => p.2.on q then .next s else .next ((s.gate q).svc 2)
  else
    s.service (decide (q < Config.clusters) && s.pk.topo.clusters.testBit q) <|
      let s1 : State := { s with pk := { s.pk with offline := some q, svc := 1 } }
      (keysWhere s1.wk.binds fun k b => b.cluster k == q).foldl (fun s k => s.saveAll k) s1

/-- R416. What the cores and the units of a cluster held is cleared. -/
def State.clearCluster (s : State) (q : Nat) : State :=
  let cs := [4 * q, 4 * q + 1, 4 * q + 2, 4 * q + 3]
  { s with
    wk := { s.wk with
      hgrids := s.wk.hgrids.filter fun p => p.1 / 16 != q
      tqs := s.wk.tqs.filter fun p => p.1 / 64 != q
      nbins := s.wk.nbins.filter fun p => p.1 / 256 != q
      queries := s.wk.queries.filter fun p => p.1 / 64 != q
      dbgs := mdel s.wk.dbgs q }
    co := { s.co with
      rf := s.co.rf.filter fun p => !cs.contains (p.1 / 131072)
      rfBad := s.co.rfBad.filter fun p => !cs.contains (p.1 / 131072)
      sp := s.co.sp.filter fun p => !cs.contains (p.1 / 2 ^ 18)
      spBad := s.co.spBad.filter fun p => !cs.contains (p.1 / 2 ^ 17)
      spRels := s.co.spRels.filter fun p => !cs.contains (p.1 / 2 ^ 18)
      sups := s.co.sups.filter fun p => !cs.contains p.1
      start := cs.foldl (fun m c => mput m c s.clock) s.co.start
      errstat := cs.foldl (fun m c => mdel m c) s.co.errstat } }

/-- R416. A cluster comes online, cleared. -/
def execSvcClusterOnline (q : Nat) (s : State) : Out :=
  s.service (decide (q < Config.clusters) && s.pk.flash.clustersNow.testBit q && !s.pk.topo.clusters.testBit q) <|
    ((s.clearCluster q).announce fun t =>
      let cl := setBit t.clusters q true
      { t with clusters := cl, cores := t.cores ||| coresIn (2 ^ q) s.pk.flash.cores }).svc 2

/-- R417. A channel starts to retire. -/
def execSvcRetireChannel (ch : Nat) (s : State) : Out :=
  s.service (decide (ch < 96) && s.pk.topo.channels.testBit ch && s.pk.retiring.isNone) <|
    (({ s with pk := { s.pk with retiring := some ch } } : State).announce fun t =>
      { t with status := setBit t.status 2 true, memnext := t.memsize - 2 ^ 33 }).svc 2

/-- Lines that move are held by their home hub alone: every device cache writes them back and drops them, and every host copy of them
is invalidated (R417). -/
def State.recallLines (s : State) (p : Nat → Bool) : State :=
  let s1 := ((s.m.l1.map Prod.fst).filter fun k => p (k / 128)).foldl (fun s k => s.expel (k % 128) (k / 128)) s
  let s2 := (s1.l2ToMem fun a => p (lineOf a)).slcToMem fun a => p (lineOf a)
  s2.mapMem fun m => { m with snoop := m.snoop.filter fun l => !p l }

/-- R417, R411. The retirement goes on: the lines of the channel below MEMNEXT move, memory shrinks, and the log takes an entry. No
address changes. -/
def execSvcProceedRetirement (ch : Nat) (s : State) : Out :=
  s.service (s.pk.retiring == some ch) <|
    let t := s.pk.topo
    let s1 := s.recallLines fun l => s.channel (128 * l) == ch && decide (128 * l < t.mbase + t.memnext)
    (({ s1 with pk := { s1.pk with retiring := none, moved := (ch, t.memnext / 128) :: s1.pk.moved, flash := { s1.pk.flash with log := s1.pk.flash.log ++ [s1.pk.flash.signed (256 + ch)] } } } : State).announce
      fun t => { t with memsize := t.memnext, channels := setBit t.channels ch false, status := setBit t.status 2 false }).svc 2

/-- R417. A channel retrains: its accesses are held, and none is lost. -/
def execSvcRetrainChannel (ch : Nat) (s : State) : Out :=
  s.service (decide (ch < 96) && s.pk.topo.channels.testBit ch) (s.svc 2)

/-- The patch of a handover's operand: its signature verifies where bit 8 is set, its version in bits 63:32, and what it holds above. -/
def patchOf (val : Nat) : Image := { kind := 2, version := bitsOf val 63 32, body := val / 2 ^ 64, sigOk := val.testBit 8 }

/-- The handover of one die: HANDOVER is set, the die's firmware gives way, HANDOVER is cleared (R415). -/
def State.handover (s : State) (die : Nat) (p : Image) : State :=
  (({ s with pk := { s.pk with patches := mput s.pk.patches die p.version } } : State).announce
    fun t => { t with status := setBit t.status 3 true }).announce fun t => { t with status := setBit t.status 3 false }

/-- The dies that UNIT names are handed over in turn, where their patch is accepted; what runs goes on. A rejected image is a firmware
event and a refusal, and changes nothing else (R411, R414, R415). -/
def State.handovers (s : State) (unit : Nat) (p : Image) : State :=
  if s.pk.flash.accepts p then
    ((if unit = 0xFF then [0, 1, 2, 3] else [unit]).foldl (fun s die => s.handover die p) s).svc 2
  else s.firmwareEvent.svc 3

/-- R411, R415. Dies are handed to a new patch: `val` is UNIT and the patch. -/
def execSvcFirmwareHandover (val : Nat) (s : State) : Out :=
  s.service (decide (val % 256 < 4) || val % 256 == 0xFF) <|
    let p := patchOf val
    let s1 := s.handovers (val % 256) p
    if s.pk.flash.accepts p then { s1 with pk := { s1.pk with flash := { s1.pk.flash with images := s1.pk.flash.images ++ [p] } } } else s1

/-! ## Die-to-die modules (R392) -/

/-- A die that lost every path to a hub goes out of service: its blocks are torn down, its records retire, its clusters
clear. -/
def State.dropDie (s : State) (die : Nat) : State :=
  let s1 := (keysWhere s.wk.binds fun k b => k / 256 == die && b.state != 0).foldl (fun s k => s.abortBind k) s
  let s2 := (List.range 8).foldl (fun s i => s.endRecords (8 * die + i) 0x84) s1
  (List.range 32).foldl (fun s i => s.flushCore (32 * die + i)) s2

/-- R392. A module fails and is retired: 0 to 31 as DLINKS numbers them, 32 on the bits of HLINKS. -/
def execUcieModuleFailure (link : Nat) (s : State) : Out :=
  if link < 32 then
    if !s.pk.topo.dlinks.testBit link then .next s
    else
      let d := setBit s.pk.topo.dlinks link false
      if bitsOf d (link / 4 * 4 + 3) (link / 4 * 4) ≠ 0 then .next (s.announce fun t => { t with dlinks := d })
      else
        let die := link / 8
        .next ((s.dropDie die).announce fun t =>
          let cl := t.clusters - bitsOf t.clusters (8 * die + 7) (8 * die) * 2 ^ (8 * die)
          { t with dlinks := d, clusters := cl, cores := coresIn cl t.cores })
  else if link < 44 ∧ s.pk.topo.hlinks.testBit (link - 32) then
    .next (s.announce fun t => { t with hlinks := setBit t.hlinks (link - 32) false })
  else .next s

/-! ## The twin link (R437 to R440, R445, R446) -/

def State.modTwin (s : State) (f : Twin → Twin) : State := { s with pk := { s.pk with twin := f s.pk.twin } }

/-- The transition to DOWN: every collective taken ends LINK_DOWN, every send without an answer is undecided, and the
topology says so. -/
def State.linkDown (s : State) (why : Nat) : State :=
  if s.pk.twin.state = 0 then s
  else
    let up := s.pk.twin.state = 2
    let s1 := if up then s.pk.colls.foldl (fun s c => (s.partColl c.2).finishColl c.1 c.2 0x89) s else s
    let sends := if up then s1.pk.peerSends else []
    let s2 := sends.foldl (fun (s : State) d => match d.w with | some w => s.sendAnswer w false | none => s) s1
    let s3 : State := { s2 with pk := { s2.pk with peerSends := if up then [] else s2.pk.peerSends } }
    (s3.modTwin fun t =>
      { t with state := 0, why := why, lanes := 0, rank := 0, run := 0, downAt := s.timeNs
               drops := if up then min (t.drops + 1) 0xFFFF else t.drops, doubt := min (t.doubt + sends.length) 0xFFFF }).announce
      fun t => { t with status := setBit t.status 1 false }

/-- The link starts training, when EN lets it (R438). -/
def State.startTraining (s : State) : State :=
  if s.pk.twin.en ∧ s.pk.twin.state = 0 then s.modTwin fun t => { t with state := 1 } else s

/-- TWINCTL takes the link DOWN with reason 5, which a link that is DOWN already takes as its reason (R440). -/
def State.twinDown (s : State) : State :=
  if s.pk.twin.state = 0 then s.modTwin fun t => { t with why := 5 } else s.linkDown 5

/-- R440. A write of EN, with RETRAIN in bit 1: EN 0 takes the link DOWN with reason 5. -/
def execTwinEnable (val : Nat) (s : State) : Out :=
  let s1 := s.modTwin fun t => { t with en := val.testBit 0 }
  if !s.devReady then .next s
  else if !(val.testBit 0) then .next s1.twinDown
  else if val.testBit 1 then .next s1.twinDown.startTraining
  else .next s1

/-- R440. RETRAIN: DOWN with reason 5, then training at once. -/
def execTwinRetrain (s : State) : Out := if s.devReady then .next s.twinDown.startTraining else .next s

/-- R438, R439. Training ends: `ok` has 1 in bits 3:0 for a W9 peer of the same layer version, with the lanes in bits 11:4
and the peer's SERIAL above; else bits 3:0 are the reason of R440. -/
def execLinkTrainingComplete (ok : Nat) (s : State) : Out :=
  if s.pk.twin.state ≠ 1 then .next s
  else if ok % 16 ≠ 1 then .next (s.linkDown (if 2 ≤ ok % 16 ∧ ok % 16 ≤ 7 then ok % 16 else 2))
  else
    let mine := s.pk.flash.serial
    let peer := ok / 2 ^ 12
    if mine = peer then .next (s.linkDown 7)
    else
      .next ((s.modTwin fun t => { t with state := 2, lanes := bitsOf ok 11 4, rank := if mine < peer then 0 else 1, run := 0 }).announce
        fun t => { t with status := setBit t.status 1 true })

/-- R446. The link drops, for one of the reasons 1 to 7 of R440. -/
def execLinkDownEvent (why : Nat) (s : State) : Out := if 1 ≤ why ∧ why ≤ 7 then .next (s.linkDown why) else .next s

/-- R438. With EN 1 a link that is DOWN starts training again after 1 ms; the first time it does not wait. -/
def execLinkAutoRetrain (s : State) : Out :=
  let t := s.pk.twin
  if t.state = 0 ∧ (t.why = 0 ∨ t.downAt + 1000000 ≤ s.timeNs) then .next s.startTraining else .next s

/-- R437, R438. A flit is replayed: `n` is 0 for another flit than the last one replayed. Sixteen replays of one flit in a
row take the link DOWN. -/
def execFlitReplay (n : Nat) (s : State) : Out :=
  if s.pk.twin.state ≠ 2 then .next s
  else
    let run := if n = 0 then 1 else s.pk.twin.run + 1
    let s1 := s.modTwin fun t => { t with replays := min (t.replays + 1) 0xFFFF, run := run }
    .next (if run ≥ 16 then s1.linkDown 1 else s1)

end Sys2Proof.Machine
end

