-- ==== Sys2Proof/Machine/Pred.lean ====
section
/-! DEFINITION. Pred.lean: the operations on lane predicates (04 R107, R108). -/

namespace Sys2Proof.Machine

/-- Bit l of kD from bits l of A and B, for each contributor (R108). -/
def predEff (f : Bool → Bool → Bool) (c : Issue) (s : State) : Eff :=
  let a := c.k s c.b.a.toNat
  let b := c.k s c.b.b.toNat
  c.fixed s (c.lanes.map fun l => .k c.b.d.toNat l (f (a.getLsbD l) (b.getLsbD l)))

/-- R108. Predicate and. -/
def execKand (x : Body) (s : State) : Out := run (.kand x) s (predEff fun a b => a && b)

/-- R108. Predicate or. -/
def execKor (x : Body) (s : State) : Out := run (.kor x) s (predEff fun a b => a || b)

/-- R108. Predicate exclusive or. -/
def execKxor (x : Body) (s : State) : Out := run (.kxor x) s (predEff fun a b => xor a b)

/-- R108. Predicate not. -/
def execKnot (x : Body) (s : State) : Out := run (.knot x) s (predEff fun a _ => !a)

/-- R108. Predicate move. -/
def execKmov (x : Body) (s : State) : Out := run (.kmov x) s (predEff fun a _ => a)

/-- R108. Bits of an s register moved to a predicate. -/
def execKmovKS (x : Body) (s : State) : Out :=
  run (.kmovKS x) s fun c s =>
    let a := c.s s c.b.a.toNat
    c.fixed s (c.lanes.map fun l => .k c.b.d.toNat l (a.getLsbD l))

/-- R108. A whole predicate moved to an s register. -/
def execKmovSK (x : Body) (s : State) : Out :=
  run (.kmovSK x) s fun c s => c.fixed s [.s c.b.d.toNat (c.k s c.b.a.toNat)]

end Sys2Proof.Machine
end

