-- ==== Sys2Proof/Machine/Registers.lean ====
section
/-! DEFINITION. Registers.lean: reads of registers, and writes to those that have no behaviour of their own (07 R162, R163, R169 to
R171; 09 R219, R227; 11 R263, R270 to R273; 13 R284, R290; 18 R344; 21 R395, R396, R402, R407, R413, R414; 23 R440). -/

namespace Sys2Proof.Machine

/-! ## Descriptors as records of bits -/

/-- A task-queue descriptor's 256 bits (R284). -/
def TQ.pack (t : TQ) : Nat :=
  joinBits [(192, t.ovbase), (128, t.kdesc), (112, t.rtail), (96, t.rhead), (80, t.fails), (75, t.rlog2), (64, t.held.length), (54, t.shead)
           , (50, t.slog2), (40, t.sbase), (38, t.bank), (31, t.prio), (27, t.depth), (26, t.valid.toNat), (0, t.ctx)]

/-- A descriptor written: the records that its slots keep stay. -/
def TQ.unpack (t : TQ) (v : Nat) : TQ :=
  { ovbase := bitsOf v 255 192, kdesc := bitsOf v 191 128, rtail := bitsOf v 127 112, rhead := bitsOf v 111 96, fails := bitsOf v 95 80
    rlog2 := min (bitsOf v 79 75) 15, shead := bitsOf v 63 54, slog2 := min (bitsOf v 53 50) 10, sbase := bitsOf v 49 40, bank := bitsOf v 39 38
    prio := bitsOf v 37 31, depth := bitsOf v 30 27, valid := v.testBit 26, ctx := bitsOf v 7 0, held := t.held.take (bitsOf v 74 64), back := t.back }

/-- A bin descriptor's 256 bits (R290). -/
def NBin.pack (n : NBin) : Nat :=
  joinBits [(192, n.kdesc), (128, n.lbase), (112, n.fails), (96, n.held.length), (86, n.timer), (80, n.cntm1), (76, n.llog2), (64, n.lused.length)
           , (54, n.shead), (50, n.slog2), (40, n.sbase), (38, n.bank), (31, n.prio), (30, n.trl.toNat), (29, n.trun.toNat), (28, n.valid.toNat)
           , (0, n.ctx)]

def NBin.unpack (n : NBin) (v now : Nat) : NBin :=
  { kdesc := bitsOf v 255 192, lbase := bitsOf v 191 128, fails := bitsOf v 127 112, held := n.held.take (bitsOf v 106 96)
    timer := bitsOf v 95 86, cntm1 := bitsOf v 85 80, llog2 := min (bitsOf v 79 76) 8, lused := n.lused.take (bitsOf v 72 64)
    shead := bitsOf v 63 54, slog2 := min (bitsOf v 53 50) 10, sbase := bitsOf v 49 40, bank := bitsOf v 39 38, prio := bitsOf v 37 31
    trl := v.testBit 30, trun := v.testBit 29, valid := v.testBit 28, ctx := bitsOf v 7 0
    timerAt := if v.testBit 29 && !n.trun then now else n.timerAt, fired := n.fired }

/-- A bind record's 512 bits; CMD reads 0 (R344). -/
def Bind.pack (b : Bind) : Nat :=
  joinBits [(448, b.kdesc), (384, b.arg), (352, b.gx), (336, b.gy), (320, b.gz), (272, b.next), (224, b.past), (208, b.run), (192, b.item)
           , (184, b.ctx), (177, b.prio), (170, b.cap), (154, b.age), (150, b.state), (145, b.src), (137, b.srcn), (134, b.clus)
           , (130, b.cmask), (129, b.disc.toNat), (128, b.swz.toNat), (117, b.scr), (104, b.rbase), (100, b.rlog), (93, b.sems)
           , (87, b.cb), (80, b.cn), (69, b.bars), (68, b.tbl.toNat), (64, b.depth), (0, b.save)]

/-- The RW fields of a record written; RUN and STATE stay (R344). The rein floor of another context goes (R346). -/
def Bind.unpack (b : Bind) (v : Nat) : Bind :=
  { b with
    kdesc := bitsOf v 511 448, arg := bitsOf v 447 384, gx := bitsOf v 383 352, gy := bitsOf v 351 336, gz := bitsOf v 335 320
    next := bitsOf v 319 272, past := bitsOf v 271 224, item := bitsOf v 207 192, ctx := bitsOf v 191 184, prio := bitsOf v 183 177
    cap := bitsOf v 176 170, age := bitsOf v 169 154, src := bitsOf v 146 145, srcn := bitsOf v 144 137, clus := bitsOf v 136 134
    cmask := bitsOf v 133 130, disc := v.testBit 129, swz := v.testBit 128, scr := bitsOf v 127 117, rbase := bitsOf v 116 104
    rlog := bitsOf v 103 100, sems := bitsOf v 99 93, cb := bitsOf v 92 87, cn := bitsOf v 86 80, bars := bitsOf v 79 69
    tbl := v.testBit 68, depth := bitsOf v 67 64, save := bitsOf v 63 0
    floor := if bitsOf v 191 184 = b.ctx then b.floor else 0 }

/-- What CMD does (R345). -/
def bindCommand (key cmd : Nat) (s : State) : Out :=
  match cmd with
  | 0 => .next s
  | 1 => execCmdRun key s
  | 2 => execCmdPause key s
  | 3 => execCmdSave key s
  | 4 => execCmdRestore key s
  | 5 => execCmdTeardown key s
  | c => execCmdUnassigned key c s

/-- The management core writes the slot table: fields other than CMD take effect in EMPTY, PAUSED, SAVED and DONE; then the
dispatch hardware acts on CMD (R344, R345). -/
def slotTableWrite (addr size val : Nat) (s : State) : Out :=
  let key := addr / 64
  let b := (s.bind key).getD {}
  let v := spliceBits b.pack (addr % 64) size val
  let cmd := bitsOf (spliceBits 0 (addr % 64) size val) 149 147
  let s1 := if b.state = 0 ∨ b.state = 2 ∨ b.state = 4 ∨ b.state = 5 then s.putBind key (b.unpack v) else s
  if key < 1024 then bindCommand key cmd s1 else .next s

/-! ## The wave record (R170) -/

/-- A number spliced into a word. -/
def spliceTo (w : Word) (off n v : Nat) : Word := BitVec.ofNat 32 (spliceBits w.toNat off n v)

/-- Bytes of a stopped wave's record written; only RW fields take them. -/
def Wave.record (x : Wave) (o size val : Nat) : Wave :=
  if 0x8 ≤ o ∧ o < 0xC then x.writeWcw (spliceTo x.wcw (o - 8) size val)
  else if 0x20 ≤ o ∧ o < 0x30 then
    x.mapLanes fun l y =>
      let i := l / 2
      if o - 0x20 ≤ i ∧ i < o - 0x20 + size then { y with ep := val / 2 ^ (8 * (i - (o - 0x20)) + 4 * (l % 2)) % 16 } else y
  else if 0x60 ≤ o ∧ o < 0x80 then
    (List.range ((size + 3) / 4)).foldl (fun (x : Wave) i =>
      let n := (o - 0x60) / 4 + i
      if n = 0 ∨ n > 7 then x
      else { x with k := cput x.k n 0#32 (spliceTo (cget x.k n 0#32) (o % 4) (min size 4) (val / 2 ^ (32 * i))) }) x
  else if 0x100 ≤ o ∧ o < 0x200 then
    (List.range ((size + 3) / 4)).foldl (fun (x : Wave) i =>
      let n := (o - 0x100) / 4 + i
      if n > 63 then x else x.swrite n (spliceTo (x.sread n) (o % 4) (min size 4) (val / 2 ^ (32 * i)))) x
  else if 0x200 ≤ o ∧ o < 0x300 then
    x.mapLanes fun l y =>
      if l = (o - 0x200) / 8 then { y with pc := BitVec.ofNat 64 (spliceBits y.pc.toNat (o % 8) size val / 2 * 2) } else y
  else x

/-! ## The debug unit (R271 to R273) -/

/-- DBGCTL written: DCTX and DEN, then CMD. -/
def State.writeDbgctl (s : State) (q v : Nat) : State :=
  let d := s.dbg q
  let s1 := s.putDbg q { d with dctx := bitsOf v 19 12, den := v.testBit 0 }
  match bitsOf v 29 28 with
  | 1 => s1.debugResume q
  | 2 => s1.debugStep q (bitsOf v 21 20) (bitsOf v 27 22)
  | _ => s1

/-- A watchpoint's or breakpoint's address and control word; HITS takes nothing. -/
def Watch.write (p : Watch) (mask o size val : Nat) : Watch :=
  if o < 8 then { p with addr := spliceBits p.addr o size val }
  else if o < 12 then { p with ctl := spliceBits p.ctl (o - 8) size val &&& mask }
  else p

/-- A write to the debug unit's registers. -/
def State.writeDebug (s : State) (q o size val : Nat) : State :=
  let d := s.dbg q
  if o < 4 then s.writeDbgctl q (spliceBits (d.dctx * 2 ^ 12 + d.den.toNat) o size val)
  else if 0x100 ≤ o ∧ o < 0x140 then
    let i := (o - 0x100) / 16
    s.putDbg q { d with watch := d.watch.set i ((d.watch.getD i {}).write 0x01FFFF00 (o % 16) size val) }
  else if 0x140 ≤ o ∧ o < 0x180 then
    let i := (o - 0x140) / 16
    s.putDbg q { d with brk := d.brk.set i ((d.brk.getD i {}).write 1 (o % 16) size val) }
  else s

/-! ## A core's window (R162, R163) -/

/-- A physical register written while the wave that holds it is stopped (R170). -/
def State.writePhysReg (s : State) (core o size val : Nat) : State :=
  let row := o / 0x20000
  let r := o % 0x20000 / 128
  match s.waves.find? fun p => deviceRow p.1 == 4 * core + row && p.2.gmap.contains (r / 8) with
  | some (w, x) =>
    if x.run = .stopped then s.regWrite w x.uid (8 * x.gmap.idxOf (r / 8) + r % 8) (o % 128 / 4) (o % 4) (leBytesOf size val) else s
  | none => s

/-- A bin as the management core writes it: the descriptor it names supplies its count and timer (R418). -/
def State.binSupply (s : State) (n : NBin) : NBin :=
  match s.peek n.ctx 4 n.kdesc with
  | some (_, k) => n.ofKernel k
  | none => n

/-- The whole word of WCMD that a write at an offset of a wave record gives, if it writes one (R170). -/
def wcmdOf (o size val : Nat) : Option Nat :=
  if o = 4 ∧ size = 4 then some (val % 2 ^ 32) else if o = 0 ∧ size = 8 then some (val / 2 ^ 32 % 2 ^ 32) else none

/-- A write at a window offset by a core's supervisor or the management core of the die. -/
def State.writeWindow (s : State) (core : Nat) (sup : Bool) (o size val : Nat) : State :=
  if o < 0x80000 then s.writePhysReg core o size val
  else if o < 0x100000 then
    if !sup then s
    else
      let w := 64 * core + (o - 0x80000) / 0x2000
      match s.wave w with
      | some x => s.regWrite w x.uid (o % 0x2000 / 128) (o % 128 / 4) (o % 4) (leBytesOf size val)
      | none => s
  else if o < 0x140000 then
    let k := 2 ^ 18 * core + (o - 0x100000)
    (((atAddrs k (leBytesOf size val)).foldl (fun s p => s.spPut p.1 p.2) s).spCleanse k size).spRelease k size
      (if sup then (s.sup core).fences core else [])
  else if 0x200000 ≤ o ∧ o < 0x300000 then
    if !sup then s
    else
      match s.gridOnCore core with
      | some (g, h) => s.putGrid g (h.write (o - 0x200000) (leBytesOf size val))
      | none => s
  else if 0x300000 ≤ o ∧ o < 0x300900 then
    let q := clusterOf core
    if !sup || ((s.sup core).handling.map Stop.ctx) == some (s.dbg q).dctx then s.writeDebug q (o - 0x300000) size val else s
  else if o / 8 = 0x300900 / 8 then
    if !sup && val == 0 then { s with co := { s.co with errstat := mdel s.co.errstat core } } else s
  else if 0x301000 ≤ o ∧ o < 0x311000 then
    let w := 64 * core + (o - 0x301000) / 0x400
    match s.wave w with
    | some x =>
      if wcmdOf (o % 0x400) size val = some 1 then s.wcmd w
      else if x.run = .stopped then s.putWave w (x.record (o % 0x400) size val)
      else s
    | none => s
  else if 0x320000 ≤ o ∧ o < 0x320800 then
    let n := 64 * clusterOf core + (o - 0x320000) / 32
    let t := (mget s.wk.tqs n).getD {}
    if sup then s else s.putTq n (t.unpack (spliceBits t.pack (o % 32) size val))
  else if 0x321000 ≤ o ∧ o < 0x323000 then
    let n := 256 * clusterOf core + (o - 0x321000) / 32
    let b := (mget s.wk.nbins n).getD {}
    if sup then s else s.putBin n ((s.binSupply (b.unpack (spliceBits b.pack (o % 32) size val) s.timeNs)).settle)
  else s

/-! ## The host's registers (R395, R396, R402) -/

/-- The state after a write that always has one. -/
def after (f : State → Out) (s : State) : State :=
  match f s with
  | .next t => t
  | _ => s

/-- A control and status register of an IOMMU queue: bits 0 and 1 as written, the errors of `w1c` that are written 1 cleared, bit 16 on with
bit 0. -/
def queueCsr (old w1c val : Nat) : Nat := val % 4 + (old &&& (w1c - (val &&& w1c))) + val % 2 * 2 ^ 16

/-- A write of the IOMMU's register set, as the standard lays it out (R402; log entry 13). A queue that is turned on is empty. -/
def Iommu.write (i : Iommu) (o size val : Nat) : Iommu :=
  let base := fun (r at' : Nat) => let v := spliceBits r (o - at') size val; v % 32 + bitsOf v 53 10 * 2 ^ 10
  if 0x10 ≤ o ∧ o < 0x18 then
    let v := spliceBits i.ddtp (o - 0x10) size val
    { i with ddtp := v % 16 + bitsOf v 53 10 * 2 ^ 10, pdtp := none, procs := [] }
  else if 0x18 ≤ o ∧ o < 0x20 then { i with cqb := base i.cqb 0x18 }
  else if 0x24 ≤ o ∧ o < 0x28 then { i with cqt := spliceBits i.cqt (o - 0x24) size val % ringSize i.cqb }
  else if 0x28 ≤ o ∧ o < 0x30 then { i with fqb := base i.fqb 0x28 }
  else if 0x30 ≤ o ∧ o < 0x34 then { i with fqh := spliceBits i.fqh (o - 0x30) size val % ringSize i.fqb }
  else if o = 0x48 then
    let on := val.testBit 0 && !i.cqcsr.testBit 0
    { i with cqcsr := queueCsr (if on then 0 else i.cqcsr) 0xF00 val, cqh := if on then 0 else i.cqh, cqt := if on then 0 else i.cqt }
  else if o = 0x4C then
    let on := val.testBit 0 && !i.fqcsr.testBit 0
    { i with fqcsr := queueCsr (if on then 0 else i.fqcsr) 0x300 val, fqh := if on then 0 else i.fqh, fqt := if on then 0 else i.fqt }
  else if o = 0x54 then { i with ipsr := i.ipsr &&& (3 - (val &&& 3)) }
  else i

/-- The capabilities that R402 gives: version 1.0, Sv48 and Sv57, Svpbmt, hardware updates of A and D, process IDs of 8, 17 and 20 bits, and
addresses of 56. -/
def ioCapabilities : Nat :=
  joinBits [(0, 0x10), (10, 1), (11, 1), (15, 1), (24, 1), (32, 56), (38, 7)]

/-- The IOMMU's registers, as one number of their bytes. -/
def Iommu.block (i : Iommu) : Nat :=
  joinBits [(0, ioCapabilities), (8 * 0x10, i.ddtp), (8 * 0x18, i.cqb), (8 * 0x20, i.cqh), (8 * 0x24, i.cqt), (8 * 0x28, i.fqb), (8 * 0x30, i.fqh)
           , (8 * 0x34, i.fqt), (8 * 0x48, i.cqcsr), (8 * 0x4C, i.fqcsr), (8 * 0x54, i.ipsr)]

/-- A write of SVCCMD (R414): each starts the operation that OP names. An operation that goes on is no state in which another starts; OP 6
hands over to the patch that flash holds (log entry 37). -/
def State.writeSvccmd (s : State) (v : Nat) : State :=
  let u := v % 256
  match v / 2 ^ 28 % 16 with
  | 1 => if s.pk.offline.isSome then s.svc 3 else after (execSvcClusterOffline u) s
  | 2 => after (execSvcClusterOnline u) s
  | 3 => after (execSvcRetireChannel u) s
  | 4 => after (execSvcProceedRetirement u) s
  | 5 => after (execSvcRetrainChannel u) s
  | 6 =>
    match (s.pk.flash.images.filter fun i => i.kind == 2).getLast? with
    | some p => after (fun s => s.service (decide (u < 4) || u == 0xFF) (s.handovers u p)) s
    | none => s.svc 3
  | _ => s

/-- BAR2: page configurations, the IOMMU's register set, power, mailbox, service and twin link. -/
def State.writeBar2 (s : State) (o size val : Nat) : State :=
  if 0x100000 ≤ o ∧ o < 0x100000 + 16 * 2047 then
    let q := (o - 0x100000) / 16
    let p := mgetD s.wk.hqs q {}
    if o % 16 ≥ 4 then s
    else
      let v := spliceBits (p.dbsender + p.pageCtx * 2 ^ 16 + p.valid.toNat * 2 ^ 24) (o % 16) size val
      { s with wk := { s.wk with hqs := mput s.wk.hqs q { p with dbsender := v % 2 ^ 16, pageCtx := bitsOf v 23 16, valid := v.testBit 24 } } }
  else if o < 0x1000 then
    s.mapMem fun m => { m with iommu :=
      if 0x20 ≤ o ∧ o ≠ 0x28 ∧ size = 8 then (m.iommu.write o 4 (val % 2 ^ 32)).write (o + 4) 4 (val / 2 ^ 32) else m.iommu.write o size val }
  else if o / 8 = 0x1000 / 8 then after (execPowerLimitWrite (spliceBits s.pk.power.limit (o - 0x1000) size val)) s
  else if o / 32 = 0x3000 / 32 then
    let m := spliceBits s.pk.mailbox (o - 0x3000) size val
    let s1 : State := { s with pk := { s.pk with mailbox := m } }
    if o + size = 0x3020 then after (execAttestationRequest m) s1 else s1
  else if o = 0x4000 ∧ size ≥ 4 then s.writeSvccmd (val % 2 ^ 32)
  else if o = 0x5000 then after (execTwinEnable (val % 4)) s
  else s

/-- BAR0: RPAY of a page. -/
def State.writeBar0 (s : State) (o size val : Nat) : State :=
  let page := o / 4096
  match s.openPage page with
  | some _ => if 8 ≤ o % 4096 ∧ o % 4096 < 16 then s.modHq page fun q => { q with rpay := spliceBits q.rpay (o % 4096 - 8) size val } else s
  | none => s

/-- R170, R344, R395. A write of `size` bytes: `who` 0 is the host at a BAR2 offset, 1 the supervisor of a core in a handler and
2 a management core at a window address, 3 a management core at slot 64·(256·die + s) of its table, 4 the host at a BAR0
offset. Accesses are of 1, 2, 4 or 8 bytes, aligned. -/
def execRegisterWrite (who addr size val : Nat) (s : State) : Out :=
  if !(size == 1 || size == 2 || size == 4 || size == 8) || addr % size != 0 then .next s
  else
    let core := (addr - windowBase) / 0x400000
    let o := (addr - windowBase) % 0x400000
    match who with
    | 0 => .next (if s.devReady then s.writeBar2 addr size val else s)
    | 1 => .next (if inWindow addr && (s.sup core).handling.isSome then s.writeWindow core true o size val else s)
    | 2 => .next (if inWindow addr then s.writeWindow core false o size val else s)
    | 3 => slotTableWrite addr size val s
    | 4 => .next (if s.devReady then s.writeBar0 addr size val else s)
    | _ => .next s

/-! ## Reads (R162, R170, R395) -/

/-- The two words of an aligned 8-byte unit. -/
def pairOf (lo hi : Nat) : Nat := lo % 2 ^ 32 + hi % 2 ^ 32 * 2 ^ 32

/-- WSTAT.STATE of R171: a wave that waits for its producers has not stopped yet. -/
def Run.code : Run → Nat
  | .running | .stopping => 1
  | .stopped => 2
  | .saving => 3

/-- WSTAT of a resident wave (R171). -/
def State.wstat (s : State) (x : Wave) : Nat :=
  joinBits [(30, x.run.code), (29, (x.run == .stopped && (x.trapped || x.dbg)).toNat), (28, (x.run == .stopped && x.dbg).toNat), (22, x.gmap.length)
           , (8, x.widx % 256), (0, s.ctxNo x % 256)]

/-- Eight bytes of a slot's wave record (R170); a free slot's record holds nothing. -/
def State.waveWord (s : State) (w o : Nat) : Nat :=
  let bytes := fun (f : Nat → Nat) (n : Nat) => joinBits ((List.range n).map fun i => (8 * i, f i % 256))
  let x? := s.wave w
  let get := fun (f : Wave → Nat) => (x?.map f).getD 0
  if o = 0 then get s.wstat
  else if o = 8 then get fun x => pairOf x.wcwRead.toNat x.ts
  else if o = 0x10 then get fun x => pairOf (x.lanesIn .live).toNat (x.lanesIn .parked).toNat
  else if o = 0x18 then get fun x => (x.lanesIn .exited).toNat
  else if o = 0x20 ∨ o = 0x28 then get fun x => x.stv / 2 ^ (8 * (o - 0x20)) % 2 ^ 64
  else if o = 0x30 then get fun x => bytes (fun i => x.d.getD i 0) 6
  else if 0x40 ≤ o ∧ o < 0x60 then bytes (fun i => ((x?.bind fun x => x.gmap[o - 0x40 + i]?).getD 0xFF)) 8
  else if 0x60 ≤ o ∧ o < 0x80 then get fun x => pairOf (x.kread ((o - 0x60) / 4)).toNat (x.kread ((o - 0x60) / 4 + 1)).toNat
  else if 0x100 ≤ o ∧ o < 0x200 then get fun x => pairOf (x.sread ((o - 0x100) / 4)).toNat (x.sread ((o - 0x100) / 4 + 1)).toNat
  else if 0x200 ≤ o ∧ o < 0x300 then get fun x => (x.lane ((o - 0x200) / 8)).pc.toNat
  else if o = 0x300 then get s.frameAddr
  else if 0x308 ≤ o ∧ o < 0x328 then
    let e := fun i => ((x?.bind fun x => x.enrol[i]?).getD 0xFFFFFFFF)
    pairOf (e ((o - 0x308) / 4)) (e ((o - 0x308) / 4 + 1))
  else 0

/-- A mustering register's word (R219). -/
def HGrid.word (h : HGrid) : Nat :=
  if h.state = 0 then 0
  else joinBits [(56, h.ctx), (48, h.bslot), (39, h.expect), (30, h.signed.length), (28, h.state), (26, h.shape), (22, h.base), (17, h.accu)]

/-- DBGCTL: STATE, DCTX and DEN; while a STEP runs, STATE reads 1 (R271, R320). -/
def Dbg.ctl (d : Dbg) : Nat := joinBits [(30, if d.stepRun then 1 else d.state), (12, d.dctx), (0, d.den.toNat)]

/-- A watchpoint's or breakpoint's words: the address, then the control word with HITS above it (R272, R273). -/
def Watch.word (p : Watch) (o : Nat) : Nat := if o = 0 then p.addr else pairOf p.ctl p.hits

/-- Eight bytes of the core-control region at an offset from 0x30_0000 (R162, R170). -/
def State.controlWord (s : State) (core o : Nat) : Nat :=
  let q := clusterOf core
  let d := s.dbg q
  if o = 0 then d.ctl
  else if o = 8 then d.stat
  else if 0x100 ≤ o ∧ o < 0x140 then (d.watch.getD ((o - 0x100) / 16) {}).word (o % 16)
  else if 0x140 ≤ o ∧ o < 0x180 then (d.brk.getD ((o - 0x140) / 16) {}).word (o % 16)
  else if 0x800 ≤ o ∧ o < 0x880 then (s.hgrid (16 * q + (o - 0x800) / 8)).word
  else if o = 0x900 then mgetD s.co.errstat core 0
  else if o = 0xA00 then ((s.sup core).queue.head?.map Stop.word).getD 0
  else if 0x1000 ≤ o ∧ o < 0x11000 then s.waveWord (64 * core + (o - 0x1000) / 0x400) (o % 0x400)
  else if 0x20000 ≤ o ∧ o < 0x20800 then
    ((mget s.wk.tqs (64 * q + (o - 0x20000) / 32)).getD {}).pack / 2 ^ (8 * (o % 32)) % 2 ^ 64
  else if 0x21000 ≤ o ∧ o < 0x23000 then
    ((mget s.wk.nbins (256 * q + (o - 0x21000) / 32)).getD {}).pack / 2 ^ (8 * (o % 32)) % 2 ^ 64
  else 0

/-- A byte of a core's window as its supervisor or the management core of the die reads it: 0 at a reserved offset and in a row that is
not open to the reader (R162, R227). -/
def State.windowByte (s : State) (core : Nat) (sup : Bool) (o : Nat) : Nat :=
  if o < 0x80000 then (cget s.co.rf (core * 131072 + o / 4) 0#32).toNat / 256 ^ (o % 4) % 256
  else if o < 0x100000 then
    if !sup then 0
    else
      let w := 64 * core + (o - 0x80000) / 0x2000
      let n := o % 0x2000 / 128
      match s.wave w with
      | some x => if n < 8 * x.gmap.length then (s.vread w x n (o % 128 / 4)).toNat / 256 ^ (o % 4) % 256 else 0
      | none => 0
  else if o < 0x140000 then (cget s.co.sp (2 ^ 18 * core + (o - 0x100000)) 0#8).toNat
  else if 0x200000 ≤ o ∧ o < 0x300000 then
    if !sup then 0 else ((s.gridOnCore core).bind fun g => g.2.byte (o - 0x200000)).elim 0 BitVec.toNat
  else if 0x300000 ≤ o then s.controlWord core ((o - 0x300000) / 8 * 8) / 256 ^ (o % 8) % 256
  else 0

/-- The topology block (R413). -/
def Topo.block (t : Topo) : Nat :=
  joinBits [(0, t.mbase), (64, t.memsize), (128, t.clusters), (256, t.cores), (384, t.channels), (512, t.dlinks), (544, t.hlinks)
           , (576, t.status), (608, t.gen), (640, t.memnext), (704, t.devid)]

/-- POWERCTL (R407). -/
def Power.word (p : Power) : Nat := joinBits [(48, p.draww), (27, p.clkmhz), (0, p.limit)]

/-- TWINSTAT (R440). -/
def Twin.word (t : Twin) : Nat :=
  joinBits [(48, t.doubt), (32, t.drops), (16, t.replays), (12, t.why), (4, t.lanes), (3, t.rank), (0, t.state)]

/-- A byte of BAR2; before DEVREADY only the topology answers (R394, R396, R402, R407, R408, R413, R414, R440). -/
def State.bar2Byte (s : State) (o : Nat) : Nat :=
  let at' := fun (word i : Nat) => word / 256 ^ i % 256
  if 0x2000 ≤ o ∧ o < 0x3000 then at' s.pk.topo.block (o - 0x2000)
  else if !s.devReady then 0
  else if o < 0x1000 then at' s.m.iommu.block o
  else if 0x1000 ≤ o ∧ o < 0x1008 then at' s.pk.power.word (o - 0x1000)
  else if 0x4008 ≤ o ∧ o < 0x400C then at' (s.pk.svc * 2 ^ 30) (o - 0x4008)
  else if 0x5000 ≤ o ∧ o < 0x5004 then at' s.pk.twin.en.toNat (o - 0x5000)
  else if 0x5008 ≤ o ∧ o < 0x5010 then at' s.pk.twin.word (o - 0x5008)
  else if 0x100000 ≤ o ∧ o < 0x100000 + 16 * 2047 ∧ o % 16 < 4 then
    let p := mgetD s.wk.hqs ((o - 0x100000) / 16) {}
    at' (p.dbsender + p.pageCtx * 2 ^ 16 + p.valid.toNat * 2 ^ 24) (o % 16)
  else 0

/-- RSTAT of a page (R395). -/
def HostQ.rstat (q : HostQ) : Nat := joinBits [(32, q.sends % 2 ^ 32), (30, q.result)]

/-- A byte of a doorbell page: 0 where the page's queue is not configured (R395). -/
def State.pageByte (s : State) (o : Nat) : Nat :=
  match s.openPage (o / 4096) with
  | none => 0
  | some q =>
    let i := o % 4096
    if 8 ≤ i ∧ i < 16 then q.rpay / 256 ^ (i - 8) % 256 else if 0x18 ≤ i ∧ i < 0x20 then q.rstat / 256 ^ (i - 0x18) % 256 else 0

/-- A byte of a die's slot table; CMD reads 0 (R344). -/
def State.slotByte (s : State) (o : Nat) : Nat := ((s.bind (o / 64)).getD {}).pack / 256 ^ (o % 64) % 256

/-- The value of n bytes. -/
def valueOf (f : Nat → Nat) (o n : Nat) : Nat := joinBits ((List.range n).map fun i => (8 * i, f (o + i) % 256))

/-- What a read of `size` bytes returns, by whom as REGISTER_WRITE says. -/
def State.readRegister (s : State) (who addr size : Nat) : Nat :=
  let core := (addr - windowBase) / 0x400000
  let o := (addr - windowBase) % 0x400000
  match who with
  | 0 => valueOf s.bar2Byte addr size
  | 1 => if inWindow addr then valueOf (s.windowByte core true) o size else 0
  | 2 => if inWindow addr then valueOf (s.windowByte core false) o size else 0
  | 3 => valueOf s.slotByte addr size
  | 4 => valueOf s.pageByte addr size
  | _ => 0

/-- The sends of a page that are on their way are handled, oldest first: a read of RSTAT passes none of them (R396). -/
def State.answerPage (s : State) (page : Nat) : State :=
  (List.range s.wk.sends.length).foldl (fun (s : State) _ =>
    match s.wk.sends.findIdx? fun d => d.page == some page with
    | some n => (match execReinRouterSend n s with | .next t => t | _ => s)
    | none => s) s

/-- R162, R263, R395, R396. A read of a register. One of TRAPQ takes the oldest stop. -/
def State.readBy (s : State) (who addr size : Nat) : State :=
  if !(size == 1 || size == 2 || size == 4 || size == 8) || addr % size != 0 then s
  else
    let core := (addr - windowBase) / 0x400000
    let o := (addr - windowBase) % 0x400000
    if (who = 1 ∨ who = 2) ∧ inWindow addr ∧ o = 0x300A00 ∧ size = 8 then
      match execTrapqRead core 8 s with
      | .next t => t
      | _ => s
    else
      let s1 := if who = 4 then s.answerPage (addr / 4096) else s
      let s2 := if who = 1 ∧ 0x100000 ≤ o ∧ o < 0x140000 then
        let k := 2 ^ 18 * core + (o - 0x100000)
        s1.putSup core { s1.sup core with heard := (List.range size).foldl (fun a i => joinRels a (cget s1.co.spRels (k + i) [])) (s1.sup core).heard }
        else s1
      { s2 with hostRd := s1.readRegister who addr size }

end Sys2Proof.Machine
end

