-- ==== Sys2Proof/Machine/Table.lean ====
section
/-! DEFINITION. Table.lean: the activation table and the random numbers (05 R140 to R146). -/

namespace Sys2Proof.Machine

/-- The pair a block holds on a core (R140). -/
def State.tblOf (s : State) (core blk : Nat) : Option (Nat × TblPair) :=
  s.co.tbls.find? fun p => p.1 / 8 == core && p.2.blk == blk

/-- A TBL instruction of a wave whose block holds a pair on its core; any other raises ILLEGAL_OPERAND. -/
def Issue.table (c : Issue) (s : State) (f : Nat → TblPair → Eff) : Eff :=
  match s.tblOf (coreOf c.w) c.x.blk with
  | none => .raise .illegalOperand c.act
  | some (k, p) => f k p

/-- The table's 256 reads, in ascending 4-byte units at any alignment (R143). -/
def tblWants (lane va : Nat) : List Want :=
  (List.range 256).map fun i => { lane := lane, va := (va + 4 * i) % 2 ^ 64, n := 4 }

/-- R143. Load a table into the unselected bank. -/
def execTblset (x : Body) (s : State) : Out :=
  run (.tblset x) s fun c s => c.table s fun k p =>
    let va := c.addr s c.low
    match s.checkGlobal (coreOf c.w) (s.ctxNo c.x) c.x.blk { kind := .load, align := 1, win := false } (tblWants c.low va) with
    | (s, .error t) => c.fault s { t with mask := c.con }
    | (s, .ok ps) =>
      let ps := ps.map fun q => { q with lane := 0, off := (q.va + 2 ^ 64 - va) % 2 ^ 64 }
      .go { s := s, work := some (.tblset k (1 - p.sel) ps []), parts := ps.map fun q => { q with lane := c.low } }

/-- R144. Flip the selected bank. -/
def execTblcommit (x : Body) (s : State) : Out :=
  run (.tblcommit x) s fun c s => c.table s fun k p =>
    .go { s := { s with co := { s.co with tbls := mput s.co.tbls k { p with sel := 1 - p.sel } } } }

/-- R145. Evaluate the table. -/
def execTbleval (x : Body) (s : State) : Out :=
  run (.tbleval x) s fun c s => c.table s fun k p =>
    .go { s := s, work := some (.tbleval k p.sel (c.lanes.map fun l => (l, BitVec.ofNat 32 (c.regA s l))) c.dstV) }

/-- R143. The bank is written once all bytes are read, in the issue order of the block's TBLSETs, after every older
TBLEVAL of the bank. -/
def execTblsetBankWrite (w n : Nat) (s : State) : Out :=
  match s.pendOf w n with
  | some (_, p) =>
    match p.work with
    | .tblset k bank [] got => .next (s.bankWrite w n k bank got)
    | _ => .next s
  | none => .next s

/-- R144, R145. A TBLEVAL is looked up, once no older TBLSET of its bank is pending. -/
def execTblevalResult (w n : Nat) (s : State) : Out :=
  match s.pendOf w n with
  | some (_, p) =>
    match p.work with
    | .tbleval k bank xs d => .next (s.tableLookup w n k bank xs d)
    | _ => .next s
  | none => .next s

/-- R146. Philox4x32-10. -/
def execRngx (x : Body) (s : State) : Out :=
  run (.rngx x) s fun c s =>
    let k0 := (c.s s c.b.a.toNat).toNat
    let k1 := (c.s s (c.b.a.toNat + 1)).toNat
    c.fixed s (c.toD fun l =>
      let b := c.regB s l
      let y := philox 10 (b % 2 ^ 32, b / 2 ^ 32 % 2 ^ 32, b / 2 ^ 64 % 2 ^ 32, b / 2 ^ 96) k0 k1
      y.1 + 2 ^ 32 * y.2.1 + 2 ^ 64 * y.2.2.1 + 2 ^ 96 * y.2.2.2)

end Sys2Proof.Machine
end

