-- ==== Sys2Proof/Machine/Dispatch.lean ====
section
/-! DEFINITION. Dispatch.lean: what each step does, one arm per constructor. -/

namespace Sys2Proof.Machine

/-- One step of the device: the effect of an instruction that the wave `cur` issues, or of an event. -/
def exec (i : Instr) (s : State) : Host.Outcome State Fault Refusal :=
  match i with
  | .mov x => Sys2Proof.Machine.execMov x s
  | .iadd x => Sys2Proof.Machine.execIadd x s
  | .isub x => Sys2Proof.Machine.execIsub x s
  | .iaddc x => Sys2Proof.Machine.execIaddc x s
  | .imul x => Sys2Proof.Machine.execImul x s
  | .imulh x => Sys2Proof.Machine.execImulh x s
  | .imad x => Sys2Proof.Machine.execImad x s
  | .imin x => Sys2Proof.Machine.execImin x s
  | .imax x => Sys2Proof.Machine.execImax x s
  | .iabs x => Sys2Proof.Machine.execIabs x s
  | .shl x => Sys2Proof.Machine.execShl x s
  | .shr x => Sys2Proof.Machine.execShr x s
  | .rot x => Sys2Proof.Machine.execRot x s
  | .and x => Sys2Proof.Machine.execAnd x s
  | .or x => Sys2Proof.Machine.execOr x s
  | .xor x => Sys2Proof.Machine.execXor x s
  | .andn x => Sys2Proof.Machine.execAndn x s
  | .bfe x => Sys2Proof.Machine.execBfe x s
  | .bfi x => Sys2Proof.Machine.execBfi x s
  | .popc x => Sys2Proof.Machine.execPopc x s
  | .clz x => Sys2Proof.Machine.execClz x s
  | .brev x => Sys2Proof.Machine.execBrev x s
  | .prmt x => Sys2Proof.Machine.execPrmt x s
  | .lea x => Sys2Proof.Machine.execLea x s
  | .icmp x => Sys2Proof.Machine.execIcmp x s
  | .sel x => Sys2Proof.Machine.execSel x s
  | .movU x => Sys2Proof.Machine.execMovU x s
  | .iaddU x => Sys2Proof.Machine.execIaddU x s
  | .isubU x => Sys2Proof.Machine.execIsubU x s
  | .iaddcU x => Sys2Proof.Machine.execIaddcU x s
  | .imulU x => Sys2Proof.Machine.execImulU x s
  | .imulhU x => Sys2Proof.Machine.execImulhU x s
  | .imadU x => Sys2Proof.Machine.execImadU x s
  | .iminU x => Sys2Proof.Machine.execIminU x s
  | .imaxU x => Sys2Proof.Machine.execImaxU x s
  | .iabsU x => Sys2Proof.Machine.execIabsU x s
  | .shlU x => Sys2Proof.Machine.execShlU x s
  | .shrU x => Sys2Proof.Machine.execShrU x s
  | .rotU x => Sys2Proof.Machine.execRotU x s
  | .andU x => Sys2Proof.Machine.execAndU x s
  | .orU x => Sys2Proof.Machine.execOrU x s
  | .xorU x => Sys2Proof.Machine.execXorU x s
  | .andnU x => Sys2Proof.Machine.execAndnU x s
  | .bfeU x => Sys2Proof.Machine.execBfeU x s
  | .bfiU x => Sys2Proof.Machine.execBfiU x s
  | .popcU x => Sys2Proof.Machine.execPopcU x s
  | .clzU x => Sys2Proof.Machine.execClzU x s
  | .brevU x => Sys2Proof.Machine.execBrevU x s
  | .prmtU x => Sys2Proof.Machine.execPrmtU x s
  | .leaU x => Sys2Proof.Machine.execLeaU x s
  | .icmpU x => Sys2Proof.Machine.execIcmpU x s
  | .selU x => Sys2Proof.Machine.execSelU x s
  | .fadd x => Sys2Proof.Machine.execFadd x s
  | .fsub x => Sys2Proof.Machine.execFsub x s
  | .fmul x => Sys2Proof.Machine.execFmul x s
  | .ffma x => Sys2Proof.Machine.execFfma x s
  | .ffma3 x => Sys2Proof.Machine.execFfma3 x s
  | .fmin x => Sys2Proof.Machine.execFmin x s
  | .fmax x => Sys2Proof.Machine.execFmax x s
  | .fcmp x => Sys2Proof.Machine.execFcmp x s
  | .fclass x => Sys2Proof.Machine.execFclass x s
  | .frnd x => Sys2Proof.Machine.execFrnd x s
  | .fcvt x => Sys2Proof.Machine.execFcvt x s
  | .icvt x => Sys2Proof.Machine.execIcvt x s
  | .hadd2 x => Sys2Proof.Machine.execHadd2 x s
  | .hmul2 x => Sys2Proof.Machine.execHmul2 x s
  | .hfma2 x => Sys2Proof.Machine.execHfma2 x s
  | .hmnx2 x => Sys2Proof.Machine.execHmnx2 x s
  | .fdot4 x => Sys2Proof.Machine.execFdot4 x s
  | .idot4 x => Sys2Proof.Machine.execIdot4 x s
  | .mxunpk x => Sys2Proof.Machine.execMxunpk x s
  | .mxpack x => Sys2Proof.Machine.execMxpack x s
  | .fexp2 x => Sys2Proof.Machine.execFexp2 x s
  | .flog2 x => Sys2Proof.Machine.execFlog2 x s
  | .frcp x => Sys2Proof.Machine.execFrcp x s
  | .frsq x => Sys2Proof.Machine.execFrsq x s
  | .fsqrt x => Sys2Proof.Machine.execFsqrt x s
  | .fsin x => Sys2Proof.Machine.execFsin x s
  | .fcos x => Sys2Proof.Machine.execFcos x s
  | .ftanh x => Sys2Proof.Machine.execFtanh x s
  | .ferf x => Sys2Proof.Machine.execFerf x s
  | .tblset x => Sys2Proof.Machine.execTblset x s
  | .tblcommit x => Sys2Proof.Machine.execTblcommit x s
  | .tbleval x => Sys2Proof.Machine.execTbleval x s
  | .rngx x => Sys2Proof.Machine.execRngx x s
  | .kand x => Sys2Proof.Machine.execKand x s
  | .kor x => Sys2Proof.Machine.execKor x s
  | .kxor x => Sys2Proof.Machine.execKxor x s
  | .knot x => Sys2Proof.Machine.execKnot x s
  | .kmov x => Sys2Proof.Machine.execKmov x s
  | .kmovKS x => Sys2Proof.Machine.execKmovKS x s
  | .kmovSK x => Sys2Proof.Machine.execKmovSK x s
  | .lpart x => Sys2Proof.Machine.execLpart x s
  | .shfl x => Sys2Proof.Machine.execShfl x s
  | .vote x => Sys2Proof.Machine.execVote x s
  | .redux x => Sys2Proof.Machine.execRedux x s
  | .scan x => Sys2Proof.Machine.execScan x s
  | .matchLanes x => Sys2Proof.Machine.execMatchLanes x s
  | .bcast x => Sys2Proof.Machine.execBcast x s
  | .bra x => Sys2Proof.Machine.execBra x s
  | .brx x ts => Sys2Proof.Machine.execBrx x ts s
  | .call x => Sys2Proof.Machine.execCall x s
  | .callx x ts => Sys2Proof.Machine.execCallx x ts s
  | .ret x => Sys2Proof.Machine.execRet x s
  | .yield x => Sys2Proof.Machine.execYield x s
  | .exit x => Sys2Proof.Machine.execExit x s
  | .kill x => Sys2Proof.Machine.execKill x s
  | .nop x => Sys2Proof.Machine.execNop x s
  | .waitd x => Sys2Proof.Machine.execWaitd x s
  | .trap x => Sys2Proof.Machine.execTrap x s
  | .bkpt x => Sys2Proof.Machine.execBkpt x s
  | .rcsr x => Sys2Proof.Machine.execRcsr x s
  | .wcsr x => Sys2Proof.Machine.execWcsr x s
  | .srd x => Sys2Proof.Machine.execSrd x s
  | .quotaGive x => Sys2Proof.Machine.execQuotaGive x s
  | .quotaRel x => Sys2Proof.Machine.execQuotaRel x s
  | .quotaTake x => Sys2Proof.Machine.execQuotaTake x s
  | .icinv x => Sys2Proof.Machine.execIcinv x s
  | .icinvAll x => Sys2Proof.Machine.execIcinvAll x s
  | .ld x => Sys2Proof.Machine.execLd x s
  | .st x => Sys2Proof.Machine.execSt x s
  | .lds x => Sys2Proof.Machine.execLds x s
  | .sts x => Sys2Proof.Machine.execSts x s
  | .ldw x => Sys2Proof.Machine.execLdw x s
  | .stw x => Sys2Proof.Machine.execStw x s
  | .pf x => Sys2Proof.Machine.execPf x s
  | .lda x => Sys2Proof.Machine.execLda x s
  | .stl x => Sys2Proof.Machine.execStl x s
  | .fence x => Sys2Proof.Machine.execFence x s
  | .clean x => Sys2Proof.Machine.execClean x s
  | .inval x => Sys2Proof.Machine.execInval x s
  | .atom x => Sys2Proof.Machine.execAtom x s
  | .atomf x => Sys2Proof.Machine.execAtomf x s
  | .red x => Sys2Proof.Machine.execRed x s
  | .mlres x => Sys2Proof.Machine.execMlres x s
  | .mlst x => Sys2Proof.Machine.execMlst x s
  | .mlcommit x => Sys2Proof.Machine.execMlcommit x s
  | .mlabort x => Sys2Proof.Machine.execMlabort x s
  | .barinit x => Sys2Proof.Machine.execBarinit x s
  | .barenrol x => Sys2Proof.Machine.execBarenrol x s
  | .bararv x => Sys2Proof.Machine.execBararv x s
  | .barwait x => Sys2Proof.Machine.execBarwait x s
  | .barsync x => Sys2Proof.Machine.execBarsync x s
  | .barq x => Sys2Proof.Machine.execBarq x s
  | .semadd x => Sys2Proof.Machine.execSemadd x s
  | .semwait x => Sys2Proof.Machine.execSemwait x s
  | .semset x => Sys2Proof.Machine.execSemset x s
  | .monarm x => Sys2Proof.Machine.execMonarm x s
  | .monwait x => Sys2Proof.Machine.execMonwait x s
  | .cpseal x => Sys2Proof.Machine.execCpseal x s
  | .cpwait x => Sys2Proof.Machine.execCpwait x s
  | .rsend x => Sys2Proof.Machine.execRsend x s
  | .rwait x => Sys2Proof.Machine.execRwait x s
  | .rtake x => Sys2Proof.Machine.execRtake x s
  | .rtakeAny x => Sys2Proof.Machine.execRtakeAny x s
  | .rmaskSet x => Sys2Proof.Machine.execRmaskSet x s
  | .rmaskClr x => Sys2Proof.Machine.execRmaskClr x s
  | .rmaskWr x => Sys2Proof.Machine.execRmaskWr x s
  | .hmust x => Sys2Proof.Machine.execHmust x s
  | .hrel x => Sys2Proof.Machine.execHrel x s
  | .hlda x => Sys2Proof.Machine.execHlda x s
  | .hldaNone x => Sys2Proof.Machine.execHldaNone x s
  | .hldb x => Sys2Proof.Machine.execHldb x s
  | .hswap x => Sys2Proof.Machine.execHswap x s
  | .hlds x => Sys2Proof.Machine.execHlds x s
  | .hmma x => Sys2Proof.Machine.execHmma x s
  | .hzero x => Sys2Proof.Machine.execHzero x s
  | .hrowsc x => Sys2Proof.Machine.execHrowsc x s
  | .hdrnReg x => Sys2Proof.Machine.execHdrnReg x s
  | .hdrnSp x => Sys2Proof.Machine.execHdrnSp x s
  | .hboxt x => Sys2Proof.Machine.execHboxt x s
  | .hstat x => Sys2Proof.Machine.execHstat x s
  | .tqpush x => Sys2Proof.Machine.execTqpush x s
  | .nrec x => Sys2Proof.Machine.execNrec x s
  | .launch x => Sys2Proof.Machine.execLaunch x s
  | .bqry x => Sys2Proof.Machine.execBqry x s
  | .bray x => Sys2Proof.Machine.execBray x s
  | .bstat x => Sys2Proof.Machine.execBstat x s
  | .sfuResultWrite w n => Sys2Proof.Machine.execSfuResultWrite w n s
  | .tblsetBankWrite w n => Sys2Proof.Machine.execTblsetBankWrite w n s
  | .tblevalResult w n => Sys2Proof.Machine.execTblevalResult w n s
  | .quotaSettle w n => Sys2Proof.Machine.execQuotaSettle w n s
  | .icinvComplete w n => Sys2Proof.Machine.execIcinvComplete w n s
  | .loadDataReturn w n => Sys2Proof.Machine.execLoadDataReturn w n s
  | .storeQueueLeave w => Sys2Proof.Machine.execStoreQueueLeave w s
  | .translationCheckResult w n => Sys2Proof.Machine.execTranslationCheckResult w n s
  | .fenceComplete w n => Sys2Proof.Machine.execFenceComplete w n s
  | .cacheMaintenanceComplete w n => Sys2Proof.Machine.execCacheMaintenanceComplete w n s
  | .sliceWordOperation w n line => Sys2Proof.Machine.execSliceWordOperation w n line s
  | .barrierStartComplete bar => Sys2Proof.Machine.execBarrierStartComplete bar s
  | .monitorEvent w => Sys2Proof.Machine.execMonitorEvent w s
  | .monwaitTimeout w => Sys2Proof.Machine.execMonwaitTimeout w s
  | .copyEntryTake core blk => Sys2Proof.Machine.execCopyEntryTake core blk s
  | .copyEntryComplete core blk idx => Sys2Proof.Machine.execCopyEntryComplete core blk idx s
  | .reinRouterSend n => Sys2Proof.Machine.execReinRouterSend n s
  | .refusedWriteback ctx => Sys2Proof.Machine.execRefusedWriteback ctx s
  | .gridSwitch g => Sys2Proof.Machine.execGridSwitch g s
  | .gridReleaseEnd g => Sys2Proof.Machine.execGridReleaseEnd g s
  | .hmmaComplete w n => Sys2Proof.Machine.execHmmaComplete w n s
  | .queueRefill q => Sys2Proof.Machine.execQueueRefill q s
  | .binTimerExpire q => Sys2Proof.Machine.execBinTimerExpire q s
  | .queryStart q => Sys2Proof.Machine.execQueryStart q s
  | .compareBatch q => Sys2Proof.Machine.execCompareBatch q s
  | .recordEmit q => Sys2Proof.Machine.execRecordEmit q s
  | .queryEnd q => Sys2Proof.Machine.execQueryEnd q s
  | .traceCacheFill w => Sys2Proof.Machine.execTraceCacheFill w s
  | .waveRetire w => Sys2Proof.Machine.execWaveRetire w s
  | .blockRetire blk => Sys2Proof.Machine.execBlockRetire blk s
  | .waveStopReport w => Sys2Proof.Machine.execWaveStopReport w s
  | .saveImageWrite blk => Sys2Proof.Machine.execSaveImageWrite blk s
  | .dbgStepDone w => Sys2Proof.Machine.execDbgStepDone w s
  | .instructionBreakpointHit w => Sys2Proof.Machine.execInstructionBreakpointHit w s
  | .clusterStopped q => Sys2Proof.Machine.execClusterStopped q s
  | .drainAcknowledge die core line => Sys2Proof.Machine.execDrainAcknowledge die core line s
  | .collectiveComplete key => Sys2Proof.Machine.execCollectiveComplete key s
  | .resultLanded w n => Sys2Proof.Machine.execResultLanded w n s
  | .scratchpadPass w n => Sys2Proof.Machine.execScratchpadPass w n s
  | .releaseComplete w n => Sys2Proof.Machine.execReleaseComplete w n s
  | .harnessCompletion w n => Sys2Proof.Machine.execHarnessCompletion w n s
  | .cMov x => Sys2Proof.Machine.execCMov x s
  | .cIadd x => Sys2Proof.Machine.execCIadd x s
  | .cIsub x => Sys2Proof.Machine.execCIsub x s
  | .cAnd x => Sys2Proof.Machine.execCAnd x s
  | .cOr x => Sys2Proof.Machine.execCOr x s
  | .cXor x => Sys2Proof.Machine.execCXor x s
  | .cShl x => Sys2Proof.Machine.execCShl x s
  | .cShr x => Sys2Proof.Machine.execCShr x s
  | .cFadd x => Sys2Proof.Machine.execCFadd x s
  | .cFsub x => Sys2Proof.Machine.execCFsub x s
  | .cFmul x => Sys2Proof.Machine.execCFmul x s
  | .cFmin x => Sys2Proof.Machine.execCFmin x s
  | .cFmax x => Sys2Proof.Machine.execCFmax x s
  | .cImul x => Sys2Proof.Machine.execCImul x s
  | .cImax x => Sys2Proof.Machine.execCImax x s
  | .cImin x => Sys2Proof.Machine.execCImin x s
  | .i32Mov x => Sys2Proof.Machine.execI32Mov x s
  | .i32Iadd x => Sys2Proof.Machine.execI32Iadd x s
  | .i32Isub x => Sys2Proof.Machine.execI32Isub x s
  | .i32Imul x => Sys2Proof.Machine.execI32Imul x s
  | .i32ImulhI32 x => Sys2Proof.Machine.execI32ImulhI32 x s
  | .i32ImulhN32 x => Sys2Proof.Machine.execI32ImulhN32 x s
  | .i32Imad x => Sys2Proof.Machine.execI32Imad x s
  | .i32IminI32 x => Sys2Proof.Machine.execI32IminI32 x s
  | .i32ImaxI32 x => Sys2Proof.Machine.execI32ImaxI32 x s
  | .i32IminN32 x => Sys2Proof.Machine.execI32IminN32 x s
  | .i32ImaxN32 x => Sys2Proof.Machine.execI32ImaxN32 x s
  | .i32Iabs x => Sys2Proof.Machine.execI32Iabs x s
  | .i32Shl x => Sys2Proof.Machine.execI32Shl x s
  | .i32Shr x => Sys2Proof.Machine.execI32Shr x s
  | .i32ShrA x => Sys2Proof.Machine.execI32ShrA x s
  | .i32Rot x => Sys2Proof.Machine.execI32Rot x s
  | .i32And x => Sys2Proof.Machine.execI32And x s
  | .i32Or x => Sys2Proof.Machine.execI32Or x s
  | .i32Xor x => Sys2Proof.Machine.execI32Xor x s
  | .i32Andn x => Sys2Proof.Machine.execI32Andn x s
  | .i32Popc x => Sys2Proof.Machine.execI32Popc x s
  | .i32Clz x => Sys2Proof.Machine.execI32Clz x s
  | .i32Brev x => Sys2Proof.Machine.execI32Brev x s
  | .i32Fadd x => Sys2Proof.Machine.execI32Fadd x s
  | .i32Fsub x => Sys2Proof.Machine.execI32Fsub x s
  | .i32Fmul x => Sys2Proof.Machine.execI32Fmul x s
  | .i32Ffma x => Sys2Proof.Machine.execI32Ffma x s
  | .i32Fmin x => Sys2Proof.Machine.execI32Fmin x s
  | .i32Fmax x => Sys2Proof.Machine.execI32Fmax x s
  | .i32FaddRtz x => Sys2Proof.Machine.execI32FaddRtz x s
  | .i32FmulRtz x => Sys2Proof.Machine.execI32FmulRtz x s
  | .i32FfmaRtz x => Sys2Proof.Machine.execI32FfmaRtz x s
  | .i32FrndRne x => Sys2Proof.Machine.execI32FrndRne x s
  | .i32FrndRdn x => Sys2Proof.Machine.execI32FrndRdn x s
  | .i32FrndRup x => Sys2Proof.Machine.execI32FrndRup x s
  | .i32FrndRtz x => Sys2Proof.Machine.execI32FrndRtz x s
  | .i32Hadd2F16 x => Sys2Proof.Machine.execI32Hadd2F16 x s
  | .i32Hmul2F16 x => Sys2Proof.Machine.execI32Hmul2F16 x s
  | .i32Hfma2F16 x => Sys2Proof.Machine.execI32Hfma2F16 x s
  | .i32Hadd2Bf16 x => Sys2Proof.Machine.execI32Hadd2Bf16 x s
  | .i32Hmul2Bf16 x => Sys2Proof.Machine.execI32Hmul2Bf16 x s
  | .i32Hfma2Bf16 x => Sys2Proof.Machine.execI32Hfma2Bf16 x s
  | .i32FcvtF32F16 x => Sys2Proof.Machine.execI32FcvtF32F16 x s
  | .i32FcvtF32Bf16 x => Sys2Proof.Machine.execI32FcvtF32Bf16 x s
  | .i32FcvtF16F32 x => Sys2Proof.Machine.execI32FcvtF16F32 x s
  | .i32FcvtBf16F32 x => Sys2Proof.Machine.execI32FcvtBf16F32 x s
  | .i32FcvtF32E4m3 x => Sys2Proof.Machine.execI32FcvtF32E4m3 x s
  | .i32FcvtF32E5m2 x => Sys2Proof.Machine.execI32FcvtF32E5m2 x s
  | .i32IcvtF32I32 x => Sys2Proof.Machine.execI32IcvtF32I32 x s
  | .i32IcvtF32N32 x => Sys2Proof.Machine.execI32IcvtF32N32 x s
  | .i32IcvtI32F32 x => Sys2Proof.Machine.execI32IcvtI32F32 x s
  | .i32IcvtN32F32 x => Sys2Proof.Machine.execI32IcvtN32F32 x s
  | .i32Fdot4E4m3 x => Sys2Proof.Machine.execI32Fdot4E4m3 x s
  | .i32Fdot4E5m2 x => Sys2Proof.Machine.execI32Fdot4E5m2 x s
  | .i32Idot4I8 x => Sys2Proof.Machine.execI32Idot4I8 x s
  | .i32Idot4N8 x => Sys2Proof.Machine.execI32Idot4N8 x s
  | .i32Hmnx2MinF16 x => Sys2Proof.Machine.execI32Hmnx2MinF16 x s
  | .i32Hmnx2MaxF16 x => Sys2Proof.Machine.execI32Hmnx2MaxF16 x s
  | .i32Hmnx2MinBf16 x => Sys2Proof.Machine.execI32Hmnx2MinBf16 x s
  | .i32Hmnx2MaxBf16 x => Sys2Proof.Machine.execI32Hmnx2MaxBf16 x s
  | .i32FaddRdn x => Sys2Proof.Machine.execI32FaddRdn x s
  | .i32FaddRup x => Sys2Proof.Machine.execI32FaddRup x s
  | .i32FmulRdn x => Sys2Proof.Machine.execI32FmulRdn x s
  | .i32FmulRup x => Sys2Proof.Machine.execI32FmulRup x s
  | .queueLaunch q bind => Sys2Proof.Machine.execQueueLaunch q bind s
  | .binLaunch q bind => Sys2Proof.Machine.execBinLaunch q bind s
  | .blockStart bind cluster => Sys2Proof.Machine.execBlockStart bind cluster s
  | .trapqRead core size => Sys2Proof.Machine.execTrapqRead core size s
  | .wcmdResume w => Sys2Proof.Machine.execWcmdResume w s
  | .ecallDone core => Sys2Proof.Machine.execEcallDone core s
  | .ecallTeardown core a0 => Sys2Proof.Machine.execEcallTeardown core a0 s
  | .ecallEscalate core => Sys2Proof.Machine.execEcallEscalate core s
  | .supervisorException core code => Sys2Proof.Machine.execSupervisorException core code s
  | .cmdRun bind => Sys2Proof.Machine.execCmdRun bind s
  | .cmdPause bind => Sys2Proof.Machine.execCmdPause bind s
  | .cmdSave bind => Sys2Proof.Machine.execCmdSave bind s
  | .cmdRestore bind => Sys2Proof.Machine.execCmdRestore bind s
  | .cmdTeardown bind => Sys2Proof.Machine.execCmdTeardown bind s
  | .cmdUnassigned bind code => Sys2Proof.Machine.execCmdUnassigned bind code s
  | .blockRestore img cluster => Sys2Proof.Machine.execBlockRestore img cluster s
  | .preemption bind => Sys2Proof.Machine.execPreemption bind s
  | .priorityAgingStep bind => Sys2Proof.Machine.execPriorityAgingStep bind s
  | .dbgResume q => Sys2Proof.Machine.execDbgResume q s
  | .dbgStep q core slot => Sys2Proof.Machine.execDbgStep q core slot s
  | .uncorrectableError core arr off => Sys2Proof.Machine.execUncorrectableError core arr off s
  | .correctableError core arr off => Sys2Proof.Machine.execCorrectableError core arr off s
  | .errstatClear core => Sys2Proof.Machine.execErrstatClear core s
  | .doorbellTail page val => Sys2Proof.Machine.execDoorbellTail page val s
  | .doorbellRsend page val => Sys2Proof.Machine.execDoorbellRsend page val s
  | .doorbellIrqArm page val => Sys2Proof.Machine.execDoorbellIrqArm page val s
  | .hostLaunch hq => Sys2Proof.Machine.execHostLaunch hq s
  | .hostCopy hq => Sys2Proof.Machine.execHostCopy hq s
  | .hostSignalWrite hq => Sys2Proof.Machine.execHostSignalWrite hq s
  | .hostSignalAdd hq => Sys2Proof.Machine.execHostSignalAdd hq s
  | .hostWait hq => Sys2Proof.Machine.execHostWait hq s
  | .hostWaitTimeout hq => Sys2Proof.Machine.execHostWaitTimeout hq s
  | .ctxcfgInstall hq => Sys2Proof.Machine.execCtxcfgInstall hq s
  | .ctxcfgTeardown hq => Sys2Proof.Machine.execCtxcfgTeardown hq s
  | .ctxcfgCreateQueue hq => Sys2Proof.Machine.execCtxcfgCreateQueue hq s
  | .reincfg hq => Sys2Proof.Machine.execReincfg hq s
  | .biasflipToHost hq => Sys2Proof.Machine.execBiasflipToHost hq s
  | .biasflipToDevice hq => Sys2Proof.Machine.execBiasflipToDevice hq s
  | .hostFence hq => Sys2Proof.Machine.execHostFence hq s
  | .hostDataRead addr size => Sys2Proof.Machine.execHostDataRead addr size s
  | .hostDataWrite addr size val => Sys2Proof.Machine.execHostDataWrite addr size val s
  | .iotinvalVma ctx addr size => Sys2Proof.Machine.execIotinvalVma ctx addr size s
  | .iofenceC addr val => Sys2Proof.Machine.execIofenceC addr val s
  | .iodirInvalDdt dev => Sys2Proof.Machine.execIodirInvalDdt dev s
  | .iodirInvalPdt dev pid => Sys2Proof.Machine.execIodirInvalPdt dev pid s
  | .powerLimitWrite val => Sys2Proof.Machine.execPowerLimitWrite val s
  | .clockStep mhz => Sys2Proof.Machine.execClockStep mhz s
  | .perstRelease => Sys2Proof.Machine.execPerstRelease s
  | .moduleReset => Sys2Proof.Machine.execModuleReset s
  | .functionLevelReset => Sys2Proof.Machine.execFunctionLevelReset s
  | .attestationRequest val => Sys2Proof.Machine.execAttestationRequest val s
  | .svcClusterOffline q => Sys2Proof.Machine.execSvcClusterOffline q s
  | .svcClusterOnline q => Sys2Proof.Machine.execSvcClusterOnline q s
  | .svcRetireChannel ch => Sys2Proof.Machine.execSvcRetireChannel ch s
  | .svcProceedRetirement ch => Sys2Proof.Machine.execSvcProceedRetirement ch s
  | .svcRetrainChannel ch => Sys2Proof.Machine.execSvcRetrainChannel ch s
  | .svcFirmwareHandover val => Sys2Proof.Machine.execSvcFirmwareHandover val s
  | .ucieModuleFailure link => Sys2Proof.Machine.execUcieModuleFailure link s
  | .twinEnable val => Sys2Proof.Machine.execTwinEnable val s
  | .twinRetrain => Sys2Proof.Machine.execTwinRetrain s
  | .linkTrainingComplete ok => Sys2Proof.Machine.execLinkTrainingComplete ok s
  | .linkDownEvent why => Sys2Proof.Machine.execLinkDownEvent why s
  | .linkAutoRetrain => Sys2Proof.Machine.execLinkAutoRetrain s
  | .collectiveMatch key opc rcode rtype len src => Sys2Proof.Machine.execCollectiveMatch key opc rcode rtype len src s
  | .peerReinArrival val => Sys2Proof.Machine.execPeerReinArrival val s
  | .peerReinAnswer n ok => Sys2Proof.Machine.execPeerReinAnswer n ok s
  | .registerWrite who addr size val => Sys2Proof.Machine.execRegisterWrite who addr size val s
  | .cacheEviction core line => Sys2Proof.Machine.execCacheEviction core line s
  | .supervisorStore core addr size val => Sys2Proof.Machine.execSupervisorStore core addr size val s
  | .badCommand hq => Sys2Proof.Machine.execBadCommand hq s
  | .flitReplay n => Sys2Proof.Machine.execFlitReplay n s

end Sys2Proof.Machine
end

