-- ==== Sys2Proof/Machine/Hart.lean ====
section
/-! DEFINITION. Hart.lean: the core supervisor's hart, which runs the code of a handler (07 R169; 11 R262 to R264; 19 R361). The encodings
and the effects of RV64IMAC, Zicsr and Zifencei are those of the published standard that the spec names (log entry 47). -/

namespace Sys2Proof.Machine

/-! ## Instructions -/

/-- Operations of registers and immediates. -/
inductive RvAlu where
  | add | sub | sll | slt | sltu | xor | srl | sra | or | and
  | mul | mulh | mulhsu | mulhu | div | divu | rem | remu
deriving DecidableEq, Repr

/-- Relations of branches. -/
inductive RvRel where
  | eq | ne | lt | ge | ltu | geu
deriving DecidableEq, Repr

/-- Operations of atomic instructions. -/
inductive RvAmo where
  | swap | add | xor | and | or | min | max | minu | maxu
deriving DecidableEq, Repr

/-- The instructions that a handler may run; `w` is the form of 32 bits, `n` a size in bytes, and registers are numbers. -/
inductive Rv where
  | lui (rd : Nat) (imm : BitVec 64)
  | auipc (rd : Nat) (imm : BitVec 64)
  | jal (rd : Nat) (off : BitVec 64)
  | jalr (rd rs : Nat) (off : BitVec 64)
  | branch (rel : RvRel) (r1 r2 : Nat) (off : BitVec 64)
  | load (n : Nat) (unsigned : Bool) (rd rs : Nat) (off : BitVec 64)
  | store (n : Nat) (rs src : Nat) (off : BitVec 64)
  | opImm (op : RvAlu) (w : Bool) (rd rs : Nat) (imm : BitVec 64)
  | op (op : RvAlu) (w : Bool) (rd r1 r2 : Nat)
  | fence
  | fenceI
  | ecall
  | ebreak
  | wfi
  | csr (kind : Nat) (imm : Bool) (rd src num : Nat)
  | lr (n : Nat) (order : Nat) (rd rs : Nat)
  | sc (n : Nat) (order : Nat) (rd rs src : Nat)
  | amo (op : RvAmo) (n : Nat) (order : Nat) (rd rs src : Nat)
deriving DecidableEq, Repr

/-- The low `n` bits of a number as a signed one. -/
def rvSigned (n v : Nat) : BitVec 64 := (BitVec.ofNat n v).signExtend 64

/-- A field gathered from bits of an encoding: each pair takes bits hi to lo, the first pair at bit 0. -/
def rvGather (x : Nat) (fs : List (Nat × Nat)) : Nat :=
  (fs.foldl (fun (a : Nat × Nat) f => (a.1 + bitsOf x f.1 f.2 * 2 ^ a.2, a.2 + (f.1 + 1 - f.2))) (0, 0)).1

/-- The operation of a register form, by its function fields. -/
def rvOp (f7 f3 : Nat) : Option RvAlu :=
  match f7, f3 with
  | 0, 0 => some .add | 0x20, 0 => some .sub | 0, 1 => some .sll | 0, 2 => some .slt | 0, 3 => some .sltu | 0, 4 => some .xor
  | 0, 5 => some .srl | 0x20, 5 => some .sra | 0, 6 => some .or | 0, 7 => some .and
  | 1, 0 => some .mul | 1, 1 => some .mulh | 1, 2 => some .mulhsu | 1, 3 => some .mulhu
  | 1, 4 => some .div | 1, 5 => some .divu | 1, 6 => some .rem | 1, 7 => some .remu
  | _, _ => none

/-- Whether an operation has a form of 32 bits. -/
def RvAlu.narrow : RvAlu → Bool
  | .add | .sub | .sll | .srl | .sra | .mul | .div | .divu | .rem | .remu => true
  | _ => false

/-- The relation of a branch. -/
def rvRel (f3 : Nat) : Option RvRel :=
  match f3 with
  | 0 => some .eq | 1 => some .ne | 4 => some .lt | 5 => some .ge | 6 => some .ltu | 7 => some .geu | _ => none

/-- The operation of an atomic instruction. -/
def rvAmo (f5 : Nat) : Option RvAmo :=
  match f5 with
  | 1 => some .swap | 0 => some .add | 4 => some .xor | 0xC => some .and | 8 => some .or
  | 0x10 => some .min | 0x14 => some .max | 0x18 => some .minu | 0x1C => some .maxu | _ => none

/-- The operation of an immediate form, and its immediate; a shift has its count and function bits in the immediate's place. -/
def rvOpImm (x : Nat) (w : Bool) : Option (RvAlu × BitVec 64) :=
  let f3 := bitsOf x 14 12
  let imm := rvSigned 12 (bitsOf x 31 20)
  let top := if w then bitsOf x 31 25 else bitsOf x 31 26
  let shamt := BitVec.ofNat 64 (if w then bitsOf x 24 20 else bitsOf x 25 20)
  let right := if w then 0x20 else 0x10
  match f3 with
  | 0 => some (.add, imm)
  | 1 => if top = 0 then some (.sll, shamt) else none
  | 5 => if top = 0 then some (.srl, shamt) else if top = right then some (.sra, shamt) else none
  | 2 => if w then none else some (.slt, imm)
  | 3 => if w then none else some (.sltu, imm)
  | 4 => if w then none else some (.xor, imm)
  | 6 => if w then none else some (.or, imm)
  | 7 => if w then none else some (.and, imm)
  | _ => none

/-- An atomic instruction: LR, SC or an operation, on 4 or 8 bytes. -/
def rvAtomic (x : Nat) : Option Rv :=
  let rd := bitsOf x 11 7
  let rs := bitsOf x 19 15
  let src := bitsOf x 24 20
  let order := bitsOf x 26 25
  match (match bitsOf x 14 12 with | 2 => some 4 | 3 => some 8 | _ => none) with
  | none => none
  | some n =>
    match bitsOf x 31 27 with
    | 2 => if src = 0 then some (.lr n order rd rs) else none
    | 3 => some (.sc n order rd rs src)
    | f => (rvAmo f).map fun op => .amo op n order rd rs src

/-- SYSTEM instructions that user mode may meet; any other is illegal there. -/
def rvSystem (x : Nat) : Option Rv :=
  let f3 := bitsOf x 14 12
  if f3 = 0 then
    match x with
    | 0x00000073 => some .ecall
    | 0x00100073 => some .ebreak
    | 0x10500073 => some .wfi
    | _ => none
  else if f3 = 4 then none
  else some (.csr (f3 % 4) (decide (4 < f3)) (bitsOf x 11 7) (bitsOf x 19 15) (bitsOf x 31 20))

/-- An instruction of 32 bits. -/
def rvDecode (x : Nat) : Option Rv :=
  let rd := bitsOf x 11 7
  let f3 := bitsOf x 14 12
  let r1 := bitsOf x 19 15
  let r2 := bitsOf x 24 20
  match x % 128 with
  | 0x37 => some (.lui rd (rvSigned 32 (bitsOf x 31 12 * 4096)))
  | 0x17 => some (.auipc rd (rvSigned 32 (bitsOf x 31 12 * 4096)))
  | 0x6F => some (.jal rd (rvSigned 21 (2 * rvGather x [(30, 21), (20, 20), (19, 12), (31, 31)])))
  | 0x67 => if f3 = 0 then some (.jalr rd r1 (rvSigned 12 (bitsOf x 31 20))) else none
  | 0x63 => (rvRel f3).map fun rel => .branch rel r1 r2 (rvSigned 13 (2 * rvGather x [(11, 8), (30, 25), (7, 7), (31, 31)]))
  | 0x03 => if f3 = 7 then none else some (.load (2 ^ (f3 % 4)) (decide (4 ≤ f3)) rd r1 (rvSigned 12 (bitsOf x 31 20)))
  | 0x23 => if 3 < f3 then none else some (.store (2 ^ f3) r1 r2 (rvSigned 12 (rvGather x [(11, 7), (31, 25)])))
  | 0x13 => (rvOpImm x false).map fun o => .opImm o.1 false rd r1 o.2
  | 0x1B => (rvOpImm x true).map fun o => .opImm o.1 true rd r1 o.2
  | 0x33 => (rvOp (bitsOf x 31 25) f3).map fun o => .op o false rd r1 r2
  | 0x3B => match rvOp (bitsOf x 31 25) f3 with | some o => if o.narrow then some (.op o true rd r1 r2) else none | none => none
  | 0x0F => if f3 = 0 then some .fence else if f3 = 1 then some .fenceI else none
  | 0x73 => rvSystem x
  | 0x2F => rvAtomic x
  | _ => none

/-- An instruction of 16 bits, as the one of 32 bits that it stands for. -/
def rvDecode16 (x : Nat) : Option Rv :=
  let rd := bitsOf x 11 7
  let rs := bitsOf x 6 2
  let hi := 8 + bitsOf x 9 7
  let lo := 8 + bitsOf x 4 2
  let imm := rvSigned 6 (rvGather x [(6, 2), (12, 12)])
  let shamt := BitVec.ofNat 64 (rvGather x [(6, 2), (12, 12)])
  let up := fun (n : Nat) => BitVec.ofNat 64 n
  match x % 4, bitsOf x 15 13 with
  | 0, 0 =>
    let n := 4 * rvGather x [(6, 6), (5, 5), (12, 11), (10, 7)]
    if n = 0 then none else some (.opImm .add false lo 2 (up n))
  | 0, 2 => some (.load 4 false lo hi (up (4 * rvGather x [(6, 6), (12, 10), (5, 5)])))
  | 0, 3 => some (.load 8 false lo hi (up (8 * rvGather x [(12, 10), (6, 5)])))
  | 0, 6 => some (.store 4 hi lo (up (4 * rvGather x [(6, 6), (12, 10), (5, 5)])))
  | 0, 7 => some (.store 8 hi lo (up (8 * rvGather x [(12, 10), (6, 5)])))
  | 1, 0 => some (.opImm .add false rd rd imm)
  | 1, 1 => if rd = 0 then none else some (.opImm .add true rd rd imm)
  | 1, 2 => some (.opImm .add false rd 0 imm)
  | 1, 3 =>
    if rvGather x [(6, 2), (12, 12)] = 0 then none
    else if rd = 2 then some (.opImm .add false 2 2 (rvSigned 10 (16 * rvGather x [(6, 6), (2, 2), (5, 5), (4, 3), (12, 12)])))
    else some (.lui rd (rvSigned 18 (4096 * rvGather x [(6, 2), (12, 12)])))
  | 1, 4 =>
    match bitsOf x 11 10 with
    | 0 => some (.opImm .srl false hi hi shamt)
    | 1 => some (.opImm .sra false hi hi shamt)
    | 2 => some (.opImm .and false hi hi imm)
    | _ =>
      match bitsOf x 12 12, bitsOf x 6 5 with
      | 0, 0 => some (.op .sub false hi hi lo)
      | 0, 1 => some (.op .xor false hi hi lo)
      | 0, 2 => some (.op .or false hi hi lo)
      | 0, _ => some (.op .and false hi hi lo)
      | _, 0 => some (.op .sub true hi hi lo)
      | _, 1 => some (.op .add true hi hi lo)
      | _, _ => none
  | 1, 5 => some (.jal 0 (rvSigned 12 (2 * rvGather x [(5, 3), (11, 11), (2, 2), (7, 7), (6, 6), (10, 9), (8, 8), (12, 12)])))
  | 1, 6 => some (.branch .eq hi 0 (rvSigned 9 (2 * rvGather x [(4, 3), (11, 10), (2, 2), (6, 5), (12, 12)])))
  | 1, 7 => some (.branch .ne hi 0 (rvSigned 9 (2 * rvGather x [(4, 3), (11, 10), (2, 2), (6, 5), (12, 12)])))
  | 2, 0 => some (.opImm .sll false rd rd shamt)
  | 2, 2 => if rd = 0 then none else some (.load 4 false rd 2 (up (4 * rvGather x [(6, 4), (12, 12), (3, 2)])))
  | 2, 3 => if rd = 0 then none else some (.load 8 false rd 2 (up (8 * rvGather x [(6, 5), (12, 12), (4, 2)])))
  | 2, 4 =>
    if bitsOf x 12 12 = 0 then (if rs = 0 then (if rd = 0 then none else some (.jalr 0 rd 0)) else some (.op .add false rd 0 rs))
    else if rs = 0 then (if rd = 0 then some .ebreak else some (.jalr 1 rd 0))
    else some (.op .add false rd rd rs)
  | 2, 6 => some (.store 4 2 rs (up (4 * rvGather x [(12, 9), (8, 7)])))
  | 2, 7 => some (.store 8 2 rs (up (8 * rvGather x [(12, 10), (9, 7)])))
  | _, _ => none

/-! ## Registers and arithmetic -/

/-- A register; x0 reads 0. -/
def Hart.get (h : Hart) (r : Nat) : BitVec 64 := if r = 0 then 0#64 else h.x.getD (r - 1) 0#64

/-- A register written; a write to x0 is discarded. -/
def Hart.set (h : Hart) (r : Nat) (v : BitVec 64) : Hart := if r = 0 then h else { h with x := h.x.set (r - 1) v }

/-- An operation on values of one width. -/
def rvAlu (n : Nat) (op : RvAlu) (a b : BitVec n) : BitVec n :=
  let sh := b.toNat % n
  let high := fun (p : Int) => BitVec.ofInt n (p / 2 ^ n)
  match op with
  | .add => a + b
  | .sub => a - b
  | .sll => a <<< sh
  | .slt => if a.slt b then 1 else 0
  | .sltu => if a.ult b then 1 else 0
  | .xor => a ^^^ b
  | .srl => a >>> sh
  | .sra => a.sshiftRight sh
  | .or => a ||| b
  | .and => a &&& b
  | .mul => a * b
  | .mulh => high (a.toInt * b.toInt)
  | .mulhsu => high (a.toInt * b.toNat)
  | .mulhu => high (a.toNat * b.toNat)
  | .div => if b = 0 then BitVec.allOnes n else a.sdiv b
  | .divu => if b = 0 then BitVec.allOnes n else a.udiv b
  | .rem => if b = 0 then a else a.srem b
  | .remu => if b = 0 then a else a.umod b

/-- An operation of a register of 64 bits, or of its low 32, whose result is sign-extended. -/
def rvAluW (op : RvAlu) (w : Bool) (a b : BitVec 64) : BitVec 64 :=
  if w then (rvAlu 32 op (a.truncate 32) (b.truncate 32)).signExtend 64 else rvAlu 64 op a b

def RvRel.holds (r : RvRel) (a b : BitVec 64) : Bool :=
  match r with
  | .eq => a == b | .ne => a != b | .lt => a.slt b | .ge => !a.slt b | .ltu => a.ult b | .geu => !a.ult b

/-- What an atomic operation on `n` bytes stores. -/
def RvAmo.value (op : RvAmo) (n : Nat) (old src : BitVec (8 * n)) : BitVec (8 * n) :=
  match op with
  | .swap => src | .add => old + src | .xor => old ^^^ src | .and => old &&& src | .or => old ||| src
  | .min => if old.slt src then old else src
  | .max => if old.slt src then src else old
  | .minu => if old.ult src then old else src
  | .maxu => if old.ult src then src else old

/-! ## Steps -/

/-- The supervisor's hart replaced. -/
def State.modHart (s : State) (core : Nat) (f : Hart → Hart) : State := let u := s.sup core; s.putSup core { u with hart := f u.hart }

/-- A trap of the hart into machine mode: a mode, registers that say why, and what the dispatch then does. -/
def State.hartTrap (s : State) (core code : Nat) (tval : BitVec 64) (f : State → State) : State :=
  f (s.modHart core fun h => { h with user := false, mepc := h.pc, mcause := BitVec.ofNat 64 code, mtval := tval, resv := none })

/-- An exception of the hart while it runs a handler tears the block down (R264). -/
def State.hartFault (s : State) (core code : Nat) (tval : BitVec 64) : State := s.hartTrap core code tval fun s => s.superFault core code

/-- ECALL ends the handler, with the request in a7; any value without a meaning acts as 0 (R264). -/
def State.hartEcall (s : State) (core : Nat) : State :=
  let h := (s.sup core).hart
  s.hartTrap core 8 0 fun s =>
    match (h.get 17).toNat with
    | 1 => after (execEcallTeardown core (h.get 10).toNat) s
    | 2 => after (execEcallEscalate core) s
    | _ => after (execEcallDone core) s

/-- The next instruction of the hart comes `n` bytes on, with a register written. -/
def State.hartNext (s : State) (core n rd : Nat) (v : BitVec 64) : State :=
  s.modHart core fun h => { h.set rd v with pc := h.pc + BitVec.ofNat 64 n, instret := h.instret + 1 }

/-- A jump, with a register written. -/
def State.hartJump (s : State) (core rd : Nat) (v target : BitVec 64) : State :=
  s.modHart core fun h => { h.set rd v with pc := target &&& ~~~1#64, instret := h.instret + 1 }

/-- A value that a load of `n` bytes returns in a register. -/
def rvLoaded (n : Nat) (unsigned : Bool) (v : Nat) : BitVec 64 := if unsigned then BitVec.ofNat 64 v else rvSigned (8 * n) v

/-- A load of a handler: its own core's window is read as the supervisor reads it. -/
def State.hartLoad (s : State) (core ctx addr n : Nat) : State × Except Nat Nat :=
  match s.superAt core ctx addr n .load with
  | (s, .error code) => (s, .error code)
  | (s, .ok (.mem pa)) => match s.superRead core pa n with | (s, v) => (s, .ok v)
  | (s, .ok .own) => let t := s.readBy 1 addr n; ({ t with hostRd := s.hostRd }, .ok t.hostRd)

/-- A store of a handler: its own core's window takes it as a write of the supervisor. -/
def State.hartStore (s : State) (core ctx addr n val : Nat) : State × Option Nat :=
  match s.superAt core ctx addr n .store with
  | (s, .error code) => (s, some code)
  | (s, .ok (.mem pa)) => (s.superPush core pa n val, none)
  | (s, .ok .own) => (after (execRegisterWrite 1 addr n val) s, none)

/-- The order that an atomic instruction asks for: each of its bits acts as the supervisor's FENCE does (R169). -/
def State.hartOrder (s : State) (core order : Nat) : State := if order = 0 then s else s.superFence core

/-- A word in memory read and written at one moment, in the core's L1 as its loads and stores are. -/
def State.hartRmw (s : State) (core pa n : Nat) (f : Nat → Option Nat) : State × Nat :=
  match (s.superDrain core).superRead core pa n with
  | (s, v) => match f v with | some r => ((s.superPush core pa n r).superDrain core, v) | none => (s, v)

/-- An atomic access: in memory, of an aligned address; a window has none. -/
def State.hartAtomic (s : State) (core ctx : Nat) (addr : BitVec 64) (n : Nat) (k : AccKind) (f : State → Nat → State) : State :=
  match s.superAt core ctx addr.toNat n k with
  | (s, .ok (.mem pa)) => f s pa
  | (s, .ok .own) => s.hartFault core (if k = .load then 5 else 7) addr
  | (s, .error code) => s.hartFault core code addr

/-- What user mode reads of a counter; any other register of Zicsr is out of its reach. -/
def State.hartCsr (s : State) (core num : Nat) : Option (BitVec 64) :=
  match num with
  | 0xC00 => some (BitVec.ofNat 64 s.clock)
  | 0xC01 => some (BitVec.ofNat 64 s.timeNs)
  | 0xC02 => some (BitVec.ofNat 64 (s.sup core).hart.instret)
  | _ => none

/-- An instruction of a handler, `n` bytes long with the bits `bits`. -/
def State.hartExec (s : State) (core ctx n bits : Nat) (i : Rv) : State :=
  let h := (s.sup core).hart
  let link := h.pc + BitVec.ofNat 64 n
  match i with
  | .lui rd imm => s.hartNext core n rd imm
  | .auipc rd imm => s.hartNext core n rd (h.pc + imm)
  | .jal rd off => s.hartJump core rd link (h.pc + off)
  | .jalr rd rs off => s.hartJump core rd link (h.get rs + off)
  | .branch rel r1 r2 off => if rel.holds (h.get r1) (h.get r2) then s.hartJump core 0 0 (h.pc + off) else s.hartNext core n 0 0
  | .load m u rd rs off =>
    let a := h.get rs + off
    match s.hartLoad core ctx a.toNat m with
    | (s, .ok v) => s.hartNext core n rd (rvLoaded m u v)
    | (s, .error code) => s.hartFault core code a
  | .store m rs src off =>
    let a := h.get rs + off
    match s.hartStore core ctx a.toNat m ((h.get src).toNat % 256 ^ m) with
    | (s, none) => s.hartNext core n 0 0
    | (s, some code) => s.hartFault core code a
  | .opImm op w rd rs imm => s.hartNext core n rd (rvAluW op w (h.get rs) imm)
  | .op op w rd r1 r2 => s.hartNext core n rd (rvAluW op w (h.get r1) (h.get r2))
  | .fence => (s.superFence core).hartNext core n 0 0
  | .fenceI => ((s.superDrain core).dropFetched fun c _ size => c == core && size == 128).hartNext core n 0 0
  | .ecall => s.hartEcall core
  | .ebreak => s.hartFault core 3 h.pc
  | .wfi => s.hartNext core n 0 0
  | .csr kind _ rd src num =>
    match s.hartCsr core num with
    | some v => if kind = 1 ∨ src ≠ 0 then s.hartFault core 2 (BitVec.ofNat 64 bits) else s.hartNext core n rd v
    | none => s.hartFault core 2 (BitVec.ofNat 64 bits)
  | .lr m order rd rs =>
    s.hartAtomic core ctx (h.get rs) m .load fun s pa =>
      match (s.hartOrder core order).hartRmw core pa m fun _ => none with
      | (s, v) => ((s.hartOrder core order).modHart core fun h => { h with resv := some (lineOf pa) }).hartNext core n rd (rvSigned (8 * m) v)
  | .sc m order rd rs src =>
    s.hartAtomic core ctx (h.get rs) m .store fun s pa =>
      let s1 := s.hartOrder core order
      let ok := (s1.sup core).hart.resv == some (lineOf pa)
      let s2 := if ok then (s1.hartRmw core pa m fun _ => some ((h.get src).toNat % 256 ^ m)).1 else s1
      (((s2.hartOrder core order).modHart core fun h => { h with resv := none })).hartNext core n rd (if ok then 0 else 1)
  | .amo op m order rd rs src =>
    s.hartAtomic core ctx (h.get rs) m .rmw fun s pa =>
      match (s.hartOrder core order).hartRmw core pa m fun v =>
        some (op.value m (BitVec.ofNat _ v) (BitVec.ofNat _ (h.get src).toNat)).toNat with
      | (s, v) => (s.hartOrder core order).hartNext core n rd (rvSigned (8 * m) v)

/-- The generation under which a handler's code is fetched: that of the block it handles a stop of. -/
def State.handlerGen (s : State) (e : Stop) : Nat := ((s.block e.blk).map Block.gen).getD 0

/-- A line of a handler's code is fetched into the instruction cache (R167); one that cannot be is an exception of the hart. -/
def State.hartFill (s : State) (core : Nat) (e : Stop) (addr : Nat) : State :=
  let line := addr / 128 * 128
  match s.translate core e.ctx line .fetch with
  | (s, .error r) => s.hartFault core (if isPageFault r then 12 else 1) (BitVec.ofNat 64 addr)
  | (s, .ok pa) =>
    let s1 := s.fillLine core e.ctx (s.handlerGen e) line pa
    if s1.m.corePoisoned core (pa + addr % 128) then s1.hartFault core 1 (BitVec.ofNat 64 addr) else s1

/-- One act of a core's supervisor. Its dispatch takes the oldest stop, when no handler runs (R262). A handler's hart returns to the dispatch
at the stub, fetches a line it misses, or runs one instruction. -/
def State.hartStep (s : State) (core : Nat) : State :=
  let u := s.sup core
  match u.handling with
  | none => if u.queue.isEmpty then s else after (execTrapqRead core 8) s
  | some e =>
    let pc := u.hart.pc.toNat
    if u.hart.pc = Config.handlerStub then s.hartTrap core 8 0 fun s => after (execEcallDone core) s
    else
      let held := s.lineByte core e.ctx (s.handlerGen e)
      let first := codeRun held 2 pc
      let n := if (leNat first) % 4 = 3 then 4 else 2
      let bs := codeRun held n pc
      if first.length < 2 then s.hartFill core e ((pc + first.length) % 2 ^ 64)
      else if bs.length < n then s.hartFill core e ((pc + bs.length) % 2 ^ 64)
      else
        match (if n = 4 then rvDecode (leNat bs) else rvDecode16 (leNat bs)) with
        | some i => s.hartExec core e.ctx n (leNat bs) i
        | none => s.hartFault core 2 (BitVec.ofNat 64 (leNat bs))

end Sys2Proof.Machine
end

