-- ==== Sys2Proof/Machine/Sched.lean ====
section
/-! DEFINITION. Sched.lean: what the device does next: moves from outside, what is due, the lane rows' issue, and what the
device may do of its own accord (02 R60, R64, R70; 03 R83 to R85; 09 R224, R233; 11 R260, R273, R274). Log entry 1. -/

namespace Sys2Proof.Machine

/-! ## Readiness (R83) -/

/-- What does not depend on the candidate: a live lane or a replay, the STALL bound, no hold, a store queue with room, and
no debug stop that is due. -/
def Wave.mayIssue (x : Wave) (clock : Nat) : Bool :=
  x.run == .running && (x.replay.isSome || x.liveMask != 0#32) && decide (x.next ≤ clock) && x.pend.all (fun p => !p.hold)
    && decide (x.sq.length < 32) && !(x.stepping && decide (x.issues ≥ 1))
    && (match x.hit with | some h => decide (clock < h.clock + 24) | none => true)

/-- Grids: a member of a grid other than the lead of a harnessed one, and a wave on the rows of a harnessed grid of which
it is no member, are not ready (R83, R224). -/
def State.gridLets (s : State) (w : Nat) : Bool :=
  match s.gridOfWave w with
  | some (_, h) => h.lead == some w && decide (h.state ≥ 2)
  | none => s.wk.hgrids.all fun p => !(decide (p.2.state ≥ 2) && (groupRowsOf p.1 p.2).contains (deviceRow w))

/-- WAIT: every named slot was 0 before this clock and is 0 now (R64). -/
def Wave.waits (x : Wave) (wait : BitVec 6) : Bool :=
  (List.range 6).all fun i => !wait.getLsbD i || (x.d.getD i 0 == 0 && x.dwas.getD i 0 == 0)

/-- Room in the SET slot (R64). -/
def Wave.slotRoom (x : Wave) (set : BitVec 3) : Bool := set == 0#3 || decide (x.d.getD (set.toNat - 1) 0 < 63)

/-- Whether a pending check lets a candidate issue (R260). -/
def Wave.checkLets (x : Wave) (i : Instr) : Bool :=
  x.pend.all fun p =>
    match p.work with
    | .check _ _ held =>
      held.isNone && !(decide (0x180 ≤ i.op) && decide (i.op ≤ 0x1F7)) && !(decide (0x140 ≤ i.op) && decide (i.op ≤ 0x147))
        && !(i.uses.writes.any fun r => p.dst.contains r || p.src.contains r)
    | _ => true

/-- QUOTA waits for every slot and every fixed-latency result (R118). -/
def Wave.quotaLets (x : Wave) (i : Instr) : Bool :=
  match i with
  | .quotaGive _ | .quotaRel _ | .quotaTake _ =>
    x.d.all (· == 0) && x.pend.all fun p => match p.work with | .regs _ | .bound _ => false | _ => true
  | _ => true

/-- A harness instruction waits for the last row of an older HMMA (R233). -/
def State.harnessLets (s : State) (w : Nat) (i : Instr) : Bool :=
  !isHarnessOp i.op ||
    match s.gridOfWave w with
    | some (_, h) => h.ops.all fun o => o.code != 0x1E6 || (decide (o.done ≥ o.args.getD 0 0) && decide (o.last < s.clock))
    | none => true

/-- A candidate that decodes, in I64 terms. -/
def State.instrReady (s : State) (w : Nat) (x : Wave) (i : Instr) : Bool :=
  x.waits i.body.wait && x.slotRoom i.body.set && x.checkLets i && x.quotaLets i && s.harnessLets w i

/-- A wave's candidate, from its bytes (R84, R261). -/
inductive Cand where
  | none                                        -- its bytes have not been fetched
  | stop                                        -- it lies at a breakpoint
  | code (bs : List Byte) (i : Except DecodeError Instr)

/-- The candidate of a wave. -/
noncomputable def State.cand (s : State) (w : Nat) (x : Wave) : Cand :=
  match x.replay with
  | some (_, _, bs) => .code bs (decode bs)
  | none =>
    match x.issuePc with
    | none => .none
    | some pc =>
      if (s.breakAt w x pc).isSome then .stop
      else
        match s.fetch w x pc with
        | .error _ => .none
        | .ok bs => .code bs (decode bs)

/-- Whether a wave is ready (R83). A candidate that fails decoding has no WAIT mask or SET slot to wait for: it is ready as soon as the
row lets it issue, and traps; one that decodes waits, whatever check it then fails (log entry 27). -/
noncomputable def State.ready (s : State) (w : Nat) (x : Wave) : Bool :=
  x.mayIssue s.clock && s.gridLets w &&
    match s.cand w x with
    | .none => false
    | .stop => x.pend.all fun p => match p.work with | .check _ _ held => held.isNone | _ => true
    | .code _ (.ok i) => s.instrReady w x i.core
    | .code _ (.error _) => x.pend.all fun p => match p.work with | .check _ _ held => held.isNone | _ => true

/-- How far a slot stands after the one that issued last on its row (R83); before any issue that is slot 15 (log entry 17). -/
def State.turnOf (s : State) (w : Nat) : Nat := (w % 16 + 31 - mgetD s.co.rr (w / 16) 15) % 16

/-- The wave a row issues from. -/
noncomputable def State.readyIn (s : State) (row : Nat) : Option Nat :=
  (s.waves.filter fun p => p.1 / 16 == row && s.ready p.1 p.2).foldl (fun (best : Option Nat) p =>
    match best with
    | none => some p.1
    | some b => if s.turnOf p.1 < s.turnOf b then some p.1 else some b) none

/-- Whether a wave's candidate is a QUOTA (R118). -/
noncomputable def State.asksQuota (s : State) (w : Nat) : Bool :=
  match (s.wave w).map fun x => s.cand w x with
  | some (.code _ (.ok i)) => (match i.core with | .quotaGive _ | .quotaRel _ | .quotaTake _ => true | _ => false)
  | _ => false

/-- The wave that issues next in this clock: rows ascending, each once a clock, but for those that a test holds back. -/
noncomputable def State.readyWave (s : State) (held : Nat → Bool) : Option Nat :=
  (s.waves.foldl (fun (rows : List Nat) p => ladd rows (p.1 / 16)) []).findSome? fun row =>
    if s.co.issued.contains row then none else (s.readyIn row).filter fun w => !held w

/-! ## Issue (R70) -/

/-- The trap of a decoding failure. -/
def decodeCause : DecodeError → Cause
  | .opcode => .illegalOpcode
  | .operand => .illegalOperand
  | _ => .illegalEncoding

/-- The contributors of an instruction that decodes to an illegal operand: its guard is known. -/
def Wave.rawGuard (x : Wave) (stamp : Nat) (bs : List Byte) (act : Word) : Word :=
  if bs.length < 8 then act
  else
    let b := splitBody (BitVec.ofNat 64 (leNat (bs.take 8))) Option.none
    x.guarded stamp b act

/-- An instruction that does not decode traps (R70, R258). -/
def State.decodeTrap (s : State) (w : Nat) (x : Wave) (pc : Nat) (act : Word) (bs : List Byte) (e : DecodeError) : State :=
  let c := { noIssue w x pc with act := act, con := if e = .operand then x.rawGuard s.stamp bs act else 0#32 }
  s.takeTrap c (frameWords bs) { cause := decodeCause e, mask := act }

/-- A ready wave issues its candidate. -/
noncomputable def State.issueFrom (s : State) (w : Nat) : Out :=
  match s.wave w with
  | none => .next s
  | some x =>
    let at' := match x.replay with
      | some (pc, m, _) => (pc, m &&& x.liveMask)
      | none => (x.issuePc.getD 0, x.activeAt (x.issuePc.getD 0))
    match s.cand w x with
    | .none => .next s
    | .stop => exec (.instructionBreakpointHit w) s
    | .code _ (.ok i) => exec i { s with cur := w }
    | .code bs (.error e) => .next (s.decodeTrap w x at'.1 at'.2 bs e)

/-! ## What is due -/

/-- The first result that lands now (R62). -/
def State.dueResult (s : State) : Option (Nat × Nat) :=
  s.waves.findSome? fun p => p.2.pend.findSome? fun q => if (s.land p.1 p.2 q).isSome then some (p.1, q.stamp) else none

/-- What a wave is due for: its retirement (R97), the report of its stop (R262), the end of its step (R275), the end of its MONWAIT
(R200), the completion of a FENCE.wave in the clock after its issue (R182). -/
noncomputable def State.waveDue (s : State) (w : Nat) (x : Wave) : Option Instr :=
  if s.waveDone w x then some (.waveRetire w)
  else if x.run == .stopping && x.atRest then some (.waveStopReport w)
  else if x.stepOver then some (.dbgStepDone w)
  else if x.monExpired s.clock then some (.monwaitTimeout w)
  else
    (x.pend.find? fun p => decide (p.due ≤ s.clock) && (match p.work with | .fence _ 0 => true | _ => false)).map fun p =>
      .fenceComplete w p.stamp

/-- What happens before any wave issues: results that are due, what the waves are due for, barrier phases that complete in
the clock after their start (R196), stops of a cluster that are complete, aging, lines for which a cache has no room, steps of the arithmetic
clock. -/
noncomputable def State.due (s : State) : Option Instr :=
  match s.dueResult with
  | some (w, n) => some (.resultLanded w n)
  | none =>
    match s.waves.findSome? fun p => s.waveDue p.1 p.2 with
    | some i => some i
    | none =>
      match s.co.bars.find? fun p => p.2.full && decide (p.2.startClk < s.clock) with
      | some p => some (.barrierStartComplete p.1)
      | none =>
        match s.wk.dbgs.find? fun p => p.2.state == 1 && !(s.waves.any fun q => s.observed p.1 q.1 q.2 && (q.2.hit.isSome || (q.2.run == .stopping && q.2.dbg))) with
        | some p => some (.clusterStopped p.1)
        | none =>
          match s.wk.binds.find? fun p => p.2.agingDue s.timeNs with
          | some p => some (.priorityAgingStep p.1)
          | none =>
            match s.overCap with
            | some (c, l) => some (.cacheEviction c l)
            | none => s.stepDue.map .clockStep

/-- A running wave whose debug stop may wait no longer (R274). -/
def State.overdue (s : State) : Option (Nat × Wave × Hit) :=
  s.waves.findSome? fun p =>
    match p.2.hit with
    | some h => if p.2.run == .running && decide (h.clock + 24 ≤ s.clock) then some (p.1, p.2, h) else none
    | none => none

/-! ## What the device may do of its own accord -/

/-- One clock passes (R12): every row may issue again; TIME advances by a period of the arithmetic clock; the power is metered once a
millisecond (R407); lanes whose wait at a barrier ends become live (R282). -/
def State.tick (s : State) : State :=
  let s1 := s.trackFirst
  let now := s1.timeFs + 10 ^ 9 / s1.pk.power.clkmhz
  let s2 := ({ s1 with clock := s1.clock + 1, timeFs := now, co := { s1.co with issued := [] } } : State).mapWaves fun _ x => { x with dwas := x.d }
  (if now / 10 ^ 12 = s.timeFs / 10 ^ 12 then s2 else s2.meter).wakeBars

/-- Events that may stand for one pending instruction. -/
noncomputable def pendMoves (w : Nat) (p : Pend) : List Instr :=
  let n := p.stamp
  [.sfuResultWrite w n, .tblsetBankWrite w n, .tblevalResult w n, .quotaSettle w n, .icinvComplete w n, .loadDataReturn w n
  , .fenceComplete w n, .translationCheckResult w n, .cacheMaintenanceComplete w n, .hmmaComplete w n, .harnessCompletion w n
  , .scratchpadPass w n, .releaseComplete w n]
    ++ match p.work with
      | .far _ _ todo .. => (todo.filterMap fun o => match o.loc with | .mem pa => some (lineOf pa) | _ => Option.none).eraseDups.map fun l => Instr.sliceWordOperation w n l
      | _ => []

/-- Events of the waves and cores. -/
noncomputable def State.waveMoves (s : State) : List Instr :=
  (s.waves.flatMap fun p =>
    [.storeQueueLeave p.1, .traceCacheFill p.1, .monitorEvent p.1] ++ p.2.pend.flatMap (pendMoves p.1))
  ++ (s.co.sups.filterMap fun p => if p.2.sq.isEmpty then Option.none else some (Instr.storeQueueLeave (8192 + p.1)))
  ++ (s.co.rings.flatMap fun p =>
    Instr.copyEntryTake (p.1 % 128) (p.1 / 128) :: p.2.busy.map fun e => Instr.copyEntryComplete (p.1 % 128) (p.1 / 128) e.idx)
  ++ (s.wk.saved.flatMap fun v => v.2.rings.flatMap fun r => r.2.busy.map fun e => Instr.copyEntryComplete (v.2.block.cores.getD r.1 0) v.1 e.idx)
  ++ (s.m.relTab.flatMap fun p => ((List.range 32).filter fun i => p.2.1.testBit i).map fun i =>
    Instr.drainAcknowledge (p.1 % 4) (32 * (p.1 % 4) + i) (p.1 / 4))
  ++ (s.m.l1.map fun p => Instr.cacheEviction (p.1 % 128) (p.1 / 128))
  ++ ((s.m.l2.map fun p => lineOf p.1).eraseDups.map fun l => Instr.cacheEviction 128 l)
  ++ ((s.m.slc.map fun p => lineOf p.1).eraseDups.map fun l => Instr.cacheEviction 129 l)
  ++ (s.m.snoop.map fun l => Instr.cacheEviction 130 l)

/-- The oldest instruction of a grid, whose issuer may be gone when a lead's exit releases the grid (R226). -/
def gridMoves (h : HGrid) : List Instr :=
  match h.lead, h.ops with
  | some w, o :: _ => [.harnessCompletion w o.stamp, .hmmaComplete w o.stamp]
  | _, _ => []

/-- Requests that reach the rows' pools: reservations for blocks being restored, and launches (R118). -/
noncomputable def State.poolMoves (s : State) : List Instr :=
  (s.wk.saved.flatMap fun p =>
    (s.wk.binds.filter fun b => s.savedFor b.1 b.2 p.2).map fun b => Instr.blockRestore p.1 (b.2.cluster b.1))
  ++ (s.wk.binds.flatMap fun p =>
    let q := p.2.cluster p.1
    [Instr.blockStart p.1 q]
      ++ (if p.2.src = 1 then [Instr.queueLaunch (64 * q + p.2.srcn) p.1] else [])
      ++ (if p.2.src = 2 then [Instr.binLaunch (256 * q + p.2.srcn) p.1] else []))

/-- Events of the clusters and dies. -/
noncomputable def State.workMoves (s : State) : List Instr :=
  (s.wk.hgrids.flatMap fun p => [Instr.gridSwitch p.1, .gridReleaseEnd p.1] ++ gridMoves p.2)
  ++ (s.wk.queries.flatMap fun p => [Instr.queryStart p.1, .compareBatch p.1, .recordEmit p.1, .queryEnd p.1])
  ++ (s.wk.tqs.map fun p => Instr.queueRefill p.1)
  ++ (s.wk.nbins.map fun p => Instr.binTimerExpire p.1)
  ++ (s.wk.binds.map fun p => Instr.preemption p.1)
  ++ (s.wk.blocks.flatMap fun p => [Instr.blockRetire p.1, .saveImageWrite p.1])

/-- Events of the package and its links. -/
noncomputable def State.hostMoves (s : State) : List Instr :=
  (s.wk.hqs.flatMap fun p =>
    [Instr.hostLaunch p.1, .hostCopy p.1, .hostSignalWrite p.1, .hostSignalAdd p.1, .hostWait p.1, .hostWaitTimeout p.1, .ctxcfgInstall p.1
    , .ctxcfgTeardown p.1, .ctxcfgCreateQueue p.1, .reincfg p.1, .biasflipToHost p.1, .biasflipToDevice p.1, .hostFence p.1, .badCommand p.1])
  ++ ((List.range s.wk.sends.length).map fun n => Instr.reinRouterSend n)
  ++ (s.wk.ctxs.map fun p => Instr.refusedWriteback p.1)
  ++ (s.pk.colls.map fun p => Instr.collectiveComplete p.1)
  ++ (match s.pk.offline with | some q => [Instr.svcClusterOffline q] | Option.none => [])
  ++ (match s.pk.power.step with | some f => [Instr.clockStep f] | Option.none => [])
  ++ [.linkAutoRetrain]

/-- What may come next: an event, the stop of a wave that has a debug stop to take, a core seeing a write of another agent
(R364, R365), a core dropping a line or a window of code (R168), a line of code fetched ahead (R167), an act of a core's supervisor (R169), the
IOMMU's next command or a fence of it that has waited (R402, R406), or the next clock. -/
inductive Move where
  | event (i : Instr)
  | halt (w : Nat)
  | see (core id : Nat)
  | dropCode (window : Bool) (core : Nat) (l : ILine)
  | prefetch (w : Nat)
  | hart (core : Nat)
  | iommu
  | tick

/-- Whether an event changes anything. -/
def State.enables (s : State) (i : Instr) : Bool :=
  match exec i s with
  | .next t => decide (t ≠ s)
  | _ => false

/-- A QUOTA has been served in this clock: no reservation and no launch comes after it (R118). -/
def State.quotaServed (s : State) : Bool :=
  s.waves.any fun p => p.2.pend.any fun q => q.due == s.clock + 1 && (match q.work with | .quota .. => true | _ => false)

/-- Whether a QUOTA has to let reservations and launches of this clock go first (R118). -/
noncomputable def State.poolBusy (s : State) : Bool := s.poolMoves.any s.enables

/-- The moves open to the device. -/
noncomputable def State.moves (s : State) : List Move :=
  (((s.waveMoves ++ s.workMoves ++ s.hostMoves ++ if s.quotaServed then [] else s.poolMoves).filter s.enables).map Move.event)
    ++ (s.waves.filterMap fun p => if p.2.run == .running && p.2.hit.isSome then some (Move.halt p.1) else Option.none)
    ++ (s.m.late.flatMap fun e => ((hostAgent :: List.range Config.cores).filter fun c => !e.seen.contains c).map fun c => Move.see c e.id)
    ++ (s.co.icache.map fun p => Move.dropCode false p.1 p.2) ++ (s.co.traces.map fun p => Move.dropCode true p.1 p.2)
    ++ (s.waves.map fun p => Move.prefetch p.1)
    ++ (s.co.sups.filterMap fun p => if p.2.handling.isSome || !p.2.queue.isEmpty then some (Move.hart p.1) else Option.none)
    ++ (if s.m.iommu.commands || (!s.m.iommu.fences.isEmpty && !s.fenceHeld) then [Move.iommu] else []) ++ [.tick]

/-- The device makes one of the moves open to it: which one is a free choice. A clock does not end before the QUOTA requests that
reservations and launches of the clock went before (R118). -/
noncomputable def State.choose (s : State) : Out :=
  let ms := s.moves
  let s1 := s.bump
  match ms.getD (Config.choice s.free % ms.length) .tick with
  | .tick =>
    match s1.readyWave fun _ => false with
    | some w => s1.issueFrom w
    | Option.none => .next s1.tick
  | .event i => exec i s1
  | .see core id => .next (s1.mapMem fun m => m.see core fun e => e.id == id)
  | .dropCode window core l => .next (s1.dropCode window core l)
  | .prefetch w => .next (s1.bump.prefetch w (Config.openValue s1.free % 2 ^ 57))
  | .hart core => .next (s1.hartStep core)
  | .iommu => .next (if s1.m.iommu.fences.isEmpty then s1.ioProcess else s1.fencesDone)
  | .halt w =>
    match s1.wave w with
    | some x => match x.hit with | some h => .next (s1.takeHit w x h) | Option.none => .next s1
    | Option.none => .next s1

/-! ## One step -/

/-- Whether an instruction of the table is an event: it has no encoding. -/
def isEvent (i : Instr) : Bool := i.c16.isNone && i.i32.isNone && i.i64.isNone

/-- What the agenda asks for: an event happens, and one that names an instruction is dropped; a register is read; a supervisor loads, or
its FENCE is performed. -/
def State.input (s : State) (a : Input) : Out :=
  match a with
  | .event i => if isEvent i then exec i s else .next s
  | .read who addr size => .next (s.readBy who addr size)
  | .superLoad core addr size => .next (s.superLoad core addr size)
  | .superFence core => .next (s.superFence core)

/-- One step: the agenda first; then what is due; then the issue of a ready wave; then a move of the device's choice. -/
noncomputable def State.advance (s : State) : Out :=
  match s.agenda with
  | a :: rest => State.input { s with agenda := rest } a
  | [] =>
    match s.due with
    | some i => exec i s
    | Option.none =>
      match s.overdue with
      | some (w, x, h) => .next (s.takeHit w x h)
      | Option.none =>
        match s.readyWave fun w => s.asksQuota w && s.poolBusy with
        | some w => s.issueFrom w
        | Option.none => s.choose

/-! ## A program placed where the next step fetches (log entry 2) -/

/-- The block that `withFetchWord` places: one wave of 32 threads at core 0, slot 0. -/
def fetchBlock : Block :=
  { ctx := 0, bind := 0, grid := 0, x := 0, y := 0, z := 0, kdesc := 0, k := { entry := 0x1000, threads := 32, alloc := 32 }, gen := 0
    threads := 32, waves := 1, alloc := 32, cores := [0], sp := [], prio := 0, depth := 0, idem := false, discardable := true, killed := false
    rein := Option.none, bars := 0, sems := 0, cb := 0, cn := 0, tbl := false, rbase := 0, rlog := 0, swz := false, landing := Option.none
    started := 0, status := 1, s7 := 0, s8 := 0, arg := 0, saving := false, saveNo := 0 }

/-- The window of code at 0x1000 that holds an instruction, with zeros after it. -/
def fetchLine (w : Nat) : ILine := { ctx := 0, va := 0x1000, gen := 0, bytes := (leBytes 64 w).zipIdx.map fun p => (p.2, p.1) }

/-- A state in which the next step issues the instruction whose low `nbits` bits are those of `w`. -/
def State.placeWord (s : State) (nbits w : Nat) : State :=
  { s with
    waves := [(0, startWave fetchBlock 0 0 0 (List.range 32))]
    wk := { s.wk with blocks := [(0, fetchBlock)], hgrids := [], dbgs := [], binds := [] }
    co := { s.co with traces := [(0, fetchLine (w % 2 ^ nbits))], issued := [] }
    agenda := [] }

end Sys2Proof.Machine
end

