-- ==== Sys2Proof/Machine/Step.lean ====
section
/-! DEFINITION. Step.lean: one step of the device, and a program word placed where the next step fetches it. -/

namespace Sys2Proof.Machine

/-- One step of the device. -/
noncomputable def step (s : State) : Host.Outcome State Fault Refusal := s.advance

/-- The state with an instruction of the table placed where the next step fetches: bits above `nbits` are 0 (log entry 2). -/
def State.withFetchWord (s : State) (nbits w : Nat) : State := s.placeWord nbits w

end Sys2Proof.Machine
end

