-- ==== Sys2Proof/Safety.lean ====
section
/-! DEFINITION. Safety.lean: what counts as a safe run, and the form that states keep. -/

namespace Sys2Proof

open Sys2Proof.Machine

/-- The canonical form of a state's memory. -/
def MemOk (s : State) : Prop := Memory.wf s.m.mem = true

/-- The states that `n` steps from a state lead to, when none of them stops. -/
inductive Steps : Nat → State → State → Prop where
  | none (s : State) : Steps 0 s s
  | one {n : Nat} {s t u : State} : step s = .next t → Steps n t u → Steps (n + 1) s u

/-- A run that never stops: from a state, every number of steps answers a next state. -/
def SafeFrom (s : State) : Prop := ∀ n t, Steps n s t → ∃ u, step t = .next u

/-- A state in which no wave has stopped with a trap. -/
def NoTrap (s : State) : Prop := ∀ p ∈ s.waves, p.2.trapped = false

end Sys2Proof
end

