-- ==== Sys2Proof/Certificates/Slice0/Obligations.lean ====
section
/-! DEFINITION. Obligations.lean: the statements for the provers. The vocabulary they share comes first; then the encoding
and the step, the checks of an issue, what each family of instructions does, what it leaves alone, and the events. -/

open Sys2Proof Sys2Proof.Machine

/-! ## Vocabulary -/

/-- An instruction that passes every check of its issue, with at least one contributor: the current wave can issue it
(R83), no check of R70 fails, and its guard is true in some active lane (R67, R68). -/
def Sys2Proof.Starts (i : Instr) (s : State) (c : Issue) : Prop :=
  s.issuer i.core i.span = some c ∧ s.precheck c = none ∧ c.con ≠ 0#32

/-- The instruction is executed with an effect: the next state is that of its issue (R60, R64, R83, R86, R89). -/
def Sys2Proof.Does (i : Instr) (s : State) (c : Issue) (f : Fx) : Prop := exec i s = .next (s.retire c (frameWords (encode i)) f)

/-- The instruction takes a precise trap (R98, R258), with flags raised before it. -/
def Sys2Proof.Traps (i : Instr) (s : State) (c : Issue) (t : Trap) (fl : Cond) : Prop :=
  exec i s = .next (s.takeTrap c (frameWords (encode i)) t fl)

/-- An effect that only writes registers, after a fixed latency (R61, R62). -/
def Sys2Proof.results (s : State) (lat : Nat) (ws : List RegWrite) : Fx := { s := s, work := some (.regs ws), lat := lat }

/-- An effect that leaves an instruction of variable latency pending, after what it does at issue. -/
def Sys2Proof.leaves (s : State) (k : Work) : Fx := { s := s, work := some k }

/-- A value written to the lanes of D, for each contributor. -/
def Sys2Proof.lanesOfD (c : Issue) (f : Nat → Nat) : List RegWrite :=
  (lanesOf c.con).flatMap fun l => vWords c.b.d.toNat l (f l) (Body.regs c.b.dW)

/-- One bit of the predicate D written, for each contributor. -/
def Sys2Proof.bitsOfD (c : Issue) (f : Nat → Bool) : List RegWrite := (lanesOf c.con).map fun l => .k c.b.d.toNat l (f l)

/-- A value written to the s registers of D. -/
def Sys2Proof.wordsOfD (c : Issue) (x : Nat) : List RegWrite := sWords c.b.d.toNat x (Body.regs c.b.dW)

/-- The bytes of memory, of scratchpads and of registers, and everything that is not a wave, are the same, but for the note
that a lane row has issued (R83). -/
def Sys2Proof.sameButWaves (s t : State) : Prop :=
  t.m = s.m ∧ t.wk = s.wk ∧ t.pk = s.pk ∧ t.co = { s.co with issued := t.co.issued, rr := t.co.rr } ∧ t.clock = s.clock

/-- Every wave but one is the same. -/
def Sys2Proof.otherWaves (s t : State) (w : Nat) : Prop := ∀ v, v ≠ w → t.wave v = s.wave v

/-- The rows that only compute on registers and predicates: integer, floating-point, lane and predicate operations,
RCSR, SRD and RNGX, with the C16 and I32 rows of the same effect. -/
def Sys2Proof.registerOnly (i : Instr) : Bool :=
  match i.core with
  | .mov _ | .iadd _ | .isub _ | .iaddc _ | .imul _ | .imulh _ | .imad _ | .imin _ | .imax _ | .iabs _ | .shl _ | .shr _ | .rot _
  | .and _ | .or _ | .xor _ | .andn _ | .bfe _ | .bfi _ | .popc _ | .clz _ | .brev _ | .prmt _ | .lea _ | .icmp _ | .sel _
  | .movU _ | .iaddU _ | .isubU _ | .iaddcU _ | .imulU _ | .imulhU _ | .imadU _ | .iminU _ | .imaxU _ | .iabsU _ | .shlU _ | .shrU _
  | .rotU _ | .andU _ | .orU _ | .xorU _ | .andnU _ | .bfeU _ | .bfiU _ | .popcU _ | .clzU _ | .brevU _ | .prmtU _ | .leaU _
  | .icmpU _ | .selU _
  | .fadd _ | .fsub _ | .fmul _ | .ffma _ | .ffma3 _ | .fmin _ | .fmax _ | .fcmp _ | .fclass _ | .frnd _ | .fcvt _ | .icvt _
  | .hadd2 _ | .hmul2 _ | .hfma2 _ | .hmnx2 _ | .fdot4 _ | .idot4 _ | .mxunpk _ | .mxpack _
  | .fexp2 _ | .flog2 _ | .frcp _ | .frsq _ | .fsqrt _ | .fsin _ | .fcos _ | .ftanh _ | .ferf _ | .rngx _
  | .kand _ | .kor _ | .kxor _ | .knot _ | .kmov _ | .kmovKS _ | .kmovSK _
  | .shfl _ | .vote _ | .redux _ | .scan _ | .matchLanes _ | .bcast _ | .rcsr _ | .srd _ => true
  | _ => false

/-! ## Encoding -/

/-- Words that the spec writes out decode to the instructions they stand for: the worked encodings of R70 (C16 and I32), R152 and
R317. -/
def Obligations.WorkedWordsDecode : Prop :=
  decodeTableWord 16 0x38C4 = some (.cIadd { d := 3#5, b := 7#5 })
  ∧ decodeTableWord 32 0xA78A0A69 = some (.i32Ffma { d := 10#7, a := 20#7, b := 30#7, stall := 5#3 })
  ∧ decodeTableWord 64 0x8080218820C40642 =
      some (.atom { set := 1#3, wait := 6#6, d := 4#8, dW := 1#2, a := 12#8, aW := 1#2, b := 0#8, bW := 1#2, md := 16#5 })
  ∧ decodeTableWord 96 0x4000000000000200713 = some (.barsync { wait := 1#6, lit := some 0x400#32 })

/-- Decoding undoes encoding: from the bytes of any well-formed instruction, whatever follows them, the decoder reads that
instruction, with every operand as it stands (R47 to R59). -/
def Obligations.DecodeUndoesEncode : Prop :=
  ∀ (i : Instr) (rest : List Byte), i.isInstruction = true → i.wellFormed = true → decode (encode i ++ rest) = .ok i

/-- What the decoder reads is a well-formed instruction of the table, never an event: the checks of R70 that need no state
have been made. A parcel 0x0000 decodes to nothing: it is ILLEGAL_ENCODING (R49, R70). -/
def Obligations.DecodedIsWellFormed : Prop :=
  (∀ (bs : List Byte) (i : Instr), decode bs = .ok i → i.isInstruction = true ∧ i.wellFormed = true)
  ∧ ∀ rest : List Byte, decode (0#8 :: 0#8 :: rest) = .error .encoding

/-! ## The step -/

/-- A step runs the decoded instruction: when nothing is due or overdue, the wave that is ready issues, a QUOTA after the
reservations and launches of its clock (R118); when its bytes decode, the step is exec of that instruction with the wave as the
current one. An entry of the agenda that is an event happens before anything else (log entry 1: the model's choice). The ready wave
is that of a row that has not issued in this clock: of the row's ready waves the first in ascending slot order, counting cyclically
from the slot after the one that issued last, which an issue records (R83; before any issue that is slot 15: log entry 17). -/
def Obligations.StepRunsDecoded : Prop :=
  (∀ (s : State) (w pc : Nat) (x : Wave) (bs : List Byte) (i : Instr),
    s.agenda = [] → s.due = none → s.overdue = none → (s.readyWave fun v => s.asksQuota v && s.poolBusy) = some w →
    s.wave w = some x → x.replay = none → x.issuePc = some pc → s.breakAt w x pc = none → s.fetch w x pc = .ok bs →
    decode bs = .ok i → step s = exec i { s with cur := w })
  ∧ (∀ (s : State) (i : Instr) (rest : List Input), s.agenda = .event i :: rest → isEvent i = true →
    step s = exec i { s with agenda := rest })
  ∧ (∀ (s : State) (held : Nat → Bool) (w : Nat), s.readyWave held = some w →
    held w = false ∧ w / 16 ∉ s.co.issued ∧ s.readyIn (w / 16) = some w)
  ∧ (∀ (s : State) (row w : Nat), s.readyIn row = some w →
    let after := fun (slot : Nat) => (slot + 31 - mgetD s.co.rr row 15) % 16
    (∃ x, (w, x) ∈ s.waves ∧ w / 16 = row ∧ s.ready w x = true)
    ∧ ∀ v y, (v, y) ∈ s.waves → v / 16 = row → s.ready v y = true → after (w % 16) ≤ after (v % 16))
  ∧ (∀ (s : State) (v : Nat) (y : Wave), (v, y) ∈ s.waves → s.ready v y = true → s.readyIn (v / 16) ≠ none)
  ∧ (∀ (s : State) (c : Issue) (bs : List Byte) (f : Fx), mget (s.retire c bs f).co.rr (deviceRow c.w) = some (c.w % 16)
    ∧ deviceRow c.w ∈ (s.retire c bs f).co.issued)

/-! ## Reset and the invariant -/

/-- After reset: no wave, no block, no grid and no context is there; nothing is listed in memory, in scratchpads or in
registers; the caches are empty; the device has not booted; the clock reads 0. What nothing listed reads as is the model's
choice (log entry 3). -/
def Obligations.ResetState : Prop :=
  State.reset.waves = [] ∧ State.reset.clock = 0 ∧ State.reset.m.mem = [] ∧ State.reset.m.l1 = [] ∧ State.reset.m.l2 = []
  ∧ State.reset.m.own = [] ∧ State.reset.m.tlb = [] ∧ State.reset.co.icache = [] ∧ State.reset.co.traces = [] ∧ State.reset.co.rf = [] ∧ State.reset.co.sp = []
  ∧ State.reset.wk.blocks = [] ∧ State.reset.wk.grids = [] ∧ State.reset.wk.hgrids = [] ∧ State.reset.wk.queries = []
  ∧ State.reset.devReady = false ∧ State.reset.dataLink = false ∧ State.reset.agenda = []

/-- The memory of the state after reset is in canonical form. The form and what an unlisted byte reads as are the model's
choice (log entry 3). -/
def Obligations.ResetMemoryCanonical : Prop := MemOk State.reset

/-- Every step keeps memory in canonical form: addresses strictly rise, and no entry equals what an unlisted address reads
as. The form and what an unlisted byte reads as are the model's choice (log entry 3). -/
def Obligations.StepKeepsMemory : Prop := ∀ s t : State, MemOk s → step s = .next t → MemOk t

/-! ## Every issue -/

/-- Every step answers a next state where no two waves share a slot, and no step refuses. Every event of the table answers a next
state, in every state; every instruction does where the current wave can issue it, and otherwise names the fault noIssuer (log
entries 4 and 5: the model's choice). -/
def Obligations.NothingStops : Prop :=
  (∀ s : State, mrising s.waves = true → ∃ t, step s = .next t)
  ∧ (∀ (s : State) (r : Refusal), step s ≠ .refused r)
  ∧ (∀ (i : Instr) (s : State), isEvent i = true → ∃ t, exec i s = .next t)
  ∧ (∀ (i : Instr) (s : State) (c : Issue), i.isInstruction = true → s.issuer i.core i.span = some c → ∃ t, exec i s = .next t)
  ∧ (∀ (i : Instr) (s : State), i.isInstruction = true → s.issuer i.core i.span = none → exec i s = .fault .noIssuer)

/-- R67. The guard of an instruction is k(GK), negated when GN is 1; k0 reads all ones, so with GK = 0 and GN = 1 it is false
in every lane. That encoding is as legal as any other, and the instruction is guarded off: whatever it is, it has no effect
but to issue. Where a write of variable latency of the predicate is pending, the bit before it or the bit it writes is read (R65). -/
def Obligations.GuardedOff : Prop :=
  (∀ (x : Wave) (n : Nat) (b : Body) (act : Word) (l : Nat), l < 32 →
    (∀ p ∈ x.pend, .k b.gk.toNat ∈ p.dst → p.work.variable = false) →
    (x.guarded n b act).getLsbD l = (act.getLsbD l && ((x.kread b.gk.toNat).getLsbD l != b.gn)))
  ∧ (∀ (x : Wave) (n : Nat) (b : Body) (act : Word), b.gk = 0#3 → b.gn = true → x.guarded n b act = 0#32)
  ∧ (∀ (x : Wave) (n k l : Nat), l < 32 → (x.earlyK n k).getLsbD l = (x.kread k).getLsbD l
      ∨ ∃ p ∈ x.pend, ∃ b, .k k l b ∈ p.work.known ∧ (x.earlyK n k).getLsbD l = b)
  ∧ (∀ (b : Body) (g : Sig) (k : BitVec 3) (n : Bool), ({ b with gk := k, gn := n } : Body).encLegal g = b.encLegal g)
  ∧ (∀ (i : Instr) (s : State) (c : Issue), i.isInstruction = true → s.issuer i.core i.span = some c →
      s.precheck c = none → c.con = 0#32 → Does i s c { s := s })

/-- R70. A check that fails takes its trap, whatever the instruction: nothing else of it happens. A ready wave whose bytes do
not decode traps with ILLEGAL_OPCODE, ILLEGAL_ENCODING or ILLEGAL_OPERAND at its issue PC, naming its active lanes. -/
def Obligations.FailedCheckTraps : Prop :=
  (∀ (i : Instr) (s : State) (c : Issue) (t : Trap), i.isInstruction = true → s.issuer i.core i.span = some c →
    s.precheck c = some t → Traps i s c t 0#5)
  ∧ (∀ (s : State) (w pc : Nat) (x : Wave) (bs : List Byte) (e : DecodeError),
    s.agenda = [] → s.due = none → s.overdue = none → (s.readyWave fun v => s.asksQuota v && s.poolBusy) = some w →
    s.wave w = some x → x.replay = none → x.issuePc = some pc → s.breakAt w x pc = none → s.fetch w x pc = .ok bs → decode bs = .error e →
    x.hit = none → (x.pend.all fun p => !p.work.isCheck) = true →
    ∃ t y, step s = .next t ∧ t.wave w = some y ∧ y.run = .stopping ∧ y.lanes = x.lanes ∧ t.m = s.m ∧
      ∃ f, y.frame = some f ∧ f.pc = pc ∧ f.trap.mask = x.activeAt pc ∧ f.trap.cause = decodeCause e)

/-- What taking a trap leaves (R98, R258, R262), where no check of the wave is pending and no debug stop waits: the wave
stops, its lanes keep their PCs, epochs and states, and its registers, memory and the other waves stay; the frame names the
cause, the issue PC, the instruction's lanes, the bytes of the instruction and the wave's state. -/
def Obligations.TrapSavesTheWave : Prop :=
  ∀ (s : State) (c : Issue) (bs : List Byte) (t : Trap) (fl : Cond),
    c.x.hit = none → (c.x.pend.all fun p => !p.work.isCheck) = true →
    ∃ y f, (s.takeTrap c bs t fl).wave c.w = some y ∧ y.run = .stopping ∧ y.trapped = true ∧ y.reported = false
      ∧ y.lanes = c.x.lanes ∧ y.s = c.x.s ∧ y.k = c.x.k ∧ y.gmap = c.x.gmap ∧ y.pend = c.x.pend ∧ y.sq = c.x.sq
      ∧ y.wcw = c.x.wcw ||| fl.setWidth 32
      ∧ y.frame = some f ∧ f.trap = t ∧ f.pc = c.pc ∧ f.issueSet = c.con ∧ f.iwords = bs ∧ f.replay = c.replay ∧ f.imprecise = false
      ∧ f.skid = 0 ∧ f.time = s.timeNs ∧ f.live = c.x.lanesIn .live ∧ f.parked = c.x.lanesIn .parked ∧ f.exited = c.x.lanesIn .exited
      ∧ sameButWaves s (s.takeTrap c bs t fl) ∧ otherWaves s (s.takeTrap c bs t fl) c.w

/-- What every issue does beside its effect, where its effect leaves the wave as it was: each active lane goes on to the
fall-through or to where the effect sends it, its neglect is 0, the others stay where they are; the SET slot is claimed
once; the next issue waits for the STALL bound; and where some lane is live and every live one has an epoch of at least 1, every
lane that has not exited loses one (R88). An instruction that will trap leaves every PC and epoch, and one whose check will fail
behind it every epoch (R98, R260). -/
def Obligations.IssueAdvances : Prop :=
  (∀ (s : State) (c : Issue) (bs : List Byte) (f : Fx) (l : Nat),
    s.wave c.w = some c.x → f.s = s → c.replay = false → f.stay = false → l < c.x.lanes.length →
    ∃ y, (s.retire c bs f).wave c.w = some y
      ∧ (y.lane l).pc = (if c.act.getLsbD l ∧ (c.x.lane l).st ≠ .exited then BitVec.ofNat 64 ((f.jump l).getD (c.pc + c.span))
          else (c.x.lane l).pc)
      ∧ (y.lane l).st = (c.x.lane l).st
      ∧ (c.act.getLsbD l = true → (y.lane l).neglect = 0)
      ∧ (∀ i, y.d.getD i 0 = if c.b.set.toNat = i + 1 ∧ i < c.x.d.length then c.x.d.getD i 0 + 1 else c.x.d.getD i 0)
      ∧ s.clock + 1 + c.b.stall.toNat + f.extra ≤ y.next ∧ c.x.next ≤ y.next
      ∧ y.s = c.x.s ∧ y.k = c.x.k ∧ y.wcw = c.x.wcw ∧ y.gmap = c.x.gmap
      ∧ (y.lane l).ep = (if f.skid = false ∧ (∃ m, m < c.x.lanes.length ∧ (c.x.lane m).st = .live)
            ∧ (∀ m, m < c.x.lanes.length → (c.x.lane m).st = .live → 1 ≤ (c.x.lane m).ep) ∧ (c.x.lane l).st ≠ .exited
          then (c.x.lane l).ep - 1 else (c.x.lane l).ep))
  ∧ (∀ (s : State) (c : Issue) (bs : List Byte) (f : Fx) (l : Nat),
    s.wave c.w = some c.x → f.s = s → f.stay = true → l < c.x.lanes.length →
    ∃ y, (s.retire c bs f).wave c.w = some y ∧ (y.lane l).pc = (c.x.lane l).pc ∧ (y.lane l).st = (c.x.lane l).st
      ∧ (y.lane l).ep = (c.x.lane l).ep)

/-! ## Integer operations -/

/-- B, or the literal in its place, of an integer operation (R55, R56, R100). -/
def Sys2Proof.srcB (c : Issue) (s : State) (l : Nat) : Nat := c.lastB s (c.b.ty % 2 == 0) c.b.bitsT l

/-- The count of a shift, or the position and length of BFE: 32 bits of B or of the literal. -/
def Sys2Proof.countB (c : Issue) (s : State) (l : Nat) : Nat := c.lastB s (c.b.ty % 2 == 0) 32 l

/-- The latency and the value of a vector integer row for a lane (R102 to R104); `u` reads the operands of its uniform twin
(R105), whose predicate bit is the lowest contributor's. -/
def Sys2Proof.intRule (i : Instr) : Option (Nat × (Issue → State → Bool → Nat → Nat)) :=
  match i with
  | .mov _ => some (4, fun c s _ l => c.lastA s (c.b.ty % 2 == 0) (32 * Body.regs c.b.dW) l)
  | .iadd _ => some (4, fun c s _ l => wrapT c.b (valT c.b (c.regA s l) + valT c.b (srcB c s l)))
  | .isub _ => some (4, fun c s _ l => wrapT c.b (valT c.b (c.regA s l) - valT c.b (srcB c s l)))
  | .imul _ => some (6, fun c s _ l => c.regA s l * srcB c s l % 2 ^ c.b.bitsT)
  | .imulh _ => some (6, fun c s _ l => lowBits c.b.bitsT ((valT c.b (c.regA s l) * valT c.b (srcB c s l)).fdiv (2 ^ c.b.bitsT)))
  | .imad _ => some (6, fun c s u l =>
      lowBits (if c.b.hi = 1 then 64 else c.b.bitsT) (valT c.b (c.regA s l) * valT c.b (c.regB s l) + c.third s u l))
  | .imin _ => some (4, fun c s _ l => lowBits c.b.bitsT (min (valT c.b (c.regA s l)) (valT c.b (srcB c s l))))
  | .imax _ => some (4, fun c s _ l => lowBits c.b.bitsT (max (valT c.b (c.regA s l)) (valT c.b (srcB c s l))))
  | .iabs _ => some (4, fun c s _ l => wrapT c.b (valT c.b (c.regA s l)).natAbs)
  | .shl _ => some (4, fun c s _ l => if countB c s l ≥ c.b.bitsT then 0 else c.regA s l * 2 ^ countB c s l % 2 ^ c.b.bitsT)
  | .shr _ => some (4, fun c s _ l =>
      if c.b.hi = 1 then lowBits c.b.bitsT ((intOf c.b.bitsT true (c.regA s l)).fdiv (2 ^ min (countB c s l) c.b.bitsT))
      else if countB c s l ≥ c.b.bitsT then 0 else c.regA s l / 2 ^ countB c s l)
  | .rot _ => some (4, fun c s _ l =>
      let n := if c.b.hi = 1 then (c.b.bitsT - countB c s l % c.b.bitsT) % c.b.bitsT else countB c s l % c.b.bitsT
      (c.regA s l * 2 ^ n + c.regA s l / 2 ^ (c.b.bitsT - n)) % 2 ^ c.b.bitsT)
  | .and _ => some (4, fun c s _ l => c.regA s l &&& srcB c s l)
  | .or _ => some (4, fun c s _ l => c.regA s l ||| srcB c s l)
  | .xor _ => some (4, fun c s _ l => c.regA s l ^^^ srcB c s l)
  | .andn _ => some (4, fun c s _ l => c.regA s l &&& (2 ^ c.b.bitsT - 1 - srcB c s l))
  | .bfe _ => some (4, fun c s _ l => bfeVal c.b (c.regA s l) (countB c s l))
  | .bfi _ => some (4, fun c s u l => bfiVal c.b (c.regA s l) (c.regB s l) (c.third s u l))
  | .popc _ => some (4, fun c s _ l => popCount c.b.bitsT (c.regA s l))
  | .clz _ => some (4, fun c s _ l => clz c.b.bitsT (c.regA s l))
  | .brev _ => some (4, fun c s _ l => bitRev c.b.bitsT (c.regA s l))
  | .prmt _ => some (4, fun c s u l =>
      let y := c.third s u l * 2 ^ 32 + c.regA s l
      let b := c.regB s l
      prmtByte y (b % 16) + 256 * prmtByte y (b / 16 % 16) + 65536 * prmtByte y (b / 256 % 16) + 16777216 * prmtByte y (b / 4096 % 16))
  | .lea _ => some (4, fun c s _ l =>
      lowBits 64 (c.regA s l + (if c.b.ty = 0 then intOf 32 true (srcB c s l) else srcB c s l) * 2 ^ c.b.hi))
  | .sel _ => some (4, fun c s u l =>
      if (c.k s c.b.hi).getLsbD (if u then (lanesOf c.con).headD 0 else l) then c.regA s l else srcB c s l)
  | _ => none

/-- The vector row that a uniform row repeats on s registers (R105). -/
def Sys2Proof.uniformTwin (i : Instr) : Option Instr :=
  match i with
  | .movU x => some (.mov x) | .iaddU x => some (.iadd x) | .isubU x => some (.isub x) | .imulU x => some (.imul x)
  | .imulhU x => some (.imulh x) | .imadU x => some (.imad x) | .iminU x => some (.imin x) | .imaxU x => some (.imax x)
  | .iabsU x => some (.iabs x) | .shlU x => some (.shl x) | .shrU x => some (.shr x) | .rotU x => some (.rot x)
  | .andU x => some (.and x) | .orU x => some (.or x) | .xorU x => some (.xor x) | .andnU x => some (.andn x)
  | .bfeU x => some (.bfe x) | .bfiU x => some (.bfi x) | .popcU x => some (.popc x) | .clzU x => some (.clz x)
  | .brevU x => some (.brev x) | .prmtU x => some (.prmt x) | .leaU x => some (.lea x) | .selU x => some (.sel x)
  | _ => none

/-- MOV, IADD, ISUB, IMUL, IMULH, IMAD, IMIN, IMAX, IABS, SHL, SHR, ROT, AND, OR, XOR, ANDN, BFE, BFI, POPC, CLZ, BREV, PRMT,
LEA and SEL, with the C16 rows cMov, cIadd, cIsub, cAnd, cOr, cXor, cShl, cShr, cImul, cImax, cImin and the I32 rows i32Mov,
i32Iadd, i32Isub, i32Imul, i32ImulhI32, i32ImulhN32, i32Imad, i32IminI32, i32IminN32, i32ImaxI32, i32ImaxN32, i32Iabs, i32Shl,
i32Shr, i32ShrA, i32Rot, i32And, i32Or, i32Xor, i32Andn, i32Popc, i32Clz, i32Brev: every one that starts completes, and writes each contributor's lane of D with the value of R102 to R104, after 4
clocks, or 6 for the multiplies. The uniform rows of the same operations write the s registers of D once (R105). -/
def Obligations.IntegerOperations : Prop :=
  (∀ (i : Instr) (lat : Nat) (v : Issue → State → Bool → Nat → Nat), intRule i.core = some (lat, v) →
    ∀ (s : State) (c : Issue), Starts i s c → Does i s c (results s lat (lanesOfD c (v c s false))))
  ∧ (∀ (i j : Instr) (lat : Nat) (v : Issue → State → Bool → Nat → Nat), uniformTwin i = some j → intRule j = some (lat, v) →
    ∀ (s : State) (c : Issue), Starts i s c → Does i s c (results s lat (wordsOfD c (v c s true 32))))

/-- The condition of ICMP by its code (R104). -/
def Sys2Proof.icmpHolds (cond : Nat) (a b : Int) : Bool :=
  if cond = 0 then decide (a = b) else if cond = 1 then decide (a ≠ b) else if cond = 2 then decide (a < b)
  else if cond = 3 then decide (a ≤ b) else if cond = 4 then decide (b < a) else decide (b ≤ a)

/-- IADDC adds a predicate's bit and writes the carry back to it, and ICMP writes a predicate: a bit for each contributor in
the vector rows; in the uniform rows the carry fills the predicate, and ICMP writes all ones or 0 to an s register. -/
def Obligations.CarryAndCompare : Prop :=
  ∀ (x : Body) (s : State) (c : Issue),
    (Starts (.iaddc x) s c →
      let sum := fun l => c.regA s l + srcB c s l + ((c.k s c.b.hi).getLsbD l).toNat
      Does (.iaddc x) s c (results s 4 ((lanesOf c.con).flatMap fun l =>
        .k c.b.hi l (decide (2 ^ c.b.bitsT ≤ sum l)) :: vWords c.b.d.toNat l (sum l % 2 ^ c.b.bitsT) (Body.regs c.b.dW))))
    ∧ (Starts (.iaddcU x) s c →
      let sum := c.regA s 32 + srcB c s 32 + ((c.k s c.b.hi).getLsbD ((lanesOf c.con).headD 0)).toNat
      Does (.iaddcU x) s c (results s 4 (wordsOfD c (sum % 2 ^ c.b.bitsT)
        ++ kwriteAll c.b.hi (if 2 ^ c.b.bitsT ≤ sum then BitVec.allOnes 32 else 0#32))))
    ∧ (Starts (.icmp x) s c →
      Does (.icmp x) s c (results s 4 (bitsOfD c fun l => icmpHolds c.b.hi (valT c.b (c.regA s l)) (valT c.b (srcB c s l)))))
    ∧ (Starts (.icmpU x) s c →
      Does (.icmpU x) s c (results s 4 (wordsOfD c
        (if icmpHolds c.b.hi (valT c.b (c.regA s 32)) (valT c.b (srcB c s 32)) then 2 ^ 32 - 1 else 0))))

/-- Bits of the results of R103: bit i of BREV is bit w − 1 − i of A; CLZ counts the zeros above the highest 1; POPC adds the
bits one by one; ANDN clears the bits of B; and IADD without .sat is addition modulo 2^w. -/
def Obligations.IntegerBitLaws : Prop :=
  (∀ (w a i : Nat), i < w → (bitRev w a).testBit i = a.testBit (w - 1 - i))
  ∧ (∀ (w a : Nat), a < 2 ^ w → clz w a ≤ w ∧ a < 2 ^ (w - clz w a) ∧ (a ≠ 0 → 2 ^ (w - 1 - clz w a) ≤ a))
  ∧ (∀ (w a : Nat), popCount (w + 1) a = popCount w a + (a.testBit w).toNat)
  ∧ (∀ (w a b i : Nat), a < 2 ^ w → b < 2 ^ w → (a &&& (2 ^ w - 1 - b)).testBit i = (a.testBit i && !b.testBit i))
  ∧ (∀ (x : Body) (a b : Nat), x.hi % 2 = 0 → a < 2 ^ x.bitsT → b < 2 ^ x.bitsT → wrapT x (valT x a + valT x b) = (a + b) % 2 ^ x.bitsT)

/-! ## Predicates, lanes and floating point -/

/-- The predicate operations write bit l of kD for each contributor, KMOV to an s register writes the whole predicate (R107,
R108). -/
def Obligations.PredicateOperations : Prop :=
  ∀ (x : Body) (s : State) (c : Issue),
    let a := c.k s c.b.a.toNat
    let b := c.k s c.b.b.toNat
    (Starts (.kand x) s c → Does (.kand x) s c (results s 4 (bitsOfD c fun l => (a &&& b).getLsbD l)))
    ∧ (Starts (.kor x) s c → Does (.kor x) s c (results s 4 (bitsOfD c fun l => (a ||| b).getLsbD l)))
    ∧ (Starts (.kxor x) s c → Does (.kxor x) s c (results s 4 (bitsOfD c fun l => (a ^^^ b).getLsbD l)))
    ∧ (Starts (.knot x) s c → Does (.knot x) s c (results s 4 (bitsOfD c fun l => !a.getLsbD l)))
    ∧ (Starts (.kmov x) s c → Does (.kmov x) s c (results s 4 (bitsOfD c fun l => a.getLsbD l)))
    ∧ (Starts (.kmovKS x) s c →
        Does (.kmovKS x) s c (results s 4 (bitsOfD c fun l => (c.s s c.b.a.toNat).getLsbD l)))
    ∧ (Starts (.kmovSK x) s c → Does (.kmovSK x) s c (results s 4 [.s c.b.d.toNat a]))

/-- The latency and the value of the lane operations and of the rows without flags: the lanes of a tile are those whose
numbers agree above the tile size (R91). -/
def Sys2Proof.laneRule (i : Instr) : Option (Nat × (Issue → State → Nat → Nat)) :=
  let mates := fun (c : Issue) (l : Nat) => (lanesOf c.con).filter fun m => m / c.x.tile == l / c.x.tile
  match i with
  | .fclass _ => some (6, fun c s l =>
      let f : Fmt := if c.b.mdN = 0 then .f32 else if c.b.mdN = 1 then .f16 else .bf16
      fpClass f (c.regA s l % 2 ^ f.bits))
  | .matchLanes _ => some (12, fun c s l =>
      (mates c l).foldl (fun w m => if c.regA s m = c.regA s l then w + 2 ^ (m - l / c.x.tile * c.x.tile) else w) 0)
  | .bcast _ => some (8, fun c s l =>
      let m := l / c.x.tile * c.x.tile + c.lastB s false 32 l % c.x.tile
      if c.con.getLsbD m then c.regA s m else 0)
  | .idot4 _ => some (8, fun c s l =>
      let w := if c.b.md.getLsbD 2 then 4 else 8
      let term := fun (i : Nat) =>
        intOf w (!c.b.md.getLsbD 0) (elemOf w (c.regA s l) i) * intOf w (!c.b.md.getLsbD 1) (elemOf w (c.regB s l) i)
      let sum := ((List.range (capacity w (Body.regs c.b.aW))).map term).foldl (· + ·) (0 : Int)
      (((c.third s false l : Int) + sum) % (2 ^ 32 : Int)).toNat)
  | .rngx _ => some (12, fun c s l =>
      let b := c.regB s l
      let y := philox 10 (b % 2 ^ 32, b / 2 ^ 32 % 2 ^ 32, b / 2 ^ 64 % 2 ^ 32, b / 2 ^ 96)
        (c.s s c.b.a.toNat).toNat (c.s s (c.b.a.toNat + 1)).toNat
      y.1 + 2 ^ 32 * y.2.1 + 2 ^ 64 * y.2.2.1 + 2 ^ 96 * y.2.2.2)
  | _ => none

/-- FCLASS, MATCH, BCAST, IDOT4 (with i32Idot4I8 and i32Idot4N8) and RNGX write each contributor's lane of D (R125, R135, R146, R147,
R151). SHFL writes a lane's source value, or its own where the source is out of the tile, and a predicate bit that says whether
a contributor gave it; VOTE combines a predicate over the contributors of each tile: all, any, all alike, or as bits; LPART
sets the tile size, and nothing else of the wave's registers. -/
def Obligations.LaneOperations : Prop :=
  (∀ (i : Instr) (lat : Nat) (v : Issue → State → Nat → Nat), laneRule i.core = some (lat, v) →
    ∀ (s : State) (c : Issue), Starts i s c → Does i s c (results s lat (lanesOfD c (v c s))))
  ∧ (∀ (x : Body) (s : State) (c : Issue),
    let n := c.x.tile
    let mates := fun (l : Nat) => (lanesOf c.con).filter fun m => m / n == l / n
    let a := c.k s c.b.a.toNat
    (Starts (.shfl x) s c →
      Does (.shfl x) s c (results s 8 ((lanesOf c.con).flatMap fun l =>
        let r : Nat × Bool := match shflSource (c.b.mdN % 4) n (l % n) (c.lastB s false 32 l) with
          | none => (c.regA s l, false)
          | some j => if c.con.getLsbD (l / n * n + j) then (c.regA s (l / n * n + j), true) else (0, false)
        .k c.b.hi l r.2 :: vWords c.b.d.toNat l r.1 (Body.regs c.b.dW))))
    ∧ (Starts (.vote x) s c → c.b.mdN = 0 →
        Does (.vote x) s c (results s 8 (bitsOfD c fun l => (mates l).all fun m => a.getLsbD m)))
    ∧ (Starts (.vote x) s c → c.b.mdN = 1 →
        Does (.vote x) s c (results s 8 (bitsOfD c fun l => (mates l).any fun m => a.getLsbD m)))
    ∧ (Starts (.vote x) s c → c.b.mdN = 2 →
        Does (.vote x) s c (results s 8 (bitsOfD c fun l =>
          ((mates l).all fun m => a.getLsbD m) || !((mates l).any fun m => a.getLsbD m))))
    ∧ (Starts (.vote x) s c → 3 ≤ c.b.mdN →
        Does (.vote x) s c (results s 8 (lanesOfD c fun l =>
          (mates l).foldl (fun w m => if a.getLsbD m then w + 2 ^ (m - l / n * n) else w) 0)))
    ∧ (Starts (.lpart x) s c →
        Does (.lpart x) s c { s := s.modWave c.w fun y => { y with ts := c.b.mdN } }))

/-- The latency, the value and the conditions of a floating-point row for a lane (R121 to R132, R134, R137). -/
def Sys2Proof.fpRule (i : Instr) : Option (Nat × (Issue → State → Nat → Nat × Cond)) :=
  match i with
  | .fadd _ => some (6, fun c s l => fpAdd .f32 (rmOf (c.b.mdN % 8)) (c.b.md.getLsbD 3) (c.regA s l) (c.lastB s false 32 l))
  | .fsub _ => some (6, fun c s l => fpSub .f32 (rmOf (c.b.mdN % 8)) (c.b.md.getLsbD 3) (c.regA s l) (c.lastB s false 32 l))
  | .fmul _ => some (6, fun c s l => fpMul .f32 (rmOf (c.b.mdN % 8)) (c.b.md.getLsbD 3) (c.regA s l) (c.lastB s false 32 l))
  | .ffma _ => some (6, fun c s l =>
      fpFma .f32 (rmOf (c.b.mdN % 8)) (c.b.md.getLsbD 3) (c.regA s l) (c.regB s l) (c.third s false l))
  | .ffma3 _ => some (6, fun c s l =>
      let r := fpFma3 (rmOf (c.b.mdN % 8)) (c.regA s l) (c.regB s l) (c.third s false l % 2 ^ 32) (c.third s false l / 2 ^ 32)
      (r.1 + 2 ^ 32 * r.2.1, r.2.2))
  | .fmin _ => some (6, fun c s l => fpMinMax .f32 false (c.regA s l) (c.lastB s false 32 l))
  | .fmax _ => some (6, fun c s l => fpMinMax .f32 true (c.regA s l) (c.lastB s false 32 l))
  | .frnd _ => some (6, fun c s l => fpRound (rmOf (c.b.mdN % 8)) (c.b.md.getLsbD 3) (c.regA s l))
  | .fcvt _ => some (6, fun c s l =>
      let src := fcvtFmt (c.b.b.toNat / 8 % 8)
      let rm := rmOf (c.b.mdN % 8)
      packConds (fcvtFmt (c.b.b.toNat % 8)).bits ((elemsOf src.bits (c.regA s l) (fcvtCount c.b)).zipIdx.map fun p =>
        let z := if rm = .sr then (c.v s ((fcvtRandom c.b).1 + p.2 / 2) l).toNat / 2 ^ (16 * (p.2 % 2)) % 65536 else 0
        if src = fcvtFmt (c.b.b.toNat % 8) then (if (src.decode p.1).isNan then (src.nan, if (src.decode p.1).isSNan then Cond.nv else 0#5) else (p.1, 0#5))
        else convert src (fcvtFmt (c.b.b.toNat % 8)) rm (c.b.md.getLsbD 3) z p.1))
  | .icvt _ => some (6, fun c s l =>
      let src := c.b.b.toNat / 16
      let dst := c.b.b.toNat % 16
      packConds (icvtBits dst) ((elemsOf (icvtBits src) (c.regA s l)
          (min (capacity (icvtBits src) (Body.regs c.b.aW)) (capacity (icvtBits dst) (Body.regs c.b.dW)))).map
        (icvtElem src dst (rmOf (c.b.mdN % 8)) (c.b.md.getLsbD 3))))
  | .hadd2 _ => some (6, fun c s l => halves fun h =>
      fpAdd (pairFmt c) (rmOf (c.b.mdN / 2 % 8)) (c.b.md.getLsbD 4) (elemOf 16 (c.regA s l) h) (elemOf 16 (c.lastB s false 32 l) h))
  | .hmul2 _ => some (6, fun c s l => halves fun h =>
      fpMul (pairFmt c) (rmOf (c.b.mdN / 2 % 8)) (c.b.md.getLsbD 4) (elemOf 16 (c.regA s l) h) (elemOf 16 (c.lastB s false 32 l) h))
  | .hfma2 _ => some (6, fun c s l => halves fun h =>
      fpFma (pairFmt c) (rmOf (c.b.mdN / 2 % 8)) (c.b.md.getLsbD 4) (elemOf 16 (c.regA s l) h) (elemOf 16 (c.regB s l) h)
        (elemOf 16 (c.third s false l) h))
  | .hmnx2 _ => some (6, fun c s l => halves fun h =>
      fpMinMax (pairFmt c) (c.b.md.getLsbD 1) (elemOf 16 (c.regA s l) h) (elemOf 16 (c.lastB s false 32 l) h))
  | .fdot4 _ => some (8, fun c s l =>
      let k := c.third s false l
      let mx := c.b.md.getLsbD 3
      let f := fdotFmt (c.b.mdN % 8)
      let n := fdotCount c.b
      let r := dotChunk f (if mx then some (k / 2 ^ 32 % 256, k / 2 ^ 40 % 256) else none)
        (elemsOf f.bits (c.dotArg s c.b.aS c.b.a c.b.aW l) n) (elemsOf f.bits (c.dotArg s c.b.bS c.b.b c.b.bW l) n) (k % 2 ^ 32)
      (r.1 + (if mx then 2 ^ 32 * (k / 2 ^ 32) else 0), r.2))
  | .mxunpk _ => some (6, fun c s l =>
      let f := mxFmt (c.b.mdN % 8)
      let b := c.regB s l
      packConds (wideBits c) ((List.range (min (capacity (wideBits c) (Body.regs c.b.dW)) 32)).map fun i =>
        let code := c.regA s l / 2 ^ (f.bits * ((b / 256 % 32 + i) % 32)) % 2 ^ f.bits
        match wideFmt (c.b.mdN / 8) with
        | none => (code, 0#5)
        | some g =>
          if b % 256 = 255 then (g.nan, 0#5) else g.convertVal .rne false 0 ((f.decode code).scale (((b % 256 : Nat) : Int) - 127))))
  | .mxpack _ => some (6, fun c s l =>
      let f := mxFmt (c.b.mdN % 8)
      let b := c.regB s l
      (elemsOf (wideBits c) (c.regA s l) (min (capacity (wideBits c) (Body.regs c.b.aW)) 32)).zipIdx.foldl (fun a p =>
        let r : Nat × Cond := match wideFmt (c.b.mdN / 8) with
          | none => (p.1, 0#5)
          | some g =>
            if b % 256 = 255 then (0, Cond.nv) else f.convertVal .rne true 0 ((g.decode p.1).scale (127 - ((b % 256 : Nat) : Int)))
        (putBits a.1 (f.bits * ((b / 256 % 32 + p.2) % 32)) f.bits r.1, a.2 ||| r.2)) (c.regD s l % 2 ^ (32 * f.bits), 0#5))
  | _ => none

/-- Lane, value and conditions of each contributor. -/
def Sys2Proof.fpLaneResults (c : Issue) (v : Nat → Nat × Cond) : List (Nat × Nat × Cond) := (lanesOf c.con).map fun l => (l, v l)

/-- FADD, FSUB, FMUL, FFMA, FFMA3, FMIN, FMAX, FRND, FCVT, ICVT, HADD2, HMUL2, HFMA2, HMNX2, FDOT4, MXUNPK and MXPACK, with
the C16 rows cFadd, cFsub, cFmul, cFmin, cFmax and the I32 rows i32Fadd, i32FaddRtz, i32FaddRdn, i32FaddRup, i32Fsub, i32Fmul,
i32FmulRtz, i32FmulRdn, i32FmulRup, i32Ffma, i32FfmaRtz, i32Fmin, i32Fmax, i32FrndRne, i32FrndRdn, i32FrndRup, i32FrndRtz,
i32FcvtF32F16, i32FcvtF32Bf16, i32FcvtF16F32, i32FcvtBf16F32, i32FcvtF32E4m3, i32FcvtF32E5m2, i32IcvtF32I32, i32IcvtF32N32,
i32IcvtI32F32, i32IcvtN32F32, i32Hadd2F16, i32Hadd2Bf16, i32Hmul2F16, i32Hmul2Bf16, i32Hfma2F16, i32Hfma2Bf16, i32Hmnx2MinF16,
i32Hmnx2MaxF16, i32Hmnx2MinBf16, i32Hmnx2MaxBf16, i32Fdot4E4m3, i32Fdot4E5m2: where no enabled condition occurs, every one that starts completes, ORs the conditions
of all contributors into the sticky flags, and writes each contributor's lane of D, after 6 clocks, or 8 for the dot
product. That FCVT's stochastic rounding raises UF by the value the random bits gave is deduced (log entry 26). -/
def Obligations.FloatResults : Prop :=
  ∀ (i : Instr) (lat : Nat) (v : Issue → State → Nat → Nat × Cond), fpRule i.core = some (lat, v) →
    ∀ (s : State) (c : Issue), Starts i s c → c.x.fpTrap (fpLaneResults c (v c s)) = none →
      Does i s c (results (s.modWave c.w fun y => y.orFlags (condsOf (fpLaneResults c (v c s)))) lat
        (lanesOfD c fun l => (v c s l).1))

/-- R36. Where some contributor raises a condition whose enable bit is 1, the same rows trap with FP_EXCEPTION and write no
register; the conditions raised are ORed into the flags all the same. The sub-cause holds every condition raised in [4:0] and
those of them that are enabled in [12:8]; the mask names the lanes that raised an enabled one. -/
def Obligations.FloatTraps : Prop :=
  ∀ (i : Instr) (lat : Nat) (v : Issue → State → Nat → Nat × Cond), fpRule i.core = some (lat, v) →
    ∀ (s : State) (c : Issue), Starts i s c →
      c.x.enabled (condsOf (fpLaneResults c (v c s))) ≠ 0#5 →
      ∃ t : Trap, t.cause = .fpException
        ∧ t.sub = (condsOf (fpLaneResults c (v c s))).toNat + 256 * (c.x.enabled (condsOf (fpLaneResults c (v c s)))).toNat
        ∧ (∀ l, l < 32 → t.mask.getLsbD l = (c.con.getLsbD l && c.x.enabled (v c s l).2 != 0#5))
        ∧ Traps i s c t (condsOf (fpLaneResults c (v c s)))

/-- FCMP writes a predicate bit for each contributor, and REDUX and SCAN write the value of each tile's tree, in the fixed
order of R150, a NaN as the canonical one, a lone element's among them (log entry 26: deduced); all three OR their conditions into
the flags, and complete where none of them is enabled. -/
def Obligations.CompareReduceScan : Prop :=
  ∀ (x : Body) (s : State) (c : Issue),
    let cmp := fun l => fpCmp (c.b.mdN % 8) (c.b.md.getLsbD 3) (c.regA s l) (c.lastB s false 32 l)
    let tree := fun (op l : Nat) (step : Nat → List Nat × Cond → List Nat × Cond) =>
      tileTree step ((List.range c.x.tile).map fun i =>
        if c.con.getLsbD (l / c.x.tile * c.x.tile + i) then c.regA s (l / c.x.tile * c.x.tile + i) else reduxId op) (5 - c.x.ts)
    let canon := fun (op v : Nat) => if 8 ≤ op ∧ (Fmt.f32.decode v).isNan then 0x7FC00000 else v
    let red := fun l => let r := tree c.b.mdN l (reduxStep c.b.mdN); (canon c.b.mdN (r.1.getD 0 0), r.2)
    let op := c.b.mdN % 16
    let scn := fun l =>
      let r := tree op l (scanStep op)
      let i := l % c.x.tile
      (canon op (if c.b.md.getLsbD 4 then (if i = 0 then reduxId op else r.1.getD (i - 1) 0) else r.1.getD i 0), r.2)
    (Starts (.fcmp x) s c → c.x.fpTrap (fpLaneResults c fun l => ((cmp l).1.toNat, (cmp l).2)) = none →
      Does (.fcmp x) s c (results (s.modWave c.w fun y => y.orFlags (condsOf (fpLaneResults c fun l => ((cmp l).1.toNat, (cmp l).2)))) 6
        (bitsOfD c fun l => (cmp l).1)))
    ∧ (Starts (.redux x) s c → c.x.fpTrap (fpLaneResults c red) = none →
      Does (.redux x) s c (results (s.modWave c.w fun y => y.orFlags (condsOf (fpLaneResults c red))) 12
        ((lanesOf c.con).flatMap fun l => vWords c.b.d.toNat l (red l).1 1)))
    ∧ (Starts (.scan x) s c → c.x.fpTrap (fpLaneResults c scn) = none →
      Does (.scan x) s c (results (s.modWave c.w fun y => y.orFlags (condsOf (fpLaneResults c scn))) 12
        ((lanesOf c.con).flatMap fun l => vWords c.b.d.toNat l (scn l).1 1)))

/-- The function of a special-function row (R138). -/
def Sys2Proof.sfuRule (i : Instr) : Option Sfu :=
  match i with
  | .fexp2 _ => some .exp2 | .flog2 _ => some .log2 | .frcp _ => some .rcp | .frsq _ => some .rsq | .fsqrt _ => some .sqrt
  | .fsin _ => some .sin | .fcos _ => some .cos | .ftanh _ => some .tanh | .ferf _ => some .erf | _ => none

/-- FEXP2, FLOG2, FRCP, FRSQ, FSQRT, FSIN, FCOS, FTANH and FERF: the results and the conditions are those of the operands at
issue; they are written later, no sooner than 20 clocks after it, and an enabled condition traps then (R139). One that will raise an
enabled condition does not issue behind a pending translation check: its cause is held there (R260). -/
def Obligations.SpecialFunctions : Prop :=
  ∀ (i : Instr) (f : Sfu), sfuRule i = some f → ∀ (s : State) (c : Issue), Starts i s c →
    let rs := fpLaneResults c fun l => sfuLane f (c.regA s l)
    let behind := ∃ p ∈ c.x.pend, p.work.isCheck = true
    (∀ t, behind → c.x.fpTrap rs = some t → Traps i s c t (condsOf rs))
    ∧ (¬behind ∨ c.x.fpTrap rs = none → Does i s c
      { s := s.modWave c.w fun y => y.orFlags (condsOf rs)
        work := some (.sfu (rs.flatMap fun r => vWords c.b.d.toNat r.1 r.2.1 1) (c.x.fpTrap rs))
        lat := 20, hold := c.x.enables != 0#5, stay := (c.x.fpTrap rs).isSome })

/-- What the register rows leave alone, whether they complete, are guarded off or trap: all of memory, every scratchpad, every
register of every wave (results land later), every other wave and everything that is not a wave; of their own wave, the
scalar and predicate registers, the register map, the store queue, the tile size, the transaction's lines unless it traps, and
all of the wave control word but its sticky flags. -/
def Obligations.RegisterRowsFrame : Prop :=
  ∀ (i : Instr) (s t : State), registerOnly i = true → exec i s = .next t →
    sameButWaves s t ∧ otherWaves s t s.cur
    ∧ ∀ x y, s.wave s.cur = some x → t.wave s.cur = some y →
      y.s = x.s ∧ y.k = x.k ∧ y.gmap = x.gmap ∧ y.sq = x.sq ∧ y.ts = x.ts ∧ y.enrol = x.enrol ∧ y.arrivals = x.arrivals
      ∧ y.mon = x.mon ∧ y.parks = x.parks ∧ (y.wcw &&& 0xFFFFFFE0#32) = (x.wcw &&& 0xFFFFFFE0#32)
      ∧ (y.run = .running → y.txn = x.txn)

/-- A result that lands (R62): its registers are written, its slot is released and it is pending no longer. Memory, the
scratchpads, every other wave, and every register that the result does not name stay as they were. A register within the wave's
allocation then reads the value written, s0 and k0 excepted, which keep reading 0 and all ones (R52, R75). -/
def Obligations.ResultsLand : Prop :=
  (∀ (s : State) (w n : Nat) (x : Wave) (p : Pend) (ws : List RegWrite),
    s.wave w = some x → x.pending n = some p → (p.work = .regs ws ∨ p.work = .bound ws) → p.due ≤ s.clock → x.inOrder p = true →
    ∃ t y, exec (.resultLanded w n) s = .next t ∧ t.wave w = some y
      ∧ t.m = s.m ∧ t.wk = s.wk ∧ t.pk = s.pk ∧ t.co.sp = s.co.sp ∧ otherWaves s t w
      ∧ y.pending n = none ∧ y.lanes = x.lanes ∧ y.wcw = x.wcw ∧ y.gmap = x.gmap
      ∧ (∀ r l, (∀ v b, RegWrite.v r l v b ∉ ws) → (∀ q ∈ ws, ∀ r' l' v b, q = .v r' l' v b → rfKey w x r' l' ≠ rfKey w x r l) →
          t.vread w y r l = s.vread w x r l)
      ∧ (∀ r, (∀ v, RegWrite.s r v ∉ ws) → y.sread r = x.sread r)
      ∧ (∀ r l, l < 32 → (∀ l' b, RegWrite.k r l' b ∉ ws) → (y.kread r).getLsbD l = (x.kread r).getLsbD l))
  ∧ (∀ (s : State) (w n : Nat) (x : Wave) (p : Pend) (r : RegWrite),
    s.wave w = some x → x.pending n = some p → p.work = .regs [r] → p.due ≤ s.clock → x.inOrder p = true →
    mrising s.co.rf = true → mrising x.s = true → mrising x.k = true →
    ∃ t y, exec (.resultLanded w n) s = .next t ∧ t.wave w = some y ∧
      match r with
      | .v i l v b => i < 8 * x.alloc → t.vread w y i l = v ∧ (mrising s.co.rfBad = true → t.vbad w y i l = b)
      | .s i v => y.sread i = if i = 0 then 0#32 else v
      | .k i l b => l < 32 → (y.kread i).getLsbD l = if i = 0 then true else b)

/-! ## Control, lanes and the system -/

/-- Some live lane outside the active set has been passed over 1,024 times (R89). -/
def Sys2Proof.neglectedLane (c : Issue) : Bool :=
  (List.range c.x.lanes.length).any fun l =>
    (c.x.lane l).st == .live && !c.act.getLsbD l && decide (1024 ≤ (c.x.lane l).neglect)

/-- The contributors that a transfer sends to their own address or backward. -/
def Sys2Proof.sentBack (c : Issue) (target : Nat → Nat) : Word := maskOf fun l => c.con.getLsbD l && decide (target l ≤ c.pc)

/-- A control transfer: each contributor goes to its target, with the registers it writes; where some lane is neglected, those
sent backward yield (R89); `extra` clocks go by before the next issue. -/
def Sys2Proof.transfers (s : State) (c : Issue) (target : Nat → Nat) (ws : List RegWrite) (extra : Nat) : Fx :=
  { s := if neglectedLane c && sentBack c target != 0#32 then s.modWave c.w fun y => y.yieldLanes (sentBack c target) else s
    work := if ws = [] then none else some (.regs ws), lat := 4
    jump := fun l => if c.con.getLsbD l then some (target l) else none, extra := extra }

/-- BRA and CALL go to the address of the instruction plus the signed literal; BRX, CALLX and RET to each contributor's A, when
it is even and, for BRX and CALLX, one of the declared targets, a list of n adding ceil(n / 16) clocks; CALL and CALLX write the
address after the instruction, and its list, to D. A contributor whose target
is odd, or outside the declared list, makes BRX, CALLX and RET trap with TARGET_FAULT, naming every such contributor, and no lane
moves (R109 to R112). -/
def Obligations.ControlTransfers : Prop :=
    (∀ (x : Body) (ts : List Word) (s : State) (c : Issue),
    let label := (c.pc + litExt true 64 (c.b.lit.getD 0#32)) % 2 ^ 64
    let link := lanesOfD c fun _ => (c.pc + c.span) % 2 ^ 64
    let even := ∀ l, l < 32 → c.con.getLsbD l = true → c.regA s l % 2 = 0
    let listed := ∀ l, l < 32 → c.con.getLsbD l = true → ∃ e ∈ ts, (c.pc + litExt true 64 e) % 2 ^ 64 = c.regA s l
    (Starts (.bra x) s c → Does (.bra x) s c (transfers s c (fun _ => label) [] 0))
    ∧ (Starts (.call x) s c → Does (.call x) s c (transfers s c (fun _ => label) link 0))
    ∧ (Starts (.brx x ts) s c → even → listed → Does (.brx x ts) s c (transfers s c (c.regA s) [] ((ts.length + 15) / 16)))
    ∧ (Starts (.callx x ts) s c → even → listed → Does (.callx x ts) s c (transfers s c (c.regA s) link ((ts.length + 15) / 16)))
    ∧ (Starts (.ret x) s c → even → Does (.ret x) s c (transfers s c (c.regA s) [] 0)))
  ∧ (∀ (x : Body) (ts : List Word) (s : State) (c : Issue),
    let odd := maskOf fun l => c.con.getLsbD l && decide (c.regA s l % 2 = 1)
    let off := maskOf fun l => c.con.getLsbD l &&
      (decide (c.regA s l % 2 = 1) || decide (¬∃ e ∈ ts, (c.pc + litExt true 64 e) % 2 ^ 64 = c.regA s l))
    (Starts (.ret x) s c → odd ≠ 0#32 → Traps (.ret x) s c { cause := .targetFault, mask := odd } 0#5)
    ∧ (Starts (.brx x ts) s c → off ≠ 0#32 → Traps (.brx x ts) s c { cause := .targetFault, mask := off } 0#5)
    ∧ (Starts (.callx x ts) s c → off ≠ 0#32 → Traps (.callx x ts) s c { cause := .targetFault, mask := off } 0#5))

/-- R87. YIELD raises the epoch of each contributor by 1, and at 15 leaves it; the other lanes keep theirs. -/
def Obligations.YieldRaisesEpochs : Prop :=
  ∀ (x : Body) (s : State) (c : Issue), Starts (.yield x) s c →
    let up := fun (l : Nat) (z : Lane) => if c.con.getLsbD l then { z with ep := min (z.ep + 1) 15 } else z
    Does (.yield x) s c { s := s.modWave c.w fun y => { y with lanes := y.lanes.mapIdx up } }

/-- EXIT and KILL end the contributors, KILL also sets its block's KILLED indicator; NOP and WAITD do nothing but issue (R113).
Ending lanes leaves the others alone where the wave is enrolled in no barrier. A wave that is enrolled departs from its
barriers, which is a release: it issues once its older accesses have been performed (log entry 21: the model's choice). -/
def Obligations.LanesEnd : Prop :=
  ∀ (x : Body) (s : State) (c : Issue),
    (Starts (.exit x) s c → c.x.enrol = [] ∨ c.x.settled = true → Does (.exit x) s c { s := s.exitLanes c.w c.con })
    ∧ (Starts (.kill x) s c → c.x.enrol = [] ∨ c.x.settled = true → ∃ t, Does (.kill x) s c { s := t } ∧ t.waves = (s.exitLanes c.w c.con).waves
        ∧ t.m = (s.exitLanes c.w c.con).m ∧ t.co = (s.exitLanes c.w c.con).co
        ∧ ∀ b, t.block b = if b = c.x.blk then ((s.exitLanes c.w c.con).block b).map fun y => { y with killed := true }
            else (s.exitLanes c.w c.con).block b)
    ∧ (Starts (.nop x) s c → Does (.nop x) s c { s := s })
    ∧ (Starts (.waitd x) s c → Does (.waitd x) s c { s := s })
    ∧ (∀ (w l : Nat) (y : Wave) (m : Word), s.wave w = some y → y.enrol = [] → l < y.lanes.length →
        ∃ z, (s.exitLanes w m).wave w = some z ∧ (s.exitLanes w m).m = s.m ∧ otherWaves s (s.exitLanes w m) w
          ∧ z.lane l = if m.getLsbD l then { y.lane l with st := .exited, ep := 0, neglect := 0 } else y.lane l)

/-- TRAP and BKPT trap with their code and name the contributors (R115); WCSR writes the writable bits of the wave control word
(R76, R77); RCSR reads the control registers, and SRD the special registers (R116, R117). -/
def Obligations.SystemRegisters : Prop :=
  ∀ (x : Body) (s : State) (c : Issue),
    let sel := c.b.litN
    let blk := s.block c.x.blk
    let special := fun (l : Nat) =>
      if sel = 0 then l else if sel = 1 then (c.x.lane l).ep else if sel = 2 then c.w % 64 else if sel = 3 then c.w / 64
      else if sel = 4 then c.w / 256 else if sel = 5 then s.ctxNo c.x else if sel = 6 then (blk.map Block.depth).getD 0
      else if sel = 7 then (blk.map Block.prio).getD 0 else if sel = 8 then s.clock - mgetD s.co.start (c.w / 64) 0
      else if sel = 9 then s.timeNs else (blk.map Block.gen).getD 0
    (Starts (.trap x) s c → Traps (.trap x) s c { cause := .userTrap, sub := c.sB s, mask := c.con } 0#5)
    ∧ (Starts (.bkpt x) s c → (s.dbg (clusterOfWave c.w)).den = false →
        Traps (.bkpt x) s c { cause := .breakpoint, sub := c.sB s, mask := c.con } 0#5)
    ∧ (Starts (.rcsr x) s c → Does (.rcsr x) s c (results s 4 [.s c.b.d.toNat
        (if sel = 0 then c.x.wcw ||| (BitVec.ofNat 32 c.x.gmap.length <<< 16)
         else if sel = 1 then BitVec.ofNat 32 c.x.ts else if sel = 2 then c.x.lanesIn .live else if sel = 3 then c.act
         else if sel = 4 then c.x.lanesIn .parked else c.x.lanesIn .exited)]))
    ∧ (Starts (.wcsr x) s c → Does (.wcsr x) s c { s := s.modWave c.w fun y => { y with wcw := c.s s c.b.a.toNat &&& 0x9F1F#32 } })
    ∧ (Starts (.srd x) s c → c.b.md ≠ 1#5 → Does (.srd x) s c (results s 4 (lanesOfD c special)))
    ∧ (Starts (.srd x) s c → c.b.md = 1#5 → Does (.srd x) s c (results s 4 (wordsOfD c (special 0))))

/-- The three forms of QUOTA (R118): every one that starts completes. 0 granules change nothing; the status is 3 where the wave
would keep none, 2 where a wave would hold more than 32 or the row has too few free, 1 where the index names no other wave of the
block on the row, 4 where the target is in a grid or being saved; else granules move, from the top of the giver's map, and a
granule taken from free quota reads 0. The result is the status and the wave's ALLOC; it, and the target's gain, follow in a
later clock. That gives in flight count toward the 32 of the target is deduced, and that the issuer's part of the move is made at its
issue is the model's choice (log entry 22), as is which free granules a .take gains, the lowest (log entry 16). -/
def Obligations.QuotaMoves : Prop :=
  ∀ (x : Body) (s : State) (c : Issue),
    let n := c.sB s
    let have' := c.x.gmap
    let answers := fun (st : Nat) (kept : Nat) (t : Option Nat) (gs : List Nat) =>
      some (Work.quota (st * 2 ^ 28 + kept) t gs { cls := 1, base := c.b.d.toNat, cnt := 1 })
    let shrunk := s.modWave c.w fun y => { y with gmap := y.gmap.take (y.gmap.length - n) }
    let row := deviceRow c.w
    let held := have'.length
    let target := s.waves.find? fun p => p.2.blk == c.x.blk && p.2.widx == (c.s s c.b.a.toNat).toNat && deviceRow p.1 == row
    let refusal := match target with
      | none => 1
      | some (t, y) =>
        if t = c.w then 1 else if (s.gridOfWave t).isSome = true ∨ y.run = .saving then 4 else if held < n + 1 then 3
        else if 32 < y.gmap.length + s.onWay y.uid + n then 2 else 0
    (∀ i, i = .quotaGive x ∨ i = .quotaRel x ∨ i = .quotaTake x → Starts i s c → ∃ t, exec i s = .next t)
    ∧ (∀ i, i = .quotaGive x ∨ i = .quotaTake x → Starts i s c → n = 0 → Does i s c { s := s, work := answers 0 held none [] })
    ∧ (Starts (.quotaGive x) s c → 0 < n → refusal ≠ 0 → Does (.quotaGive x) s c { s := s, work := answers refusal held none [] })
    ∧ (Starts (.quotaRel x) s c → n = 0 → Does (.quotaRel x) s c { s := s, work := answers 0 held none [] })
    ∧ (Starts (.quotaRel x) s c → 0 < n → held < n + 1 → Does (.quotaRel x) s c { s := s, work := answers 3 held none [] })
    ∧ (Starts (.quotaRel x) s c → 0 < n → n + 1 ≤ held → Does (.quotaRel x) s c { s := shrunk, work := answers 0 (held - n) none [] })
    ∧ (Starts (.quotaTake x) s c → 0 < n → 32 < held + s.onWay c.x.uid + n ∨ (s.freeGranules row).length < n →
        Does (.quotaTake x) s c { s := s, work := answers 2 held none [] })
    ∧ (Starts (.quotaTake x) s c → 0 < n → held + s.onWay c.x.uid + n ≤ 32 → n ≤ (s.freeGranules row).length →
        Does (.quotaTake x) s c
          { s := (s.zeroGranules row ((s.freeGranules row).take n)).modWave c.w (fun y => { y with gmap := y.gmap ++ (s.freeGranules row).take n })
            work := answers 0 (held + n) none [] })
    ∧ (∀ (t : Nat) (y : Wave), Starts (.quotaGive x) s c → 0 < n →
        target = some (t, y) → t ≠ c.w → s.gridOfWave t = none → y.run ≠ .saving → n + 1 ≤ held → y.gmap.length + s.onWay y.uid + n ≤ 32 →
        Does (.quotaGive x) s c { s := shrunk, work := answers 0 (held - n) (some y.uid) (have'.drop (held - n)) })

/-- ICINV of a range that runs past the top of the address space traps; any other, and ICINV of everything, holds the wave
until it completes, and then its core holds no line and no trace window for the wave's context that has a byte of the range, or a
byte of an instruction of the trace cache that reaches into it; it drops nothing of another context or core, and an empty range
selects nothing (R119, R167). -/
def Obligations.InstructionCacheInvalidation : Prop :=
  (∀ (x : Body) (s : State) (c : Issue),
    let lo := c.sGroup s c.b.a.toNat 2
    let len := (c.s s c.b.b.toNat).toNat
    (Starts (.icinv x) s c → 2 ^ 64 < lo + len → Traps (.icinv x) s c { cause := .illegalOperand, mask := c.act } 0#5)
    ∧ (Starts (.icinv x) s c → lo + len ≤ 2 ^ 64 → Does (.icinv x) s c { s := s, work := some (.icinv false lo len), hold := true })
    ∧ (Starts (.icinvAll x) s c → Does (.icinvAll x) s c { s := s, work := some (.icinv true 0 0), hold := true }))
  ∧ ∀ (s : State) (w n lo len : Nat) (all : Bool) (x : Wave) (p : Pend),
      s.wave w = some x → x.pending n = some p → p.work = .icinv all lo len → (∀ e ∈ x.sq, n < e.stamp) →
      let mine := fun (q : Nat × ILine) => q.1 = coreOf w ∧ q.2.ctx = s.ctxNo x
      let meets := fun (q : Nat × ILine) (size : Nat) => len ≠ 0 ∧ q.2.va < lo + len ∧ lo < q.2.va + size
      ∃ t, exec (.icinvComplete w n) s = .next t ∧ t.m = s.m ∧ t.wk = s.wk
        ∧ (∀ q, q ∈ t.co.icache → q ∈ s.co.icache ∧ (mine q → all = false ∧ ¬meets q 128))
        ∧ (∀ q, q ∈ t.co.traces → q ∈ s.co.traces ∧ (mine q → all = false ∧ ¬meets q 64))
        ∧ (∀ q, q ∈ s.co.icache → ¬mine q ∨ (all = false ∧ len = 0) → q ∈ t.co.icache)
        ∧ (∀ q, q ∈ s.co.traces → ¬mine q ∨ (all = false ∧ len = 0) → q ∈ t.co.traces)
        ∧ ∀ a bs, len ≠ 0 → a % 2 = 0 →
          ∀ q, q ∈ t.co.traces → mine q → fetchTry (s.codeByte (coreOf w) (s.ctxNo x) q.2.gen) a 4 [] = .ok bs →
            ¬(a < q.2.va + 64 ∧ q.2.va < a + bs.length ∧ a < lo + len ∧ lo < a + bs.length)

/-! ## Memory -/

/-- How a global or window access is checked, the type and size it has, and its scope where it acquires or releases. -/
def Sys2Proof.accessRule (i : Instr) (c : Issue) : Option (Ask × Nat × Nat × Option Nat × Bool) :=
  let n := memBytes c.b.mdN
  match i with
  | .ld _ => some ({ kind := .load, align := 1, win := true }, c.b.mdN % 8, memBytes (c.b.mdN % 8), none, false)
  | .ldw _ => some ({ kind := .load, align := n, win := true, only := true }, c.b.mdN, n, none, false)
  | .st _ => some ({ kind := .store, align := 1, win := true }, 0, memBytes (c.b.mdN % 8), none, true)
  | .stw _ => some ({ kind := .store, align := n, win := true, only := true }, 0, n, none, true)
  | .lda _ =>
    if c.b.aW = 0#2 then none
    else some ({ kind := .load, align := 4 * 2 ^ (c.b.mdN % 4), win := true, whole := true }, 4, 4 * 2 ^ (c.b.mdN % 4), some (c.b.mdN / 4), false)
  | .stl _ =>
    if c.b.aW = 0#2 then none
    else some ({ kind := .store, align := 4 * 2 ^ (c.b.mdN % 4), win := true, whole := true }, 0, 4 * 2 ^ (c.b.mdN % 4), some (c.b.mdN / 4), true)
  | _ => none

/-- The accesses of the contributors: their addresses are A plus the signed literal. -/
def Sys2Proof.accesses (s : State) (c : Issue) (n : Nat) : List Want :=
  (lanesOf c.con).map fun l => { lane := l, va := (c.regA s l + litExt true 64 (c.b.lit.getD 0#32)) % 2 ^ 64, n := n }

/-- The same for a scratchpad form: modulo 2^18. -/
def Sys2Proof.spAccesses (s : State) (c : Issue) (n : Nat) : List Want :=
  (lanesOf c.con).map fun l => { lane := l, va := (c.regA s l + litExt true 64 (c.b.lit.getD 0#32)) % 2 ^ 18, n := n }

/-- The bytes that the parts of a store put: those of each lane's B, captured at issue. -/
def Sys2Proof.stored (s : State) (c : Issue) (n : Nat) (ps : List Piece) : List Put :=
  ps.map fun p => { at' := p, bytes := ((leBytesOf n (c.regB s p.lane)).drop p.off).take p.len }

/-- LD, LDW and LDA, ST, STW and STL, in global memory and the window: where every address passes its checks, a load is
pending with its parts, and a store joins the wave's store queue (R165, R178, R179, R181). That the checks are settled at
issue is the model's choice (log entry 8). -/
def Obligations.GlobalAccesses : Prop :=
  ∀ (i : Instr) (s s1 : State) (c : Issue) (a : Ask) (ty n : Nat) (scope : Option Nat) (ps : List Piece),
    Starts i s c → s.checkGlobal (coreOf c.w) (s.ctxNo c.x) c.x.blk a (accesses s c n) = (s1, .ok ps) →
    (accessRule i c = some (a, ty, n, scope, false) → Does i s c
      { s := s1, work := some (.load ty n scope ps [] [] { cls := 0, base := c.b.d.toNat, cnt := Body.regs c.b.dW }), parts := ps })
    ∧ (accessRule i c = some (a, ty, n, scope, true) → Does i s c
      { s := s1.modWave c.w fun y => { y with sq := y.sq ++ [{ stamp := s.stamp, puts := stored s c n ps, scope := scope }] }
        work := some .store, parts := ps })

/-- An instruction whose check fails: it traps; in SKID mode a page or access fault stays pending instead, unless one already is, and the
instruction, which has issued, moves no epoch; `s2` is what that issue leaves (R98, R177, R260). -/
def Sys2Proof.failsCheck (i : Instr) (s s1 s2 : State) (c : Issue) (t : Trap) : Prop :=
  let late := (t.cause = .pageFault ∨ t.cause = .accessFault) ∧ (s1.ctxRec c.x).skid = true
  (¬late → Traps i s c t 0#5)
  ∧ (late → (∀ p ∈ c.x.pend, p.work.isCheck = false) → Does i s c { s := s2, work := some (.check (some t) 0 none), skid := true })

/-- Where an address of these fails its check, the instruction traps with what failed, and neither loads nor stores; in SKID
mode a page or access fault stays pending instead, unless one already is (R177, R260). That the checks are settled at issue
is the model's choice (log entry 8). -/
def Obligations.AccessFailures : Prop :=
  ∀ (i : Instr) (s s1 : State) (c : Issue) (a : Ask) (ty n : Nat) (scope : Option Nat) (isW : Bool) (t : Trap),
    Starts i s c → accessRule i c = some (a, ty, n, scope, isW) →
    s.checkGlobal (coreOf c.w) (s.ctxNo c.x) c.x.blk a (accesses s c n) = (s1, .error t) →
    failsCheck i s s1 s1 c t

/-- A trap of one cause that names, of some accesses in ascending lane order, the lanes that a test finds, and the address of the
lowest of them (R177). -/
def Sys2Proof.blames (t : Trap) (cause : Cause) (qs : List Want) (bad : Want → Bool) : Prop :=
  t.cause = cause ∧ t.addr = ((qs.filter bad).head?.map Want.va).getD 0
  ∧ ∀ l, l < 32 → t.mask.getLsbD l = qs.any fun q => q.lane == l && bad q

/-- How the accesses of an instruction fail, whatever it asks for: more than 8 bytes in the window, and the two-word forms of ATOM there,
are ILLEGAL_OPERAND; an address that is not aligned as the form asks, or naturally in the window, is MISALIGNED; an access outside
the window by LDW or STW, by a form that may not touch it, to a part of it that gives the block nothing, or by ATOM to a register
there, is WINDOW_PERM; then a page fault comes before an access fault. In the scratchpad MISALIGNED comes before SCRATCH_RANGE. The trap
names every lane that fails with its cause and the lowest one's address (R158, R163, R173, R177, R187). That the checks are settled
at issue is the model's choice (log entry 8). -/
def Obligations.WindowChecks : Prop :=
  (∀ (s : State) (core ctx blk : Nat) (a : Ask) (qs : List Want),
    let there := fun (q : Want) => onWindow q.va q.n
    let wide := fun (q : Want) => a.win && there q && (a.w2 || decide (8 < q.n))
    let skewed := fun (q : Want) => decide (q.va % a.align ≠ 0) || (a.win && there q && decide (q.va % min q.n 8 ≠ 0))
    let gives := fun (q : Want) => match s.windowLoc blk q.va q.n with
      | none => false
      | some l => !a.spOnly || (match l with | .sp .. => true | _ => false)
    let barred := fun (q : Want) => if there q then !(a.win && gives q) else a.only
    let ok := fun (bad : Want → Bool) => ∀ q ∈ qs, bad q = false
    (¬ok wide → ∃ t, s.checkGlobal core ctx blk a qs = (s, .error t) ∧ blames t .illegalOperand qs wide)
    ∧ (ok wide → ¬ok skewed → ∃ t, s.checkGlobal core ctx blk a qs = (s, .error t) ∧ blames t .misaligned qs skewed)
    ∧ (ok wide → ok skewed → ¬ok barred → ∃ t, s.checkGlobal core ctx blk a qs = (s, .error t) ∧ blames t .windowPerm qs barred)
    ∧ (ok wide → ok skewed → ok barred → ∀ s1 rs, s.translateAll core ctx a (qs.filter fun q => !there q) = (s1, rs) →
      let failed := fun (page : Bool) => rs.filter fun r => match r.2.2 with | .error e => isPageFault e == page | .ok _ => false
      let names := fun (t : Trap) (cause : Cause) (page : Bool) => t.cause = cause ∧ t.addr = ((failed page).head?.map fun r => r.2.1).getD 0
        ∧ ∀ l, l < 32 → t.mask.getLsbD l = (failed page).any fun r => r.1 == l
      (failed true ≠ [] → ∃ t, s.checkGlobal core ctx blk a qs = (s1, .error t) ∧ names t .pageFault true)
      ∧ (failed true = [] → failed false ≠ [] → ∃ t, s.checkGlobal core ctx blk a qs = (s1, .error t) ∧ names t .accessFault false)
      ∧ (failed true = [] → failed false = [] → ∃ ps, s.checkGlobal core ctx blk a qs = (s1, .ok ps))))
  ∧ (∀ (s : State) (core blk align : Nat) (whole : Bool) (qs : List Want),
    let skewed := fun (q : Want) => decide (q.va % align ≠ 0)
    let beyond := fun (q : Want) => decide ((((s.block blk).bind fun b => b.region core).getD (0, 0)).2 < q.va + q.n)
    ((∃ q ∈ qs, skewed q = true) → ∃ t, s.checkSp core blk align whole qs = .error t ∧ blames t .misaligned qs skewed)
    ∧ ((∀ q ∈ qs, skewed q = false) → (∃ q ∈ qs, beyond q = true) →
      ∃ t, s.checkSp core blk align whole qs = .error t ∧ blames t .scratchRange qs beyond)
    ∧ ((∀ q ∈ qs, skewed q = false ∧ beyond q = false) → ∃ ps, s.checkSp core blk align whole qs = .ok ps))

/-- LDS and STS, and the scratchpad forms of LDA and STL: an address that is not aligned, or beyond the block's region,
traps; else the access is pending in passes (R158, R160, R177, R181). That the checks are settled at issue is the model's
choice (log entry 8). -/
def Obligations.ScratchpadAccesses : Prop :=
  ∀ (i : Instr) (s : State) (c : Issue) (align ty n : Nat) (scope : Option Nat) (whole isW : Bool),
    (match i with
      | .lds _ => (min (memBytes c.b.mdN) 4, c.b.mdN, memBytes c.b.mdN, (none : Option Nat), false, false) = (align, ty, n, scope, whole, isW)
      | .sts _ => (min (memBytes c.b.mdN) 4, 0, memBytes c.b.mdN, (none : Option Nat), false, true) = (align, ty, n, scope, whole, isW)
      | .lda _ => c.b.aW = 0#2 ∧ (4 * 2 ^ (c.b.mdN % 4), 4, 4 * 2 ^ (c.b.mdN % 4), some (c.b.mdN / 4), true, false) = (align, ty, n, scope, whole, isW)
      | .stl _ => c.b.aW = 0#2 ∧ (4 * 2 ^ (c.b.mdN % 4), 0, 4 * 2 ^ (c.b.mdN % 4), some (c.b.mdN / 4), true, true) = (align, ty, n, scope, whole, isW)
      | _ => False) →
    Starts i s c →
    (∀ t, s.checkSp (coreOf c.w) c.x.blk align whole (spAccesses s c n) = .error t → Traps i s c t 0#5)
    ∧ (∀ ps, s.checkSp (coreOf c.w) c.x.blk align whole (spAccesses s c n) = .ok ps →
      let swz := ((s.block c.x.blk).map Block.swz).getD false
      let dst : Dst := { cls := 0, base := c.b.d.toNat, cnt := Body.regs c.b.dW }
      let todo : Work :=
        if isW then .spStore scope (passesOf swz (fun (q : Put) => (q.at'.spOff, q.at'.len)) (stored s c n ps))
        else .spLoad ty n scope (passesOf swz (fun (p : Piece) => (p.spOff, p.len)) ps) [] [] dst
      Does i s c { s := s, parts := ps, work := some todo })

/-- ATOM, ATOMF and RED: where every location passes its checks, the word operations are pending, each with its operand, at
the L1, at the home slice or, in the scratchpad form, in passes; the block is no longer DISCARDABLE (R184 to R188, R268). A
form that updates two words has one operation for each. A location that fails its check makes the instruction trap, or stays
pending in SKID mode. A word operation in the L1 of a core that owns its line returns the old bytes and leaves the new ones, by the
arithmetic of R185; a second one at the location starts from what the first left (R186). That the checks are settled at issue is the
model's choice (log entry 8). -/
def Obligations.Atomics : Prop :=
  (∀ (x : Body) (s s1 : State) (c : Issue) (ps : List Piece),
    let n := if 16 ≤ c.b.mdN then 8 else 4
    let code := c.b.mdN % 16
    let two := 16 ≤ c.b.mdN ∧ 12 ≤ c.b.mdN % 16
    let ops := fun (s : State) (p : Piece) =>
      let b := c.regB s p.lane
      if two then
        [({ lane := p.lane, half := 0, len := 4, va := p.va, loc := p.loc, b := b % 2 ^ 32, bHigh := 0 } : WordOp),
         { lane := p.lane, half := 1, len := 4, va := p.va + 4, loc := p.loc.plus 4, b := b / 2 ^ 32, bHigh := 0 }]
      else [{ lane := p.lane, half := 0, len := n, va := p.va, loc := p.loc, b := b % 2 ^ (8 * n), bHigh := b / 2 ^ (8 * n) % 2 ^ (8 * n) }]
    let dst : Dst := { cls := 0, base := c.b.d.toNat, cnt := Body.regs c.b.dW }
    let ask := fun (win : Bool) => ({ kind := .rmw, align := n, win := win, spOnly := true, w2 := decide two } : Ask)
    let check := fun (win : Bool) => s.checkGlobal (coreOf c.w) (s.ctxNo c.x) c.x.blk (ask win) (accesses s c n)
    (Starts (.atom x) s c → c.b.aW ≠ 0#2 → check true = (s1, .ok ps) → Does (.atom x) s c
      { s := s1.notDiscardable c.x.blk, parts := ps, work := some (.near code n (ps.flatMap (ops s1)) [] [] dst) })
    ∧ (Starts (.atom x) s c → c.b.aW = 0#2 → s.checkSp (coreOf c.w) c.x.blk n false (spAccesses s c n) = .ok ps → Does (.atom x) s c
      { s := s.notDiscardable c.x.blk, parts := ps
        work := some (.spAtom code n (passesOf (((s.block c.x.blk).map Block.swz).getD false)
          (fun (o : WordOp) => (match o.loc with | .sp _ off _ => off | _ => o.va, o.len)) (ps.flatMap (ops s))) [] [] dst) })
    ∧ (Starts (.atomf x) s c → check false = (s1, .ok ps) → Does (.atomf x) s c
      { s := s1.notDiscardable c.x.blk, parts := ps, work := some (.far code n (ps.flatMap (ops s1)) [] [] (some dst)) })
    ∧ (Starts (.red x) s c → check false = (s1, .ok ps) → Does (.red x) s c
      { s := s1.notDiscardable c.x.blk, parts := ps, work := some (.far code n (ps.flatMap (ops s1)) [] [] none) })
    ∧ (∀ (i : Instr) (t : Trap), (i = .atom x ∧ c.b.aW ≠ 0#2 ∧ check true = (s1, .error t))
        ∨ ((i = .atomf x ∨ i = .red x) ∧ check false = (s1, .error t)) → Starts i s c →
      failsCheck i s s1 (s1.notDiscardable c.x.blk) c t)
    ∧ (∀ t, Starts (.atom x) s c → c.b.aW = 0#2 → s.checkSp (coreOf c.w) c.x.blk n false (spAccesses s c n) = .error t →
      Traps (.atom x) s c t 0#5))
  ∧ (∀ (m old b h : Nat),
    let int := fun (v : Nat) => intOf (8 * m) true v
    let two := fun (f : Fmt) => (fpAdd f .rne false (old % 65536) (b % 65536)).1 + 65536 * (fpAdd f .rne false (old / 65536) (b / 65536)).1
    wordOp 0 m old b h = (old + b) % 2 ^ (8 * m)
    ∧ int (wordOp 1 m old b h) = min (int old) (int b) ∧ int (wordOp 2 m old b h) = max (int old) (int b)
    ∧ wordOp 3 m old b h = min old b ∧ wordOp 4 m old b h = max old b
    ∧ (∀ k, (wordOp 5 m old b h).testBit k = (old.testBit k && b.testBit k)
      ∧ (wordOp 6 m old b h).testBit k = (old.testBit k || b.testBit k)
      ∧ (wordOp 7 m old b h).testBit k = (old.testBit k != b.testBit k))
    ∧ wordOp 8 m old b h = b ∧ wordOp 9 m old b h = (if old = b then h else old)
    ∧ wordOp 10 m old b h = (if b ≤ old then 0 else old + 1)
    ∧ wordOp 11 m old b h = (if old = 0 ∨ b < old then b else old - 1)
    ∧ wordOp 12 m old b h = (fpAdd .f32 .rne false old b).1
    ∧ wordOp 13 m old b h = two .bf16 ∧ wordOp 14 m old b h = two .f16)
  ∧ (∀ (s : State) (w code pa : Nat) (o o' : WordOp) (got : Map Byte) (bad : List Nat),
    let core := coreOf w
    let fits := fun (s : State) (o : WordOp) => o.loc = .mem pa ∧ pa % 128 + o.len ≤ 128 ∧ s.locBad core (.mem pa) o.len = false
      ∧ mget s.m.own (pa / 128) = some core
    let old := fun (s : State) (o : WordOp) => readBytes (s.m.coreByte core) pa o.len
    let new := fun (s : State) (o : WordOp) => leBytesOf o.len (wordOp code o.len (leVal (old s o)) o.b o.bHigh)
    let r := s.doWordOp w (.l1 core) code o got bad
    fits s o → r.2.2 = bad
      ∧ (∀ i, i < o.len → r.1.m.coreByte core (pa + i) = (new s o).getD i 0#8)
      ∧ (mrising got = true → ∀ i, i < o.len → cget r.2.1 (32 * o.lane + 4 * o.half + i) 0#8 = (old s o).getD i 0#8)
      ∧ (fits r.1 o' → ∀ i, i < o'.len →
        (s.doWordOps w (.l1 core) code [o, o'] got bad).1.m.coreByte core (pa + i) = (new r.1 o').getD i 0#8))

/-- PF has no effect; FENCE is pending with its kind and scope; CLEAN and INVAL of a range that wraps or touches the window trap,
at lane or core scope do nothing, and else are pending with the lines to bring to their state (R180, R182, R183). -/
def Obligations.FencesAndMaintenance : Prop :=
  ∀ (x : Body) (s : State) (c : Issue),
    let lo := (c.regA s 0 + litExt true 64 (c.b.lit.getD 0#32)) % 2 ^ 64
    let n := (c.s s c.b.b.toNat).toNat
    let wrong := n ≠ 0 ∧ (2 ^ 64 < lo + n ∨ (lo < 0xE000020000000 ∧ 0xE000000000000 < lo + n))
    (Starts (.pf x) s c → Does (.pf x) s c { s := s })
    ∧ (Starts (.fence x) s c → Does (.fence x) s c { s := s, work := some (.fence (c.b.mdN / 8) (c.b.mdN % 8)) })
    ∧ ∀ (inval : Bool) (i : Instr), i = (if inval then .inval x else .clean x) → Starts i s c →
      (wrong → Traps i s c { cause := .illegalOperand, mask := c.act } 0#5)
      ∧ (¬wrong → c.b.mdN < 2 → Does i s c { s := s })
      ∧ (¬wrong → 2 ≤ c.b.mdN → ∀ s1 pages, s.rangeMap (coreOf c.w) (s.ctxNo c.x) lo n = (s1, pages) →
          Does i s c { s := s1, work := some (.maint inval c.b.mdN (s1.maintLines (coreOf c.w) c.x pages lo n)) })

/-- The multi-line conditional store (R189 to R192). MLRES reserves its line, at most four of the wave and 64 of its core, and reads
it with the buffered stores over it; a fifth line is ML_LIMIT. MLST buffers its bytes, up to 16 stores, a seventeenth being ML_LIMIT and
one to a line not reserved ML_STATE; of a lost transaction its bytes are discarded. MLCOMMIT of a transaction that is lost, has
nothing reserved, or has been disturbed answers 2, 3 or 1 and stores nothing; one that nothing disturbed makes its stores as one
event and answers 0; each ends the transaction as MLABORT does. That the checks are settled at issue, and that MLRES and a commit
issue once the wave's older accesses have been performed (log entries 8 and 21), that these traps name the contributors (21), that a
line which two waves reserve counts once, and a commit is checked and made at its issue (28), and that a disturbed transaction
asks for ownership of no further line (42) are the model's. -/
def Obligations.MultiLineStores : Prop :=
  ∀ (x : Body) (s s1 : State) (c : Issue) (ps : List Piece),
    let n := 4 * 2 ^ c.b.mdN
    let check := fun (k : AccKind) => s.checkGlobal (coreOf c.w) (s.ctxNo c.x) c.x.blk { kind := k, align := n, win := false }
      [{ lane := (lanesOf c.con).headD 0, va := (c.regA s ((lanesOf c.con).headD 0) + litExt true 64 (c.b.lit.getD 0#32)) % 2 ^ 64, n := n }]
    let reserved := ∃ p ∈ c.x.txn.lines, p.1 = lineOf (firstPa ps)
    let core := coreOf c.w
    let line := lineOf (firstPa ps)
    let reads := fun (s2 : State) (buf : List Put) =>
      let value := leVal (overlay buf (firstPa ps) (readBytes (s2.m.coreByte core) (firstPa ps) n))
      Does (.mlres x) s c { s := c.watchNow s2 ps false true, parts := ps, work := some (.bound (wordsOfD c value)) }
    (Starts (.mlres x) s c → c.x.settled = true → check .load = (s1, .ok ps) → c.x.txn.lost = false → c.x.txn.disturbed = [] → reserved →
      reads (s1.exclusive core line) c.x.txn.buf)
    ∧ (Starts (.mlres x) s c → c.x.settled = true → check .load = (s1, .ok ps) → c.x.txn.lost = false → c.x.txn.disturbed = [] → ¬reserved →
      c.x.txn.lines.length < 4 → line ∈ s1.reservedOn core ∨ (s1.reservedOn core).length < 64 →
      reads ((s1.exclusive core line).modWave c.w fun y => { y with txn := { y.txn with lines := y.txn.lines ++ [(line, s1.clock)] } })
        c.x.txn.buf)
    ∧ (Starts (.mlres x) s c → c.x.settled = true → check .load = (s1, .ok ps) → c.x.txn.lost = true → reads (s1.fill core line) [])
    ∧ (Starts (.mlres x) s c → check .load = (s1, .ok ps) → c.x.txn.lost = false → ¬reserved → 4 ≤ c.x.txn.lines.length →
      Traps (.mlres x) s c { cause := .mlLimit, mask := c.con } 0#5)
    ∧ (Starts (.mlres x) s c → c.x.settled = true → check .load = (s1, .ok ps) → c.x.txn.lost = false → c.x.txn.disturbed ≠ [] → reserved →
      reads (s1.fill core line) c.x.txn.buf)
    ∧ (Starts (.mlres x) s c → c.x.settled = true → check .load = (s1, .ok ps) → c.x.txn.lost = false → c.x.txn.disturbed ≠ [] → ¬reserved →
      c.x.txn.lines.length < 4 → line ∈ s1.reservedOn core ∨ (s1.reservedOn core).length < 64 →
      reads ((s1.fill core line).modWave c.w fun y => { y with txn := { y.txn with
        lines := y.txn.lines ++ [(line, s1.clock)], disturbed := ladd y.txn.disturbed line } }) c.x.txn.buf)
    ∧ (Starts (.mlst x) s c → check .store = (s1, .ok ps) → c.x.txn.lost = true → Does (.mlst x) s c { s := s1 })
    ∧ (Starts (.mlst x) s c → check .store = (s1, .ok ps) → c.x.txn.lost = false → reserved → 16 ≤ c.x.txn.buf.length →
      Traps (.mlst x) s c { cause := .mlLimit, mask := c.con } 0#5)
    ∧ (Starts (.mlst x) s c → check .store = (s1, .ok ps) → c.x.txn.lost = false → reserved → c.x.txn.buf.length < 16 →
      ∀ p rest, ps = p :: rest →
      let put : Put := { at' := { p with len := n }, bytes := leBytesOf n (c.regB s1 ((lanesOf c.con).headD 0)) }
      Does (.mlst x) s c { s := s1.modWave c.w fun y => { y with txn := { y.txn with buf := y.txn.buf ++ [put] } } })
    ∧ (Starts (.mlst x) s c → check .store = (s1, .ok ps) → c.x.txn.lost = false → ¬reserved →
      Traps (.mlst x) s c { cause := .mlState, mask := c.con } 0#5)
    ∧ (Starts (.mlcommit x) s c → s.wave c.w = some c.x → c.x.txn.lost = true ∨ c.x.txn.lines = [] →
      Does (.mlcommit x) s c { s := (s.modWave c.w fun y => { y with txn := {} }).notDiscardable c.x.blk
                               work := some (.bound (wordsOfD c (if c.x.txn.lost then 2 else 3))), parts := c.x.txn.buf.map Put.at' })
    ∧ (Starts (.mlcommit x) s c → c.x.txn.lost = false → c.x.txn.lines ≠ [] → c.x.txn.disturbed ≠ [] →
      Does (.mlcommit x) s c { s := (s.modWave c.w fun y => { y with txn := {} }).notDiscardable c.x.blk
                               work := some (.bound (wordsOfD c 1)), parts := c.x.txn.buf.map Put.at' })
    ∧ (Starts (.mlcommit x) s c → c.x.settled = true → c.x.txn.lost = false → c.x.txn.lines ≠ [] → c.x.txn.disturbed = [] →
      let done := (s.commitAcquire core c.b.mdN (c.x.txn.lines.map Prod.fst)).commit core c.b.mdN (c.x.fences core) c.x.txn.buf
      let seen := c.watchNow done (c.x.txn.buf.map Put.at') true true
      Does (.mlcommit x) s c { s := (seen.modWave c.w fun y => { y with txn := {} }).notDiscardable c.x.blk
                               work := some (.bound (wordsOfD c 0)), parts := c.x.txn.buf.map Put.at' })
    ∧ (Starts (.mlabort x) s c → Does (.mlabort x) s c { s := s.modWave c.w fun y => { y with txn := {} } })

/-! ## Synchronisation -/

/-- The wave with a barrier among those it is enrolled in; none when its table of 8 is full (R95, R195). -/
def Sys2Proof.enrolledState (s : State) (c : Issue) (id : Nat) : Option State :=
  if id ∈ c.x.enrol then some (s.modWave c.w fun y => { y with enrol := c.x.enrol })
  else if c.x.enrol.length < 8 then some (s.modWave c.w fun y => { y with enrol := c.x.enrol ++ [id] })
  else none

/-- A parked group that is released: it leaves the wave's list, and its parked lanes are live, with no neglect (R82, R89). -/
def Sys2Proof.wakes (t : State) (w : Nat) (x : Wave) (r : Park) : Prop :=
  ∃ z, t.wave w = some z ∧ r ∉ z.parks
    ∧ ∀ l, l < x.lanes.length → l < 32 → r.mask.getLsbD l = true → (x.lane l).st = .parked →
        z.lane l = { x.lane l with st := .live, neglect := 0 }

/-- BARINIT sets a barrier's target and clears its phase and counts; BARENROL enrols the wave; BARARV makes the contributors
arrive; BARQ is pending, and one clock later it is answered with the arrival count and the phase (R193 to R198). For each of them an
identifier that names no barrier raises SYNC_RANGE. A lane that has not arrived in the current phase counts once, and the phase
completes when the count reaches the target, the next one starting from the departed count; a lane that has arrived counts no more.
That an arrival, which is a release, issues once the wave's older accesses have been performed, and that SYNC_RANGE and
BARRIER_BUSY name the contributors, is the model's choice (log entry 21). -/
def Obligations.Barriers : Prop :=
  (∀ (x : Body) (s : State) (c : Issue),
    let named := fun (id : Nat) => s.barKey (coreOf c.w) c.x.blk id
    let idA := (c.s s c.b.a.toNat).toNat
    (∀ key, Starts (.barinit x) s c → named idA = some key → 1 ≤ c.sB s → c.sB s ≤ 8192 → s.barParked key = false →
      ∃ t, Does (.barinit x) s c { s := t } ∧ t.m = s.m ∧ t.wk = s.wk
        ∧ mget t.co.bars key = some { target := c.sB s, phase := 0, arr := 0, dep := 0, full := false, startClk := s.clock }
        ∧ ∀ k, k ≠ key → mget t.co.bars k = mget s.co.bars k)
    ∧ (∀ (i : Instr) (id : Nat), (i = .barinit x ∧ id = idA) ∨ ((i = .barenrol x ∨ i = .bararv x ∨ i = .barq x) ∧ id = c.sA s) →
        Starts i s c → named id = none → Traps i s c { cause := .syncRange, mask := c.con } 0#5)
    ∧ (∀ key, Starts (.barinit x) s c → named idA = some key → (c.sB s = 0 ∨ 8192 < c.sB s) →
        Traps (.barinit x) s c { cause := .illegalOperand, mask := c.act } 0#5)
    ∧ (∀ key, Starts (.barinit x) s c → named idA = some key → 1 ≤ c.sB s → c.sB s ≤ 8192 → s.barParked key = true →
        Traps (.barinit x) s c { cause := .barrierBusy, mask := c.con } 0#5)
    ∧ (∀ key t, Starts (.barenrol x) s c → named (c.sA s) = some key → enrolledState s c (c.sA s) = some t → Does (.barenrol x) s c { s := t })
    ∧ (∀ key, Starts (.barenrol x) s c → named (c.sA s) = some key → enrolledState s c (c.sA s) = none →
        Traps (.barenrol x) s c { cause := .barrierLimit, mask := c.act } 0#5)
    ∧ (∀ key t, Starts (.bararv x) s c → c.x.settled = true → named (c.sA s) = some key → enrolledState s c (c.sA s) = some t →
        Does (.bararv x) s c { s := t.arriveAll c.w key (lanesOf c.con) false })
    ∧ (∀ key, Starts (.barq x) s c → named (c.sA s) = some key →
        Does (.barq x) s c { s := s, work := some (.barq key { cls := 1, base := c.b.d.toNat, cnt := Body.regs c.b.dW }) }))
  ∧ (∀ (s : State) (w n key : Nat) (x : Wave) (p : Pend) (d : Dst), s.wave w = some x → x.pending n = some p → p.work = .barq key d →
    let b := s.bar key (((s.block x.blk).map Block.threads).getD 1)
    (p.due ≤ s.clock → exec (.resultLanded w n) s =
      .next (s.putWave w (x.bind n s.clock (d.writes 0 (b.arr * 2 ^ 16 + b.phase % 2 ^ 16) 0))))
    ∧ (s.clock < p.due → exec (.resultLanded w n) s = .next s))
  ∧ (∀ (key clock lane : Nat) (seen : List Nat) (b : Bar) (a : Map Nat),
    let out := arriveLane key clock false seen (b, a) lane
    (mget a (arrKey key lane) = some b.phase → out.2 = a ∧ out.1 = { b with deps := out.1.deps })
    ∧ (mget a (arrKey key lane) ≠ some b.phase → out.2 = mput a (arrKey key lane) b.phase
      ∧ (b.arr + 1 < b.target → out.1 = { b with arr := b.arr + 1, deps := out.1.deps })
      ∧ (b.arr + 1 = b.target → out.1.phase = b.phase + 1 ∧ out.1.arr = b.dep ∧ out.1.dep = b.dep ∧ out.1.target = b.target
        ∧ out.1.startClk = clock)))

/-- BARWAIT and BARSYNC, the latter after its arrival: contributors that wait for a phase that is over acquire at the barrier's scope
what its arrivals released and go on; the others park, a group for each phase that they wait for, and the rest of the wave stays as
it is (R197). A group whose phase has completed is released when the barrier is, unless a debug stop holds the wave (R275). That
BARSYNC, which is a release, issues once the wave's older accesses have been performed is the model's choice (log entry 21). -/
def Obligations.BarrierWaits : Prop :=
  (∀ (x : Body) (s t : State) (c : Issue) (key : Nat),
    s.barKey (coreOf c.w) c.x.blk (c.sA s) = some key → enrolledState s c (c.sA s) = some t →
    ∀ (i : Instr) (u : State) (held : Bool),
      (i = .barwait x ∧ u = t ∧ held = false)
        ∨ (i = .barsync x ∧ u = t.arriveAll c.w key (lanesOf c.con) false ∧ held = t.barHeld c.w c.x) →
      Starts i s c → (i = .barsync x → c.x.settled = true) → ∀ y, u.wave c.w = some y →
      let b := u.bar key (((u.block c.x.blk).map Block.threads).getD 1)
      let awaited := fun (l : Nat) => (mget y.arrivals (arrKey key l)).getD b.phase
      let waits := fun (l : Nat) => c.con.getLsbD l && (held || decide (b.phase ≤ awaited l))
      let past := (lanesOf c.con).filter fun l => !waits l
      let acquired := if past = [] then u else u.acquireAt (coreOf c.w) (barScope key) (b.before (past.map awaited))
      ((∀ l, l < 32 → waits l = false) → Does i s c { s := acquired })
      ∧ ((∃ l, l < 32 ∧ waits l = true) → ∃ v z new, Does i s c { s := v, work := some (.park none) }
          ∧ v.wave c.w = some z ∧ otherWaves u v c.w ∧ v.wk = u.wk ∧ v.co = acquired.co ∧ v.m = acquired.m
          ∧ z = { y with lanes := z.lanes, parks := y.parks ++ new }
          ∧ (∀ r ∈ new, r.stamp = s.stamp ∧ r.wake = none ∧ ∃ ph, r.kind = .bar key ph
            ∧ ∀ l, l < 32 → r.mask.getLsbD l = (waits l && decide (awaited l = ph)))
          ∧ (∀ l, l < 32 → waits l = true → ∃ r ∈ new, r.mask.getLsbD l = true)
          ∧ ∀ l, l < 32 → l < y.lanes.length →
            z.lane l = (if waits l = true ∧ (y.lane l).st = .live then { y.lane l with st := .parked } else y.lane l)))
  ∧ (∀ (s : State) (key phase ph w : Nat) (delay : Nat → Nat) (x : Wave) (r : Park),
    s.wave w = some x → r ∈ x.parks → r.kind = .bar key ph → ph < phase → r.wake = none → s.barHeld w x = false → delay (coreOf w) = 0 →
    wakes (s.releaseBar key phase delay) w x r)

/-- SEMADD and SEMSET give a semaphore its value, SEMADD as a release at core scope; SEMWAIT goes on when the value has reached the
threshold, and else parks its contributors on it, until a new value reaches it; an identifier outside the block's allocation
raises SYNC_RANGE (R199). That SEMADD issues once the wave's older accesses have been performed, and that SYNC_RANGE names the
contributors, is the model's choice (log entry 21). -/
def Obligations.Semaphores : Prop :=
  (∀ (x : Body) (s : State) (c : Issue),
    let named := s.semKey (coreOf c.w) c.x.blk (c.s s c.b.a.toNat).toNat
    (∀ key, named = some key → Starts (.semset x) s c → Does (.semset x) s c { s := s.setSem key (c.sB s) })
    ∧ (∀ key, named = some key → Starts (.semadd x) s c → c.x.settled = true → let s1 := s.releaseEager (coreOf c.w) 1
        Does (.semadd x) s c { s := s1.setSem key ((s1.sem key + c.sB s) % 2 ^ 32) })
    ∧ (∀ key, named = some key → Starts (.semwait x) s c → (s.sem key + 2 ^ 32 - c.sB s) % 2 ^ 32 < 2 ^ 31 →
        Does (.semwait x) s c { s := s })
    ∧ (∀ key, named = some key → Starts (.semwait x) s c → 2 ^ 31 ≤ (s.sem key + 2 ^ 32 - c.sB s) % 2 ^ 32 →
        Does (.semwait x) s c
          { s := s.modWave c.w fun y => y.park c.con s.stamp (.sem key (c.sB s)), work := some (.park none) })
    ∧ (named = none → ∀ i, i = .semset x ∨ i = .semadd x ∨ i = .semwait x → Starts i s c →
        Traps i s c { cause := .syncRange, mask := c.con } 0#5)
    ∧ (∀ key v, v < 2 ^ 32 → mrising s.co.sems = true → (s.setSem key v).sem key = v)
    ∧ (∀ key key' v, key' ≠ key → (s.setSem key v).sem key' = s.sem key'))
  ∧ (∀ (s : State) (w key v th : Nat) (x : Wave) (r : Park), s.wave w = some x → r ∈ x.parks → r.kind = .sem key th →
    ((v % 2 ^ 32 + 2 ^ 32 - th) % 2 ^ 32 < 2 ^ 31 → wakes (s.setSem key v) w x r
      ∧ ((∀ q ∈ x.parks, q.stamp = r.stamp → q = r) → (x.pending r.stamp).map Pend.work = some (.park none) →
        ∃ z, (s.setSem key v).wave w = some z ∧ z.pending r.stamp = none))
    ∧ (2 ^ 31 ≤ (v % 2 ^ 32 + 2 ^ 32 - th) % 2 ^ 32 → (∀ q ∈ x.parks, q = r) → (s.setSem key v).wave w = some x))

/-- MONARM watches the line that the lowest contributor's address names; MONWAIT answers 2 after a restore, 3 where nothing is
armed and 0 where the event has come, disarming the monitor, and else parks its contributors, for B units of 1,024 clocks when B
is not 0 (R200). -/
def Obligations.Monitor : Prop :=
  ∀ (x : Body) (s s1 : State) (c : Issue) (p : Piece) (pa : Nat) (rest : List Piece),
    let low := (lanesOf c.con).headD 0
    let gone := fun (v : Nat) => ({ s := s.modWave c.w fun y => { y with mon := {} }, work := some (.bound (wordsOfD c v)) } : Fx)
    let t := (c.s s c.b.b.toNat).toNat
    (Starts (.monarm x) s c → s.checkGlobal (coreOf c.w) (s.ctxNo c.x) c.x.blk { kind := .load, align := 1, win := false }
        [{ lane := low, va := (c.regA s low + litExt true 64 (c.b.lit.getD 0#32)) % 2 ^ 64, n := 1 }] = (s1, .ok (p :: rest)) →
      p.loc = .mem pa →
      Does (.monarm x) s c { s := s1.modWave c.w fun y => { y with mon := { line := some (pa / 128), event := false, resumed := false } } })
    ∧ (Starts (.monwait x) s c → c.x.mon.resumed = true → Does (.monwait x) s c (gone 2))
    ∧ (Starts (.monwait x) s c → c.x.mon.resumed = false → c.x.mon.line = none → Does (.monwait x) s c (gone 3))
    ∧ (Starts (.monwait x) s c → c.x.mon.resumed = false → c.x.mon.line ≠ none → c.x.mon.event = true → Does (.monwait x) s c (gone 0))
    ∧ (Starts (.monwait x) s c → c.x.mon.resumed = false → c.x.mon.line ≠ none → c.x.mon.event = false →
        Does (.monwait x) s c
          { s := s.modWave c.w fun y => y.park c.con s.stamp (.mon (if t = 0 then none else some (s.clock + 1024 * t)))
            work := some (.park (some { cls := 1, base := c.b.d.toNat, cnt := Body.regs c.b.dW })) })

/-- CPSEAL and CPWAIT hold their wave: CPSEAL until its older stores have been performed and fewer than 16 batches are unfinished, and
then it seals the credited entries into its batch and answers its number; CPWAIT until at most n batches are unfinished (R210, R211);
TBLSET reads 1,024 bytes into the bank that is not selected, TBLCOMMIT selects the other bank, and TBLEVAL looks its
lanes up in the bank selected as it issues; a wave whose block holds no pair raises ILLEGAL_OPERAND (R140 to R145). That TBLSET's
checks are settled at issue is the model's choice (log entry 8). -/
def Obligations.CopyWaitsAndTables : Prop :=
  (∀ (x : Body) (s s1 : State) (c : Issue) (k : Nat) (p : TblPair) (ps : List Piece),
    let sd : Dst := { cls := 1, base := c.b.d.toNat, cnt := Body.regs c.b.dW }
    let low := (lanesOf c.con).headD 0
    let va := (c.regA s low + litExt true 64 (c.b.lit.getD 0#32)) % 2 ^ 64
    let own := s.tblOf (coreOf c.w) c.x.blk
    (Starts (.cpseal x) s c → Does (.cpseal x) s c { s := s, work := some (.cpseal sd), hold := true })
    ∧ (Starts (.cpwait x) s c → Does (.cpwait x) s c { s := s, work := some (.cpwait (c.sA s)), hold := true })
    ∧ (Starts (.tblset x) s c → own = some (k, p) →
        s.checkGlobal (coreOf c.w) (s.ctxNo c.x) c.x.blk { kind := .load, align := 1, win := false }
          ((List.range 256).map fun i => { lane := low, va := (va + 4 * i) % 2 ^ 64, n := 4 }) = (s1, .ok ps) →
        let qs := ps.map fun q => { q with lane := 0, off := (q.va + 2 ^ 64 - va) % 2 ^ 64 }
        Does (.tblset x) s c { s := s1, work := some (.tblset k (1 - p.sel) qs []), parts := qs.map fun q => { q with lane := low } })
    ∧ (Starts (.tblcommit x) s c → own = some (k, p) →
        Does (.tblcommit x) s c { s := { s with co := { s.co with tbls := mput s.co.tbls k { p with sel := 1 - p.sel } } } })
    ∧ (Starts (.tbleval x) s c → own = some (k, p) →
        Does (.tbleval x) s c { s := s, work := some (.tbleval k p.sel ((lanesOf c.con).map fun l => (l, BitVec.ofNat 32 (c.regA s l)))
          { cls := 0, base := c.b.d.toNat, cnt := Body.regs c.b.dW }) })
    ∧ (own = none → ∀ i, i = .tblset x ∨ i = .tblcommit x ∨ i = .tbleval x → Starts i s c →
        Traps i s c { cause := .illegalOperand, mask := c.act } 0#5))
  ∧ (∀ (s : State) (w n : Nat) (x : Wave) (p : Pend), s.wave w = some x → x.pending n = some p →
    let open' := (x.sealed.filter fun q => q.2.any fun r => r.2.2 != 0).length
    (∀ d, p.work = .cpseal d → (x.settledBefore n = true ∧ open' < 16 → exec (.resultLanded w n) s =
        .next (s.putWave w (({ x with sealed := x.sealed ++ [(x.batch, x.credit)], credit := [], batch := (x.batch + 1) % 65536 } : Wave).bind
          n s.clock (d.writes 0 x.batch 0))))
      ∧ (x.settledBefore n = false ∨ 16 ≤ open' → exec (.resultLanded w n) s = .next s))
    ∧ (∀ m, p.work = .cpwait m →
      (16 ≤ m ∨ open' ≤ m → ∃ t y, exec (.resultLanded w n) s = .next t ∧ t.wave w = some y ∧ otherWaves s t w ∧ t.m = s.m ∧ t.co = s.co
        ∧ ∃ q, y.pending n = some q ∧ q.work = .slot ∧ q.due = s.clock + 1 ∧ q.hold = false)
      ∧ (m < 16 ∧ m < open' → exec (.resultLanded w n) s = .next s)))

/-! ## Reins -/

/-- The mask bits of a range of vectors written one after another; a pending vector that becomes unmasked is notified as if it had
just been sent (R216, R355). One whose page does not take its entry is left as it was (log entry 33). -/
def Sys2Proof.masked (f : Bool → Bool → Bool) (s : State) (ctx first m : Nat) : State :=
  (List.range 16).foldl (fun s n =>
    match s.vecAt ctx (first + n) with
    | (s, none) => s
    | (s, some e) =>
      let v := f e.mask (m.testBit n)
      if v = e.mask then s
      else
        let t := s.putVec ctx (first + n) { e with mask := v }
        if t.2 = true ∧ e.pend = true ∧ v = false then t.1.reinNotify ctx (first + n) else t.1) s

/-- RSEND is a release at device scope, or at fabric scope where it goes to the peer: with ROUTE 0 the router is to answer it; with
a route nothing lies on, it is refused (R213). That it issues once the wave's older accesses have been performed is the model's
choice (log entry 21). RWAIT answers with the lowest pending unmasked vector of the handler's range, or parks, until a vector of the
range is pending and unmasked, and then answers it; RTAKE claims a vector of the range, the form without a number the lowest pending
one, or answers 0 (R214, R215); RMASK sets, clears or writes the mask bits, and a pending vector that it unmasks is notified (R216, R355;
log entry 33: deduced), as a send to it would be. -/
def Obligations.Reins : Prop :=
  (∀ (x : Body) (s s1 : State) (c : Issue) (b : Block) (first v : Nat),
    let t := c.sB s
    let u := (s.releaseEager (coreOf c.w) (if bitsOf t 15 14 = 1 then 6 else 4)).notDiscardable c.x.blk
    let send : Send := { id := 2 ^ 15 + s.ctxNo c.x, vec := bitsOf t 13 8, ctx := t % 256, payload := c.sGroup s c.b.a.toNat 2
                         route := bitsOf t 15 14, w := some (c.w, s.stamp), page := none, deps := u.m.seenBy (coreOf c.w) }
    let dk : Dst := { cls := 2, base := c.b.d.toNat, cnt := 1 }
    let handler := s.block c.x.blk = some b ∧ b.rein = some first
    let claimed := fun (r : State × Nat) => ({ s := r.1, work := some (.bound (sWords c.b.d.toNat r.2 4)) } : Fx)
    let asked := (c.s s c.b.a.toNat).toNat
    (Starts (.rsend x) s c → c.x.settled = true → bitsOf t 15 14 = 0 →
      Does (.rsend x) s c { s := { u with wk := { u.wk with sends := u.wk.sends ++ [send] } }, work := some (.send dk) })
    ∧ (Starts (.rsend x) s c → c.x.settled = true → bitsOf t 15 14 = 1 → s.pk.twin.state = 2 →
      Does (.rsend x) s c { s := { u with pk := { u.pk with peerSends := u.pk.peerSends ++ [send] } }, work := some (.send dk) })
    ∧ (Starts (.rsend x) s c → c.x.settled = true → (2 ≤ bitsOf t 15 14 ∨ (bitsOf t 15 14 = 1 ∧ s.pk.twin.state ≠ 2)) →
      Does (.rsend x) s c { s := u, work := some (.bound (kwriteAll c.b.d.toNat 0#32)) })
    ∧ (Starts (.rwait x) s c → handler → s.lowestVec b.ctx first true = (s1, some v) →
      Does (.rwait x) s c { s := s1, work := some (.bound (wordsOfD c v)) })
    ∧ (Starts (.rwait x) s c → handler → s.lowestVec b.ctx first true = (s1, none) →
      Does (.rwait x) s c { s := s1.modWave c.w fun y => y.park c.con s1.stamp .rein
                            work := some (.park (some { cls := 1, base := c.b.d.toNat, cnt := Body.regs c.b.dW })) })
    ∧ (Starts (.rtake x) s c → handler → first ≤ asked → asked < first + 16 →
      Does (.rtake x) s c (claimed (s.claimVec (coreOf c.w) b.ctx asked)))
    ∧ (Starts (.rtake x) s c → handler → asked < first ∨ first + 16 ≤ asked →
      Traps (.rtake x) s c { cause := .reinPerm, mask := c.con } 0#5)
    ∧ (Starts (.rtakeAny x) s c → handler → s.lowestVec b.ctx first false = (s1, some v) →
      Does (.rtakeAny x) s c (claimed (s1.claimVec (coreOf c.w) b.ctx v)))
    ∧ (Starts (.rtakeAny x) s c → handler → s.lowestVec b.ctx first false = (s1, none) →
      Does (.rtakeAny x) s c (claimed (s1, 0)))
    ∧ (∀ (i : Instr) (f : Bool → Bool → Bool),
        (i = .rmaskSet x ∧ f = fun o m => o || m) ∨ (i = .rmaskClr x ∧ f = fun o m => o && !m) ∨ (i = .rmaskWr x ∧ f = fun _ m => m) →
        Starts i s c → handler → Does i s c { s := masked f s b.ctx first (c.sA s) }))
  ∧ (∀ (s s1 : State) (ctx first v w : Nat) (x : Wave) (r : Park), s.lowestVec ctx first true = (s1, some v) →
    (∀ u, u / 16 * 16 = first → (∃ p ∈ s.waves, s.handles ctx first p.2 = true) → s.reinNotify ctx u = s.wakeReins ctx first)
    ∧ (s1.wave w = some x → s1.handles ctx first x = true → r ∈ x.parks → r.kind = .rein → wakes (s.wakeReins ctx first) w x r
      ∧ ∀ p d, (x.parks.filter fun q => q.stamp == r.stamp) = [r] → x.pending r.stamp = some p → p.work = .park (some d) →
        ∃ z, (s.wakeReins ctx first).wave w = some z
          ∧ z.pending r.stamp = some { p with work := .bound (d.writes 0 v 0), due := s1.clock }))

/-- R214. A wave of a block that is no handler raises REIN_PERM with RWAIT, RTAKE and RMASK, and nothing else happens. That the trap
names the contributors is deduced (log entry 21). -/
def Obligations.OnlyHandlersTakeReins : Prop :=
  ∀ (i : Instr) (s : State) (c : Issue),
    (match i with | .rwait _ | .rtake _ | .rtakeAny _ | .rmaskSet _ | .rmaskClr _ | .rmaskWr _ => True | _ => False) →
    Starts i s c → (∀ b, s.block c.x.blk = some b → b.rein = none) → Traps i s c { cause := .reinPerm, mask := c.con } 0#5

/-! ## The harnessed grids -/

/-- The lead of grid g, which has switched (R239), with no older access of its own to the scratchpad still to be performed. -/
def Sys2Proof.Leads (s : State) (c : Issue) (g : Nat) (h : HGrid) : Prop :=
  s.gridOfWave c.w = some (g, h) ∧ h.lead = some c.w ∧ h.state = 2 ∧ h.sw = true ∧ c.x.spPending (coreOf c.w) = false

/-- An instruction that joins the order of its grid (R241): its code and what it carries. -/
def Sys2Proof.joins (c : Issue) (s : State) (g code : Nat) (args : List Nat) (k : Work) (hold : Bool) (late : Bool := false) : Fx :=
  { s := s.modGrid g fun h => { h with ops := h.ops ++ [{ stamp := s.stamp, code := code, pc := c.pc, args := args, start := s.clock, done := 0 }] }
    work := some k, hold := hold, late := late }

/-- Ranges of offset and length that lie in the region of the lead's block on its core (R240). -/
def Sys2Proof.inRegion (c : Issue) (s : State) (rs : List (Nat × Nat)) : Prop :=
  ∀ r ∈ rs, r.1 + r.2 ≤ (((s.block c.x.blk).bind fun b => b.region (coreOf c.w)).getD (0, 0)).2

/-- HARNESS_STATE: a wave that leads no grid may not issue these (R239). That the trap names the contributors is deduced (log entry
21). -/
def Obligations.OnlyLeadsHarness : Prop :=
  ∀ (i : Instr) (s : State) (c : Issue),
    (match i with
      | .hrel _ | .hlda _ | .hldaNone _ | .hldb _ | .hswap _ | .hlds _ | .hmma _ | .hzero _ | .hrowsc _ | .hdrnReg _ | .hdrnSp _
      | .hboxt _ | .hstat _ => True
      | _ => False) →
    Starts i s c → (∀ g h, s.gridOfWave c.w = some (g, h) → ¬(h.lead = some c.w ∧ h.state = 2 ∧ h.sw = true)) →
    Traps i s c { cause := .harnessState, mask := c.con } 0#5

/-- HMUST signs a grid's register and parks the wave: the first signer binds it; the last takes the accumulators' granules, and the
group is about to switch (R220, R221, R243). A member raises HARNESS_STATE; a control word out of its limits HARNESS_RANGE; a signature
that matches no register HARNESS_MISMATCH with the first clause that fails, 5 where a free register would claim a row that another
holds; and the last signature HARNESS_RF_BUSY where a row lacks granules. That these traps name the contributors (log entry 21), and
that the granules taken are the lowest free ones (16), are the model's. -/
def Obligations.Mustering : Prop :=
  ∀ (x : Body) (s : State) (c : Issue), Starts (.hmust x) s c →
    let m := Muster.of (c.sB s)
    let g := hKey c.w (c.b.mdN % 16)
    let h0 := s.hgrid g
    let gr := groupRows m.shape
    let limits := 1 ≤ m.expect ∧ m.expect ≤ 16 * gr ∧ 1 ≤ m.accu ∧ m.accu ≤ min 16 (4 * gr)
    let claimed := h0.state = 0 ∧ (groupRowsOf g (c.freshGrid s m)).any (fun r => s.rowHeld r) = true
    let clause :=
      if h0.ctx ≠ s.ctxNo c.x ∨ h0.blk ≠ c.x.blk then 1
      else if h0.shape ≠ m.shape ∨ h0.accu ≠ m.accu ∨ h0.expect ≠ m.expect then 2
      else if clusterRow c.w < h0.base ∨ h0.base + groupRows h0.shape ≤ clusterRow c.w then 3
      else if c.w ∈ h0.signed then 4 else if h0.state ≠ 1 then 6 else 0
    (s.gridOfWave c.w ≠ none → Traps (.hmust x) s c { cause := .harnessState, mask := c.con } 0#5)
    ∧ (s.gridOfWave c.w = none → 65536 ≤ c.sB s → Traps (.hmust x) s c { cause := .harnessRange, sub := 1, addr := c.sB s, mask := c.con } 0#5)
    ∧ (s.gridOfWave c.w = none → c.sB s < 65536 → ¬limits →
      Traps (.hmust x) s c { cause := .harnessRange, sub := 2, addr := c.sB s, mask := c.con } 0#5)
    ∧ (s.gridOfWave c.w = none → c.sB s < 65536 → limits → claimed →
      Traps (.hmust x) s c { cause := .harnessMismatch, sub := 5, mask := c.con } 0#5)
    ∧ (s.gridOfWave c.w = none → c.sB s < 65536 → limits → h0.state ≠ 0 → clause ≠ 0 →
      Traps (.hmust x) s c { cause := .harnessMismatch, sub := clause, mask := c.con } 0#5)
    ∧ (s.gridOfWave c.w = none → c.sB s < 65536 → limits →
    let h := if h0.state = 0 then c.freshGrid s m else h0
    let h1 := { h with signed := h.signed ++ [c.w] }
    ¬claimed → (h0.state ≠ 0 → clause = 0) →
    (h1.signed.length < m.expect → Does (.hmust x) s c
      { s := (s.putGrid g h1).modWave c.w fun y => y.park c.con s.stamp (.muster g), work := some (.park none) })
    ∧ (∀ gs, m.expect ≤ h1.signed.length → s.takeGroup g h1 = some gs → Does (.hmust x) s c
      { s := (s.putGrid g { h1 with state := 2, granules := gs }).modWave c.w fun y => y.park c.con s.stamp (.muster g)
        work := some (.park none) })
    ∧ (m.expect ≤ h1.signed.length → s.takeGroup g h1 = none → Traps (.hmust x) s c { cause := .harnessRfBusy, mask := c.con } 0#5))

/-- The lead's instructions that wait in the grid's order with few operands, HREL, HLDA, HLDA.none, HSWAP, HSTAT, HZERO, HROWSC and
HBOXT: each is checked against the grid as it will be after every older one (R233), and joins the order (R241, R244, R245, R248,
R252, R255). HBOXT reads the boxes of its contributors alone (R239). That each issues once the lead's older accesses to its
scratchpad have been performed, that HLDA's entries are read as it issues, and that each box and each plane is an address of its
own modulo 2^18, is the model's choice (log entry 20). -/
def Obligations.HarnessControl : Prop :=
  ∀ (x : Body) (s : State) (c : Issue) (g : Nat) (h0 : HGrid), Leads s c g h0 →
    let u := s
    let h := h0.ahead
    let b := (c.s u c.b.b.toNat).toNat
    let a := (c.s u c.b.a.toNat).toNat % 2 ^ 18
    let at' := (c.regA u 0 + litExt true 64 (c.b.lit.getD 0#32)) % 2 ^ 18
    let seen := c.watchNow u [{ lane := (lanesOf c.con).headD 0, off := 0, len := 2 * b, va := at', loc := .sp (coreOf c.w) at' c.x.blk }] false true
    let es := (List.range b).map fun i => u.spNum (coreOf c.w) c.x.blk at' (2 * b) / 65536 ^ i % 65536
    let all := (List.range 64).foldl (fun n i => n + (es.getD i 0xFFFF) * 65536 ^ i) 0
    (Starts (.hrel x) s c → Does (.hrel x) s c (joins c u g 0x1E1 [] (.hrel g) true))
    ∧ (Starts (.hstat x) s c → Does (.hstat x) s c (joins c u g 0x1EB [c.b.d.toNat] (.grid g [] none) false))
    ∧ (Starts (.hswap x) s c → Does (.hswap x) s c (joins c u g 0x1E4 [] (.grid g [] none) false))
    ∧ (Starts (.hldaNone x) s c → Does (.hldaNone x) s c (joins c u g 0x2E2 [] (.grid g [] none) false))
    ∧ (Starts (.hlda x) s c → 1 ≤ b → b ≤ 64 → at' % 2 = 0 → inRegion c u [(at', 2 * b)] → (∀ e ∈ es, e ≤ 511) →
        Does (.hlda x) s c (joins c seen g 0x1E2 [1 - h.ixCur, all] (.grid g [] none) false))
    ∧ (Starts (.hzero x) s c → b < 2 ^ 22 → b % 2048 + b / 2048 < h.accRows →
        Does (.hzero x) s c (joins c u g 0x1E7 [b % 2048, b / 2048 + 1] (.grid g [] none) false))
    ∧ (Starts (.hrowsc x) s c → b < 2 ^ 11 → b + 32 * Body.regs c.b.aW ≤ h.accRows →
        Does (.hrowsc x) s c (joins c u g 0x1E8 (32 * Body.regs c.b.aW :: (List.range (Body.regs c.b.aW)).flatMap fun i =>
          (lanesOf c.con).flatMap fun l => [b + 32 * i + l, (c.v u (c.b.a.toNat + i) l).toNat]) (.grid g [] none) false))
    ∧ (Starts (.hboxt x) s c → a % 4 = 0 → b % 2 ^ 18 % 4 = 0 → inRegion c u (((lanesOf c.con).map fun l => ((a + 24 * l) % 2 ^ 18, 24))
          ++ ((lanesOf c.con).map fun l => ((a + 24 * (l + 32)) % 2 ^ 18, 24))
          ++ (List.range (c.b.mdN % 8 + 1)).map fun i => ((b + 16 * i) % 2 ^ 18, 16)) →
        Does (.hboxt x) s c (joins c u g 0x1EA [c.b.mdN % 8 + 1, a, b % 2 ^ 18, c.b.d.toNat] (.grid g [] none) false))

/-- The lead's instructions that name a record, HLDB, HLDS, HMMA and HDRN to the scratchpad, and HDRN to registers: where the
record, the control word and a sparse bank's metadata pass their checks against the grid as it will be after every older
instruction (R233), they join the grid's order with what they are to move (R246, R247, R249 to R253). The order of the checks
against one another, and when they are made, is deduced (log entry 20). -/
def Obligations.HarnessStreams : Prop :=
  ∀ (x : Body) (s : State) (c : Issue) (g : Nat) (h0 : HGrid), Leads s c g h0 →
    let u := s
    let h := h0.ahead
    let q := c.sGroup u c.b.a.toNat 4
    let r := Record.of q (litExt true 64 (c.b.lit.getD 0#32))
    let cw := (c.s u c.b.b.toNat).toNat
    let n := gridN h.shape
    let lds := wrapInt 18 ((r.stoff * 128 : Nat) + ((c.b.lit.getD 0#32).toInt))
    (Starts (.hldb x) s c → recordOk q false = true →
      (r.fmt = 5 ∨ r.fmt = 6 → c.b.mdN / 2 % 4 = 0) → (r.fmt = 4 → c.b.mdN / 2 % 4 = 1 ∨ c.b.mdN / 2 % 4 = 2) →
      (r.fmt ≠ 4 → r.fmt ≠ 5 → r.fmt ≠ 6 → c.b.mdN / 2 % 4 = 1) →
      let kc := c.b.mdN / 2 % 4
      let p := 4 * 2 ^ kc * gridRows h.shape
      let gs := sparseGroups p r.spn
      let d := 512 + kc * 128 + r.spn * 32 + r.mx.toNat * 16 + r.fmt
      let vals := if r.spn = 0 then p else gs * groupVals r.spn
      let mo := 8 * r.metaoff % 2 ^ 18
      let meta' := if r.spn = 0 then [] else [(mo, 8 * n * gs)]
      let ws := if r.spn = 0 then [] else
        (List.range (n * gs)).map fun i => u.spNum (coreOf c.w) c.x.blk mo (8 * n * gs) / 2 ^ (64 * i) % 2 ^ 64
      let seen := if r.spn = 0 then u else
        c.watchNow u [{ lane := (lanesOf c.con).headD 0, off := 0, len := 8 * n * gs, va := mo
                        loc := .sp (coreOf c.w) mo c.x.blk }] false true
      (r.spn ≠ 0 → 128 ≤ p ∧ 24 * gs ≤ 512 ∧ (r.mx = true → 24 * gs % 32 = 0)) →
      inRegion c u (((List.range n).map fun i => ((r.off + i * r.pitch) % 2 ^ 18, vals * fmtBits r.fmt / 8)) ++ meta') →
      (∀ m ∈ ws, metaOk (groupVals r.spn) m = true) →
      Does (.hldb x) s c (joins c seen g 0x1E3
        ([c.b.mdN % 2, kc, r.fmt, r.spn, r.off, r.pitch, mo, gs, d] ++ ws) (.grid g [] none) false))
    ∧ (Starts (.hlds x) s c → recordOk q false = true → cw < 2 ^ 18 →
      cw % 512 + cw / 512 < (if c.b.mdN % 4 = 0 then 512 else n) → inRegion c u [(lds, 16 * (cw / 512 + 1))] →
      Does (.hlds x) s c (joins c u g 0x1E5 [c.b.mdN % 4, cw % 512, cw / 512 + 1, lds] (.grid g [] none) false))
    ∧ (Starts (.hmma x) s c → let z := Record.of q 0
      let w := c.sB u
      let d := h.desc h.curb
      recordOk q false = true → z.spn = 0 → 512 ≤ d → pairKc z.fmt (d % 16) = some (bitsOf d 8 7) → (z.mx = true → h.fullK d % 32 = 0) →
      let kl := bitsOf w 23 20
      let k := if kl = 0 then h.fullK d else 32 * kl
      let row := fun (i : Nat) => if h.idxv = true then h.num (0x5C000 + 128 * h.ixCur + 2 * i) 2 else i
      w < 2 ^ 24 → (kl ≠ 0 → descSpn d = 0 ∧ 32 * kl ≤ h.fullK d) → bitsOf w 19 9 + w % 512 < h.accRows →
      (h.idxv = true → w % 512 < 64 ∧ ∀ i, i < w % 512 + 1 → row i ≠ 0xFFFF) →
      inRegion c u ((List.range (w % 512 + 1)).map fun i => ((z.off + row i * z.pitch) % 2 ^ 18, ceilDiv (k * fmtBits z.fmt) 8)) →
      Does (.hmma x) s c (joins c u g 0x1E6
        [w % 512 + 1, bitsOf w 19 9, k, z.fmt, z.mx.toNat, z.off, z.pitch, h.idxv.toNat, h.ixCur, h.curb] (.hmma g) false))
    ∧ (Starts (.hdrnSp x) s c → recordOk q true = true → r.spn = 0 → r.mx = false → cw < 2 ^ 22 → cw % 2048 + cw / 2048 < h.accRows →
      inRegion c u ((List.range (cw / 2048 + 1)).map fun i => ((r.off + i * r.pitch) % 2 ^ 18, n * drainBits (c.b.mdN % 16) / 8)) →
      Does (.hdrnSp x) s c (joins c u g 0x2E9 [c.b.mdN % 16, c.b.mdN / 16, cw % 2048, cw / 2048 + 1, r.off, r.pitch] (.grid g [] none) true true))
    ∧ (Starts (.hdrnReg x) s c → cw < 2 ^ 18 → (∀ l, l < 32 → c.con.getLsbD l = true → cw % 2048 + l < h.accRows) →
      let e := if drainBits (c.b.mdN % 16) = 6 then 4 * Body.regs c.b.dW else 32 * Body.regs c.b.dW / drainBits (c.b.mdN % 16)
      cw / 2048 + e ≤ n →
      Does (.hdrnReg x) s c (joins c u g 0x1E9
        [c.b.mdN % 16, c.b.mdN / 16, cw % 2048, cw / 2048, e, c.b.d.toNat, Body.regs c.b.dW] (.grid g [] none) true true))

/-! ## Work records and the beam -/

/-- What makes a record ill-formed, and how one is offered, for the three work instructions (R295 to R297). -/
def Sys2Proof.offerRule (i : Instr) (c : Issue) : Option ((State → List Byte → Option Nat) × (State → List Byte → State × Nat)) :=
  match i with
  | .tqpush _ => some (fun _ bs => badTask bs, fun s bs => s.offerTask (coreOf c.w) (s.ctxNo c.x) (c.s s c.b.b.toNat).toNat bs)
  | .nrec _ => some (fun s bs => c.badNode s bs, fun s bs =>
      s.offerNode (coreOf c.w) (s.ctxNo c.x) ((s.block c.x.blk).map Block.grid |>.getD 0) ((s.block c.x.blk).map Block.depth |>.getD 0)
        (c.s s c.b.b.toNat).toNat bs)
  | .launch _ => some (fun _ bs => badLaunch bs, fun s bs =>
      s.offerLaunch (coreOf c.w) (s.ctxNo c.x) ((s.block c.x.blk).map Block.grid |>.getD 0) ((s.block c.x.blk).map Block.depth |>.getD 0)
        ((s.block c.x.blk).map Block.prio |>.getD 0) bs)
  | _ => none

/-- Records offered one after another, each with its status. -/
def Sys2Proof.offerEach (f : State → List Byte → State × Nat) : State → List (Nat × List Byte) → State × List (Nat × Nat)
  | s, [] => (s, [])
  | s, r :: rs => ((offerEach f (f s r.2).1 rs).1, (r.1, (f s r.2).2) :: (offerEach f (f s r.2).1 rs).2)

/-- TQPUSH, NREC and LAUNCH, from global memory or the scratchpad, by each contributor or once: every record is read; an
ill-formed one makes the instruction trap with WORK_RECORD and nothing is offered: its mask holds the lanes with ill-formed records,
its sub-cause the first bad field of the lowest such lane's, and its address is that record's (R296); else all are offered in
ascending lane order, as a release at device scope, and the statuses go to D (R295 to R297). The order of the offer's statuses is
deduced (log entry 22); that the instruction issues once the wave's older accesses have been performed, and that the trap of a uniform
form names the contributors, is the model's choice (log entry 21). -/
def Obligations.WorkRecords : Prop :=
  ∀ (i : Instr) (s s1 s2 : State) (c : Issue) (bad : State → List Byte → Option Nat) (offer : State → List Byte → State × Nat)
    (ps : List Piece) (rs : List (Nat × List Byte)),
    let sp := decide (2 ≤ c.b.mdN)
    let lanes := if c.b.mdN % 2 = 1 then [(lanesOf c.con).headD 0] else lanesOf c.con
    offerRule i c = some (bad, offer) → Starts i s c → c.x.settled = true →
    (sp = true → s1 = s ∧ s.checkSp (coreOf c.w) c.x.blk 8 false (c.recordWants s true) = .ok ps) →
    (sp = false → s.checkGlobal (coreOf c.w) (s.ctxNo c.x) c.x.blk { kind := .load, align := 8, win := false } (c.recordWants s false) = (s1, .ok ps)) →
    s1.allRecords c sp ps lanes = (s2, rs) →
    ((∀ r ∈ rs, bad s2 r.2 = none) →
      let out := offerEach offer ((c.watchNow s2 ps false true).releaseEager (coreOf c.w) 4) rs
      Does i s c
        { s := out.1.notDiscardable c.x.blk, parts := ps
          work := some (.bound (if c.b.mdN % 2 = 1 then wordsOfD c ((out.2.headD (0, 0)).2)
            else out.2.flatMap fun r => vWords c.b.d.toNat r.1 r.2 1)) })
    ∧ (∀ l off rest, (rs.filterMap fun r => (bad s2 r.2).map fun o => (r.1, o)) = (l, off) :: rest →
      ∃ t : Trap, t.cause = .workRecord ∧ t.sub = off ∧ Traps i s c t 0#5
        ∧ t.addr = (c.regA s l + litExt true 64 (c.b.lit.getD 0#32)) % (if sp then 2 ^ 18 else 2 ^ 64)
        ∧ (c.b.mdN % 2 = 1 → t.mask = c.con)
        ∧ (c.b.mdN % 2 = 0 → ∀ m, m < 32 → t.mask.getLsbD m = rs.any fun r => r.1 == m && (bad s2 r.2).isSome))

/-- BQRY and BRAY: where their records pass the checks and every item is well formed, each query is accepted and D receives
its handle, or 0; an ill-formed control or item traps with BEAM_RECORD, an item's with the lanes of ill-formed items for mask, and the
first bad field and the address of the lowest (R314). BSTAT reads a query's state at once, or, in the form that waits, is pending until
the query has ended (R315). The order of the refusals is deduced (log entry 22); that BQRY and BRAY issue once the wave's older
accesses have been performed, and that a control's trap and BQRY's name the contributors, is the model's choice (log entry 21). -/
def Obligations.BeamQueries : Prop :=
  (∀ (x : Body) (s s1 : State) (c : Issue) (ps : List Piece) (ray : Bool) (i : Instr),
    let lanes := if ray then lanesOf c.con else [(lanesOf c.con).headD 0]
    let n := if ray then 32 else 64
    let addr := fun (s : State) (l : Nat) => (c.regA s l + litExt true 64 (c.b.lit.getD 0#32)) % 2 ^ 64
    let ctl := wordsOf 4 (c.sGroup s1 c.b.b.toNat 4)
    let items := lanes.foldl (fun (a : State × List (Nat × List Nat)) l =>
      ((a.1.itemWords c n l ps).1, a.2 ++ [(l, (a.1.itemWords c n l ps).2)])) (s1, [])
    let out := items.2.foldl (fun (a : State × List (Nat × Nat)) p =>
      ((c.acceptQuery a.1 ray ctl (addr s1 p.1) p.2).1, a.2 ++ [(p.1, (c.acceptQuery a.1 ray ctl (addr s1 p.1) p.2).2)]))
      (c.watchNow items.1 ps false true, [])
    let h := (c.s s c.b.a.toNat).toNat
    let sd : Dst := { cls := 1, base := c.b.d.toNat, cnt := Body.regs c.b.dW }
    (i = (if ray then .bray x else .bqry x) → Starts i s c →
      s.checkGlobal (coreOf c.w) (s.ctxNo c.x) c.x.blk { kind := .load, align := if ray then 16 else 64, win := false }
        (lanes.map fun l => { lane := l, va := addr s l, n := n }) = (s1, .ok ps) →
      (c.x.settled = true → badControl ctl ray = none → (∀ p ∈ items.2, ∃ t, itemOf ray p.2 ctl = .ok t) → Does i s c
        { s := out.1, parts := ps
          work := some (.bound (if ray then out.2.flatMap fun r => vWords c.b.d.toNat r.1 r.2 1 else wordsOfD c ((out.2.headD (0, 0)).2))) })
      ∧ (∀ sub, badControl ctl ray = some sub → Traps i s c { cause := .beamRecord, sub := sub, mask := c.con } 0#5)
      ∧ (c.x.settled = true → badControl ctl ray = none →
        let wrong := items.2.filterMap fun p => match itemOf ray p.2 ctl with | .error o => some (p.1, o) | .ok _ => none
        ∀ l off rest, wrong = (l, off) :: rest → ∃ t : Trap, t.cause = .beamRecord ∧ t.sub = off ∧ t.addr = addr s1 l ∧ Traps i s c t 0#5
          ∧ (ray = false → t.mask = c.con) ∧ (ray = true → ∀ m, m < 32 → t.mask.getLsbD m = wrong.any fun r => r.1 == m)))
    ∧ (Starts (.bstat x) s c → c.b.mdN % 2 = 0 ∨ s.queryOver (clusterOfWave c.w) c.x.blk h = true →
        ∀ s2 v, s.readStat (clusterOfWave c.w) c.x.blk h (decide (c.b.mdN / 2 % 2 = 1)) = (s2, v) →
        Does (.bstat x) s c { s := s2, work := some (.bound (wordsOfD c v)) })
    ∧ (Starts (.bstat x) s c → c.b.mdN % 2 = 1 → s.queryOver (clusterOfWave c.w) c.x.blk h = false →
        Does (.bstat x) s c { s := s, work := some (.bstat true (decide (c.b.mdN / 2 % 2 = 1)) h sd) }))
  ∧ (∀ (s : State) (w n h : Nat) (x : Wave) (p : Pend) (held clr : Bool) (d : Dst), s.wave w = some x → x.pending n = some p →
    p.work = .bstat held clr h d →
    (s.queryOver (clusterOfWave w) x.blk h = true → ∀ s1 v, s.readStat (clusterOfWave w) x.blk h clr = (s1, v) →
      exec (.resultLanded w n) s = .next (s1.modWave w fun y => y.bind n s1.clock (d.writes 0 v 0)))
    ∧ (s.queryOver (clusterOfWave w) x.blk h = false → exec (.resultLanded w n) s = .next s))

/-! ## Memory laws -/

/-- Bytes of one line that a core's plain store makes are what the core reads there; and where no other core owns the line,
every other byte of every core, and every byte of memory below the L1s, is what it was (R165, R364, R372). A line written
back shows its dirty bytes below, and no other byte changes. The three levels of memory are the model's layout (log entry
11). -/
def Obligations.StoredBytes : Prop :=
  (∀ (s : State) (core pa i : Nat) (bs : List Byte), pa % 128 + bs.length ≤ 128 → i < bs.length →
    (s.storeLine core pa bs).m.coreByte core (pa + i) = bs.getD i 0#8)
  ∧ (∀ (s : State) (core c pa a : Nat) (bs : List Byte), core < 128 → c < 128 → pa % 128 + bs.length ≤ 128 →
    (mget s.m.own (pa / 128) = none ∨ mget s.m.own (pa / 128) = some core) → (c ≠ core ∨ a < pa ∨ pa + bs.length ≤ a) →
    (s.storeLine core pa bs).m.coreByte c a = s.m.coreByte c a ∧ (s.storeLine core pa bs).m.lower a = s.m.lower a
      ∧ (s.storeLine core pa bs).m.mem = s.m.mem)
  ∧ (∀ (s : State) (core line a : Nat) (x : L1Line), s.m.l1Line core line = some x → mrising x.dirty = true →
    (∀ k ∈ x.dirty, k.1 < 128) →
    (s.writeBack core line).m.lower a = if a / 128 = line then (mget x.dirty (a % 128)).getD (s.m.lower a) else s.m.lower a)

/-- A store that leaves the queue of its wave (R165, R179): where its parts lie in lines of global memory that no other core
owns and no debug unit is enabled, the entry leaves, its slot is released, every byte outside its parts reads as before at
every core, and a store of one part reads back; no register, no scratchpad and no other wave's registers change, and of the rest of
the cores only what a supervisor's hart may have reserved (log entry 47: the model's). The three
levels of memory are the model's layout (log entry 11). -/
def Obligations.StoreLeavesQueue : Prop :=
  ∀ (s : State) (w : Nat) (x : Wave) (e : SqEntry) (rest : List SqEntry),
    w < 8192 → s.wave w = some x → x.sq = e :: rest → e.scope = none → x.mayLeave (coreOf w) = true →
    (∀ d ∈ s.wk.dbgs, d.2.den = false) →
    (∀ q ∈ e.puts, ∃ pa, q.at'.loc = .mem pa ∧ pa % 128 + q.bytes.length ≤ 128
      ∧ (mget s.m.own (pa / 128) = none ∨ mget s.m.own (pa / 128) = some (coreOf w))) →
    ∃ t y, exec (.storeQueueLeave w) s = .next t ∧ t.wave w = some y ∧ y.sq = rest ∧ y.pending e.stamp = none
      ∧ y.s = x.s ∧ y.k = x.k ∧ y.lanes = x.lanes ∧ y.wcw = x.wcw ∧ t.co = { s.co with sups := t.co.sups } ∧ t.wk = s.wk ∧ t.pk = s.pk ∧ t.m.mem = s.m.mem
      ∧ (∀ c a, c < 128 → (c ≠ coreOf w ∨ ∀ q ∈ e.puts, ∀ pa, q.at'.loc = .mem pa → a < pa ∨ pa + q.bytes.length ≤ a) →
          t.m.coreByte c a = s.m.coreByte c a)
      ∧ (∀ q pa i, e.puts = [q] → q.at'.loc = .mem pa → i < q.bytes.length → t.m.coreByte (coreOf w) (pa + i) = q.bytes.getD i 0#8)

/-- A program word placed after reset is the instruction that the next step runs (log entry 2: the model's choice of what
`withFetchWord` sets). -/
def Obligations.PlacedWordRuns : Prop :=
  ∀ (nbits w : Nat) (i : Instr), decodeTableWord nbits w = some i →
    let s := State.reset.withFetchWord nbits w
    s.m = State.reset.m ∧ s.clock = 0 ∧ step s = exec i { s with cur := 0 }

/-! ## The events -/

/-- Pending instructions of a wave that complete: a release, a fence, a cache maintenance, a translation check, a QUOTA, a
special function's result, and a MONWAIT (R118, R139, R181 to R183, R200, R259, R260). A failed translation check stops its wave, unless
the wave has stopped already: then the instruction is issued again later. When an event happens, and that a wave which is stopped when
a check fails takes the failure later, is the model's choice (log entries 1 and 39). -/
def Obligations.WaveCompletions : Prop :=
  ∀ (s : State) (w n : Nat) (x : Wave) (p : Pend), s.wave w = some x → x.pending n = some p →
    (∀ sc, p.work = .release sc → exec (.releaseComplete w n) s = .next ((s.mapMem fun m => m.released n s.timeFs).putWave w (x.complete n)))
    ∧ (∀ kind, p.work = .fence kind 0 → p.due ≤ s.clock → exec (.fenceComplete w n) s = .next (s.putWave w (x.complete n)))
    ∧ (∀ kind scope, p.work = .fence kind scope → scope ≠ 0 → p.due ≤ s.clock → x.fenceReady n kind = true →
        let s1 := s.fence (coreOf w) kind scope x.heard
        exec (.fenceComplete w n) s = .next (s1.modWave w fun y => (y.afterFence kind scope (s1.m.seenBy (coreOf w))).complete n))
    ∧ (∀ inval scope lines, p.work = .maint inval scope lines → (∀ e ∈ x.sq, n ≤ e.stamp) →
        exec (.cacheMaintenanceComplete w n) s =
          .next ((lines.foldl (fun s l => s.maintain (coreOf w) inval scope l) s).modWave w fun y => y.complete n))
    ∧ (∀ k held, p.work = .check none k held → exec (.translationCheckResult w n) s = .next (s.putWave w (x.complete n)))
    ∧ (∀ t k held, p.work = .check (some t) k held → (∀ q ∈ x.pend, q.stamp ≤ n) → x.run ≠ .running →
        exec (.translationCheckResult w n) s = .next (s.putWave w { x.complete n with replay := some (p.pc, p.con, p.iwords) }))
    ∧ (∀ t k held, p.work = .check (some t) k held → (∀ q ∈ x.pend, q.stamp ≤ n) → x.run = .running → x.hit = none →
        ∃ u y f, exec (.translationCheckResult w n) s = .next u ∧ u.wave w = some y ∧ otherWaves s u w ∧ u.m = s.m ∧ y.run = .stopping
          ∧ y.lanes = x.lanes ∧ y.frame = some f ∧ f.trap = t ∧ f.imprecise = true ∧ f.replay = true ∧ f.skid = k ∧ f.skidCause = held
          ∧ f.pc = p.pc ∧ f.issueSet = p.con)
    ∧ (∀ v t gs d, p.work = .quota v t gs d → p.due ≤ s.clock →
        exec (.quotaSettle w n) s = .next ((s.gainGranules t gs).modWave w fun y => y.bind n s.clock (d.writes 0 v 0)))
    ∧ (∀ ws, p.work = .sfu ws none → p.due ≤ s.clock →
        (∀ q ∈ s.waves, deviceRow q.1 = deviceRow w → ∀ r ∈ q.2.pend, r.stamp < n → ∀ vs t, r.work ≠ .sfu vs t) →
        exec (.sfuResultWrite w n) s = .next (s.putWave w (x.bind n s.clock ws)))
    ∧ (∀ ws t, p.work = .sfu ws (some t) → p.due ≤ s.clock → x.run = .running → x.hit = none →
        (∀ q ∈ s.waves, deviceRow q.1 = deviceRow w → ∀ r ∈ q.2.pend, r.stamp < n → ∀ vs t, r.work ≠ .sfu vs t) →
        ∃ u y f, exec (.sfuResultWrite w n) s = .next u ∧ u.wave w = some y ∧ otherWaves s u w ∧ u.m = s.m ∧ u.co = s.co ∧ y.run = .stopping
          ∧ y.lanes = x.lanes ∧ y.pending n = none ∧ y.frame = some f ∧ f.trap = t ∧ f.imprecise = false ∧ f.pc = p.pc ∧ f.issueSet = p.con)
    ∧ ((∃ q ∈ x.parks, ∃ t, q.kind = .mon t) →
        exec (.monitorEvent w) s = .next (s.putWave w (x.monReturn s.clock (if x.mon.resumed then 2 else 0))))
    ∧ ((∀ q ∈ x.parks, ∀ t, q.kind ≠ .mon t) → x.mon.line.isSome = true →
        exec (.monitorEvent w) s = .next (s.putWave w { x with mon := { x.mon with event := true } }))
    ∧ ((∃ q ∈ x.parks, ∃ t, q.kind = .mon (some t) ∧ t ≤ s.clock) → x.mon.resumed = false → x.mon.event = false →
        exec (.monwaitTimeout w) s = .next (s.putWave w (x.monReturn s.clock 1)))

/-- What moves data and fills and drains caches: parts of a load, or of a TBLSET's table, are read in its turn; one pass of a
scratchpad load or store; an ATOM at its L1, which owns the line first, and an operation at a home slice; a line of code is filled, and
a trace window from it; a line of an L1, of an L2 or of a SLC is written back; a drain is answered; a full phase of a barrier ends; and
the tables' writes and look-ups (R143 to R145, R160, R165, R167, R178, R185, R187, R196, R342). When an event happens, and which parts
of an access it performs, are the model's choice (log entry 1), as are the levels of memory below the L1s and the numbers 128 to 130
that name them (log entry 11), and the kinds of fetched code that are held (25). -/
def Obligations.DataMoves : Prop :=
  ∀ (s : State) (w n core line : Nat) (x : Wave) (p : Pend),
    (s.wave w = some x → x.pending n = some p → x.inTurn (coreOf w) p = true →
      (∀ ty m scope todo got bad d, p.work = .load ty m scope todo got bad d → (∀ q ∈ todo, x.partlyQueued n q = false) →
        (2 ≤ scope.getD 0 → s.drained (coreOf w) todo = true) → ∀ now later, laneSplit s.free todo = (now, later) →
        exec (.loadDataReturn w n) s = .next ((s.performLoad w x p ty m scope now later got bad d).bump))
      ∧ (∀ k bank todo got, p.work = .tblset k bank todo got → (∀ q ∈ todo, x.partlyQueued n q = false) →
        s.tblOlder (coreOf w) n (fun o => match o with | .tblset k' .. => k' == k | _ => false) = false →
        ∀ now later, firstFew s.free todo = (now, later) →
        exec (.loadDataReturn w n) s = .next ((s.performTblset w x p k bank now later got).bump))
      ∧ (∀ code m todo got bad d, p.work = .near code m todo got bad d → ∀ now later, splitOps s.free todo = (now, later) →
        exec (.loadDataReturn w n) s = .next ((s.performNear w p code m now later got bad d).bump)
        ∧ ((∀ e ∈ s.wk.dbgs, e.2.den = false) →
          let s1 := (memLines (opPieces now)).foldl (fun s l => s.exclusive (coreOf w) l) s
          (s.performNear w p code m now later got bad d).m = (s1.doWordOps w (.l1 (coreOf w)) code now got bad).1.m))
      ∧ (∀ ty m scope now later got bad d, p.work = .spLoad ty m scope (now :: later) got bad d →
        exec (.scratchpadPass w n) s = .next (s.passLoad w p ty m scope now later got bad d))
      ∧ (∀ now later, p.work = .spStore none (now :: later) → exec (.scratchpadPass w n) s = .next (s.passStore w p none now later))
      ∧ (∀ sc now later, p.work = .spStore (some sc) (now :: later) → x.settledBefore p.stamp = true →
        exec (.scratchpadPass w n) s = .next (s.passStore w p (some sc) now later))
      ∧ (∀ code m now later got bad d, p.work = .spAtom code m (now :: later) got bad d →
        exec (.scratchpadPass w n) s = .next (s.passAtom w p code m now later got bad d))
      ∧ (∀ code m todo got bad d, p.work = .far code m todo got bad d → (∃ o ∈ todo, ∃ pa, o.loc = .mem pa ∧ pa / 128 = line) →
        let here := todo.filter fun o => match o.loc with | .mem pa => lineOf pa == line | _ => false
        let rest := todo.filter fun o => !(match o.loc with | .mem pa => lineOf pa == line | _ => false)
        tooEarly here rest = false → exec (.sliceWordOperation w n line) s = .next (s.performFar w p code m here rest got bad d)))
    ∧ (∀ pc bs s1 pa, s.wave w = some x → x.issuePc = some pc → s.fetch w x pc = .error bs → x.fetches = true →
        let line := (pc + bs.length) % 2 ^ 64 / 128 * 128
        s.lineByte (coreOf w) (s.ctxNo x) (s.genOf x) ((pc + bs.length) % 2 ^ 64) = none →
        s.translate (coreOf w) (s.ctxNo x) line .fetch = (s1, .ok pa) →
        (s1.fillLine (coreOf w) (s.ctxNo x) (s1.genOf x) line pa).m.corePoisoned (coreOf w) (pa + ((pc + bs.length) % 2 ^ 64 - line)) = false →
        exec (.traceCacheFill w) s = .next (s1.fillLine (coreOf w) (s.ctxNo x) (s1.genOf x) line pa))
    ∧ (∀ pc bs b, s.wave w = some x → x.issuePc = some pc → s.fetch w x pc = .error bs → x.fetches = true →
        s.lineByte (coreOf w) (s.ctxNo x) (s.genOf x) ((pc + bs.length) % 2 ^ 64) = some b →
        let t := s.fillWindow (coreOf w) (s.ctxNo x) (s.genOf x) ((pc + bs.length) % 2 ^ 64 / 64 * 64)
        exec (.traceCacheFill w) s = .next t ∧ t.m = s.m ∧ t.co.icache = s.co.icache)
    ∧ (∀ c l, mget (s.exclusive c l).m.own l = some c)
    ∧ (core < 128 → (s.m.l1Line core line).isSome = true → s.reserved core line = false →
        exec (.cacheEviction core line) s = .next (s.expel core line))
    ∧ exec (.cacheEviction 128 line) s = .next (s.l2ToMem fun a => lineOf a == line)
    ∧ exec (.cacheEviction 129 line) s = .next (s.slcToMem fun a => lineOf a == line)
    ∧ exec (.cacheEviction 130 line) s = .next (s.mapMem fun m => { m with snoop := m.snoop.filter fun l => l != line })
    ∧ (∀ die, s.acquireWaits die line = true → core ∈ s.m.recorded die line 128 →
        exec (.drainAcknowledge die core line) s = .next (s.acknowledge die core line))
    ∧ (∀ bar b, mget s.co.bars bar = some b → b.full = true → b.startClk < s.clock →
        exec (.barrierStartComplete bar) s = .next ((s.putBar bar (b.next s.clock)).releaseBar bar (b.next s.clock).phase (s.barDelay bar none)))
    ∧ (∀ k bank got t, s.wave w = some x → x.pending n = some p → p.work = .tblset k bank [] got → mget s.co.tbls k = some t →
        (s.tblOlder (coreOf w) n fun o => match o with
          | .tblset k' .. => k' == k
          | .tbleval k' b .. => k' == k && b == bank
          | _ => false) = false →
        let t' := if bank = 0 then { t with bank0 := got } else { t with bank1 := got }
        exec (.tblsetBankWrite w n) s =
          .next (({ s with co := { s.co with tbls := mput s.co.tbls k t' } } : State).modWave w fun y => y.complete n))
    ∧ (∀ k bank xs d t, s.wave w = some x → x.pending n = some p → p.work = .tbleval k bank xs d → mget s.co.tbls k = some t →
        (s.tblOlder (coreOf w) n fun o => match o with | .tblset k' b .. => k' == k && b == bank | _ => false) = false →
        let m := if bank = 0 then t.bank0 else t.bank1
        let word := fun i => leVal ((List.range 4).map fun j => cget m (4 * i + j) 0#8)
        exec (.tblevalResult w n) s =
          .next (s.putWave w (x.bind n s.clock (xs.flatMap fun a => d.writes a.1 (tblLane word a.2.toNat) 0))))

/-- What engines do of their own accord: a harnessed group switches and its release ends; an instruction of the grid
completes; a queue refills and a bin's timer expires; a query starts and ends; the router and the peer handle a rein (R222, R232,
R234, R241, R288, R292, R315, R354, R445). When an event happens, and what its numbers tell, are the model's choice (log entries 1 and 15). -/
def Obligations.EngineEvents : Prop :=
  ∀ (s : State) (g w n q k : Nat) (h : HGrid),
    (mget s.wk.hgrids g = some h → h.state = 2 → h.sw = false → (∀ p ∈ s.onGroup g h, ∀ r ∈ p.2.pend, r.work.kept = true) →
      exec (.gridSwitch g) s = .next ((s.putGrid g { h with sw := true, lead := some h.leader, store := [], marks := [], curb := 0, fl := 0#5 }).modWave
        h.leader fun y => y.unpark s.clock (fun r => r.kind == .muster g) none))
    ∧ (mrising s.wk.hgrids = true → mget s.wk.hgrids g = some h → h.state = 3 → ∃ t, exec (.gridReleaseEnd g) s = .next t ∧ mget t.wk.hgrids g = none ∧ t.m = s.m
        ∧ (∀ k, k ≠ g → mget t.wk.hgrids k = mget s.wk.hgrids k)
        ∧ ∀ v y, t.wave v = some y → ∀ r ∈ y.parks, r.kind ≠ .muster g)
    ∧ (∀ o rest, s.gridOfWave w = some (g, h) → h.ops = o :: rest → o.stamp = n → o.code = 0x1E6 → o.args.getD 0 0 ≤ o.done →
        o.start + h.latency o ≤ s.clock →
        exec (.hmmaComplete w n) s = .next ((s.putGrid g { h.pop with cut := false }).modWave w fun y => y.complete n))
    ∧ (∀ o rest, s.gridOfWave w = some (g, h) → h.ops = o :: rest → o.stamp = n → o.code = 0x1E1 → o.start + h.latency o ≤ s.clock →
        h.lead = some w → h.queries = 0 → exec (.harnessCompletion w n) s = .next (s.putGrid g h.releasing))
    ∧ (∀ o rest x, s.gridOfWave w = some (g, h) → h.ops = o :: rest → o.stamp = n → o.code ≠ 0x1E1 → o.code ≠ 0x1E6 →
        o.start + h.latency o ≤ s.clock → h.lead = some w → s.wave w = some x → (∀ p, x.pending n = some p → x.inOrder p = true) →
        exec (.harnessCompletion w n) s = .next (s.harnessDone w g o))
    ∧ (∀ t, mget s.wk.tqs q = some t → 2 * t.held.length < t.slots → 0 < t.ringed → exec (.queueRefill q) s = .next (s.refill q 65536))
    ∧ (∀ b, mget s.wk.nbins q = some b → b.trun = true → b.timerAt + 1000 * b.timer ≤ s.timeNs → b.held ≠ [] →
        exec (.binTimerExpire q) s = .next (s.putBin q { b with fired := true, trun := false }))
    ∧ (∀ x t, s.query q = some x → x.state = 1 → s.queryRuns x = true → itemOf (x.kind == 3) x.words x.ctl = .ok t →
        exec (.queryStart q) s = .next (s.putQuery q { x with
          state := 2, todo := [.visit (x.ctl.getD 0 0 + 2 ^ 32 * x.ctl.getD 1 0) 0 0 t.lw t.lh 0 1] }))
    ∧ (∀ x, s.query q = some x → (x.state = 2 ∨ x.state = 3) → s.queryRuns x = true → x.todo = [] →
        exec (.queryEnd q) s = .next (s.endQuery q x 0x10 0 0))
    ∧ (∀ x node i j lw lh lvl e rest s1 us, s.query q = some x → x.todo = .visit node i j lw lh lvl e :: rest → (x.state = 2 ∨ x.state = 3) →
        e < 65 → s.queryRuns x = true → (s.hgrid x.hgrid).rowsLeft = false → s.readNode x node = (s1, .ok us) →
        (us.length < 16 → exec (.compareBatch q) s = .next (s1.putQuery q { x with state := 2, units := us }))
        ∧ ∀ cs t, 16 ≤ us.length → parseNode (us.flatMap Prod.snd) = some cs → itemOf (x.kind == 3) x.words x.ctl = .ok t →
          exec (.compareBatch q) s =
            .next (s1.putQuery q { x with state := 2, units := [], todo := t.visit cs ⟨i, j, lw, lh⟩ lvl e ++ rest }))
    ∧ (∀ x b i j lw lh lvl first count hit tin tout rest, s.query q = some x → x.todo = .emit i j lw lh lvl first count hit tin tout :: rest →
        (x.state = 2 ∨ x.state = 3) → x.count < 4096 → s.queryRuns x = true → s.clusterUp x.bcl = true →
        mget s.wk.nbins (256 * x.bcl + x.ctl.getD 2 0 % 256) = some b → b.valid = true → b.ctx = x.ctx →
        (2 ^ b.slog2 ≤ b.held.length → exec (.recordEmit q) s = .next (s.putQuery q { x with state := 3 }))
        ∧ (b.held.length < 2 ^ b.slog2 →
          let r : Rec := { bytes := x.record i j lw lh lvl first count hit tin tout b.trl, emitter := x.grid
                           depth := ((s.block x.blk).map Block.depth).getD 0, deps := s.m.seenBy (coreOf x.wave) }
          let s1 := (s.releaseEager (coreOf x.wave) 4).intoBin (256 * x.bcl + x.ctl.getD 2 0 % 256) b r
          exec (.recordEmit q) s =
            .next ((s1.putQuery q { x with state := 2, count := x.count + 1, todo := rest }).notDiscardable x.blk)))
    ∧ (∀ d s1 ok, s.wk.sends[n]? = some d → (∀ e ∈ s.wk.sends.take n, ¬(e.id = d.id ∧ e.vec = d.vec ∧ e.ctx = d.ctx)) →
        ({ s with wk := { s.wk with sends := s.wk.sends.eraseIdx n } } : State).routeSend d.id d.ctx d.vec d.payload d.deps = (s1, ok) →
        d.page = none → ∀ v, d.w = some v → exec (.reinRouterSend n) s = .next (s1.sendAnswer v ok))
    ∧ ((s.ctx k).dirty = true → (s.ctx k).record = true → exec (.refusedWriteback k) s =
        .next ((s.putCtx k { s.ctx k with dirty := false }).qWrite 0 ((s.ctx k).image + 72) (leBytesOf 4 (s.ctx k).refused)).1)
    ∧ (s.pk.twin.state = 2 → exec (.peerReinArrival n) s =
        .next (s.routeSend (2 ^ 14 + bitsOf n 85 78) (bitsOf n 77 70) (bitsOf n 69 64) (n % 2 ^ 64)).1)
    ∧ (∀ d v, (s.pk.peerSends.find? fun e => (e.w.map Prod.snd) == some n) = some d → d.w = some v →
        exec (.peerReinAnswer n 1) s =
          .next (({ s with pk := { s.pk with peerSends := s.pk.peerSends.filter fun e => e.w != d.w } } : State).sendAnswer v true))

/-- Copy entries taken, moved on and completed, those of a block that has been saved among them, collectives, and the launches that
queues, bins and grids make (R204, R206, R209, R280, R287, R293, R442 to R444). An entry that has nothing left to move, or has failed,
completes with its status. When an event happens, and which reads and writes of a copy it makes, are the model's choice (log entry
1), as is that a block starts where the copy of its bin's records faulted (log entry 22). -/
def Obligations.CopiesAndLaunches : Prop :=
  ∀ (s : State) (core blk idx q bind cluster key : Nat) (b : Block) (e : Copy),
    (s.block blk = some b → (s.ring blk core).busy.find? (fun e => e.idx == idx) = some e → e.coll = none →
      (e.left = 0 → exec (.copyEntryComplete core blk idx) s = .next (s.bump.finishCopy core blk e e.status))
      ∧ ∀ s1 e1, s.bump.copyActs core b.ctx blk e (e.chunk s.free) = (s1, e1) →
        (e1.left = 0 → exec (.copyEntryComplete core blk idx) s = .next (s1.finishCopy core blk e1 e1.status))
        ∧ (e1.left ≠ 0 → exec (.copyEntryComplete core blk idx) s = .next (s1.putRing blk core ((s1.ring blk core).progress e1))))
    ∧ (∀ v, s.block blk = none → mget s.wk.saved blk = some v → v.entry core idx = some e → e.coll = none →
      (e.left = 0 → exec (.copyEntryComplete core blk idx) s = .next (s.bump.finishSaved core blk v e e.status))
      ∧ ∀ s1 e1, s.bump.copyActs core v.block.ctx blk e (e.chunk s.free) = (s1, e1) →
        (e1.left = 0 → exec (.copyEntryComplete core blk idx) s = .next (s1.finishSaved core blk v e1 e1.status))
        ∧ (e1.left ≠ 0 → exec (.copyEntryComplete core blk idx) s =
          .next { s1 with wk := { s1.wk with saved := mput s1.wk.saved blk (v.progress core e1) } }))
    ∧ ((0x80 ≤ e.status ∧ e.status ≠ 0x88 → e.left = 0 ∧ State.copyAct core key blk (s, e) idx = (s, e))
      ∧ (e.status < 0x80 ∨ e.status = 0x88 → e.left = 2 * e.total - e.at'
        ∧ (∀ s1 got, e.held.find? (fun h => h.1 == idx) = none → s.copyRead core key blk e idx = (s1, .ok got) →
          State.copyAct core key blk (s, e) idx = (s1, { e with held := (idx, got.1, got.2) :: e.held }))
        ∧ (∀ s1 st bs bad, e.held.find? (fun h => h.1 == idx) = some (idx, bs, bad) → s.copyWrite core key blk e idx bs bad = (s1, st) →
          State.copyAct core key blk (s, e) idx = (s1, { e with held := e.held.filter (fun h => h.1 != idx), status := if st = 1 then e.status else st }))))
    ∧ (s.block blk = some b → s.mayTake core blk = true → s.pk.twin.state ≠ 1 → ∃ t c, exec (.copyEntryTake core blk) s = .next t
        ∧ (t.ring blk core).taken = (s.ring blk core).taken + 1 ∧ c.idx = (s.ring blk core).taken ∧ c ∈ (t.ring blk core).busy)
    ∧ (s.mayTake core blk = false → exec (.copyEntryTake core blk) s = .next s)
    ∧ (∀ c opc rcode rtype len src, mget s.pk.colls key = some c → s.pk.twin.state = 2 → c.peer = none →
        let pair := opc = c.opc ∨ (c.opc = 0x13 ∧ opc = 0x14) ∨ (c.opc = 0x14 ∧ opc = 0x13)
        (pair ∧ len = c.n ∧ rtype = c.rtype ∧ rcode = c.rcode → ∃ t, exec (.collectiveMatch key opc rcode rtype len src) s = .next t
          ∧ t.m = s.m ∧ t.waves = s.waves ∧ t.wk = s.wk ∧ mget t.pk.colls key =
            some { c with peer := some (opc, rcode, rtype, len, leBytesOf (collLens opc len).1 src) })
        ∧ (¬(pair ∧ len = c.n ∧ rtype = c.rtype ∧ rcode = c.rcode) →
          exec (.collectiveMatch key opc rcode rtype len src) s = .next (s.finishColl key c 0x8B)))
    ∧ (∀ c p s1 s2 mine bad st, mget s.pk.colls key = some c → c.peer = some p →
        s.engineBytes c.core c.ctx c.blk c.src (collLens c.opc c.n).1 = (s1, .ok (mine, bad)) →
        let hurt := collBad c s1.pk.twin.rank bad
        s1.engineBytesTo c.core c.ctx c.blk c.dst (collResult c s1.pk.twin.rank mine p.2.2.2.2) hurt = (s2, st) →
        exec (.collectiveComplete key) s = .next (s2.finishColl key c (if st = 1 ∧ hurt.any id = true then 0x88 else st)))
    ∧ (∀ y st p t r rest s2 gn, s.turn (q / 64) = some (bind, y, st, p) → mget s.wk.tqs q = some t → t.held = r :: rest → y.src = 1 →
        y.srcn = q % 64 → (st = .bad ∨ ∃ k, st = .fresh k) →
        (s.putTq q { t with held := rest, shead := (t.shead + 1) % t.slots }).newGrid
          (oneBlock t.ctx (q / 64 / 8) t.kdesc (fieldOf r.bytes 0 8) t.prio t.depth [] [trailerOf r.bytes] (2 * q + 2) r.deps) = (s2, some gn) →
        exec (.queueLaunch q bind) s = .next (s2.startOne bind (q / 64) gn (fieldOf r.bytes 8 4) (fieldOf r.bytes 12 4)
          (fieldOf r.bytes 16 4) 0 0 (fieldOf r.bytes 0 8) t.depth none p))
    ∧ (∀ y st p b, s.turn (q / 256) = some (bind, y, st, p) → mget s.wk.nbins q = some b → b.landing = none →
        exec (.binLaunch q bind) s = .next s)
    ∧ (∀ y st p b slot, s.turn (q / 256) = some (bind, y, st, p) → mget s.wk.nbins q = some b → b.landing = some slot → y.src = 2 →
        y.srcn = q % 256 → (st = .bad ∨ ∃ k, st = .fresh k) →
        let k := min b.held.length b.count
        let rs := b.held.take k
        let at' := b.lbase + 4096 * slot
        let bytes := rs.flatMap Rec.bytes
        let s1 := s.putBin q (b.launched k slot s.timeNs)
        let s2 := if (s1.devWrite b.ctx at' bytes).2 then (s1.devWrite b.ctx at' bytes).1
          else (s1.devWrite b.ctx at' bytes).1.logWork b.ctx .store at' bytes.length
        let depth := 1 + rs.foldl (fun a r => max a r.depth) 0
        ∀ s3 gn, s2.newGrid (oneBlock b.ctx (q / 256 / 8) b.kdesc y.arg b.prio depth (rs.map Rec.emitter)
          (rs.map fun r => if b.trl then trailerOf r.bytes else (0, 0, 0)) (2 * q + 3)
          (rs.foldl (fun a r => r.deps.foldl ladd a) ((List.range (s2.m.writes - s1.m.writes)).map (s1.m.writes + ·)))) = (s3, some gn) →
        exec (.binLaunch q bind) s = .next ((s3.binKernel q gn).startOne bind (q / 256) gn 0 0 0 k at' y.arg depth (some (q, slot)) p))
    ∧ (∀ y p t, s.turn cluster = some (bind, y, .again t, p) → exec (.blockStart bind cluster) s =
        .next ((s.modBind bind fun z => { z with requeue := z.requeue.drop 1 }).startBlock bind cluster t p))
    ∧ (∀ y p k, s.turn cluster = some (bind, y, .fresh k, p) → y.src = 0 →
        let gxy := max y.gx 1
        let z := y.ofKernel (((s.bindKernel y).map Prod.fst).getD y.kdesc) k
        let t := z.block bind z.item z.kdesc k (z.next % gxy) (z.next / gxy % max z.gy 1) (z.next / (gxy * max z.gy 1)) 0 0 z.arg z.depth none
        let s1 := s.putBind bind { z with next := z.next + 1, run := z.run + 1 }
        ∀ g, s1.grid z.item = some g →
          exec (.blockStart bind cluster) s = .next ((s1.putGrid' z.item { g with child := false }).startBlock bind cluster t p))

/-- Binds and what becomes of blocks: RUN, PAUSE, RESTORE, TEARDOWN, SAVE and a command of no meaning by the state of the
bind; waves and blocks retire; a saved block's image is written, and it is placed again; a victim is named; priorities age
(R97, R265 to R267, R280, R285, R345 to R348). When an event happens, and the layout of a save area, are the model's choice
(log entries 1, 14 and 15). -/
def Obligations.SchedulingEvents : Prop :=
  ∀ (s : State) (bind w blk img cluster : Nat) (b : Bind),
    (s.bind bind = some b →
      (b.state = 0 ∨ b.state = 2 ∨ b.state = 5 → exec (.cmdRun bind) s = .next (s.putBind bind (b.ready s.timeNs)))
      ∧ (b.state = 1 ∨ b.state = 3 ∨ b.state = 4 → exec (.cmdRun bind) s = .next s)
      ∧ (b.state = 1 → exec (.cmdPause bind) s = .next (s.putBind bind { b with state := 2 }))
      ∧ (b.state = 4 → exec (.cmdRestore bind) s = .next (s.putBind bind (b.ready s.timeNs)))
      ∧ (b.state ≠ 0 → exec (.cmdTeardown bind) s = .next (s.abortBind bind))
      ∧ (b.state = 0 → exec (.cmdTeardown bind) s = .next s)
      ∧ (b.state = 1 ∨ b.state = 2 → ∀ s1 sel, s.readSelect b = (s1, sel) → exec (.cmdSave bind) s = .next (s1.save bind sel))
      ∧ (b.agingDue s.timeNs = true → exec (.priorityAgingStep bind) s = .next (s.putBind bind { b with aged := b.aged + 1 })))
    ∧ (∀ code, exec (.cmdUnassigned bind code) s = .next s)
    ∧ (∀ x, mrising s.waves = true → s.wave w = some x → s.waveDone w x = true →
        exec (.waveRetire w) s = .next (s.endWave w x)
        ∧ (x.pend = [] → x.stepping = false → (s.endWave w x).wave w = none ∧ otherWaves s (s.endWave w x) w
          ∧ (s.endWave w x).m = s.m ∧ (s.endWave w x).co = s.co ∧ (s.endWave w x).wk = s.wk))
    ∧ (∀ x, s.wave w = some x → s.waveDone w x = false → exec (.waveRetire w) s = .next s)
    ∧ (∀ t, s.block blk = some t → (∀ p ∈ s.waves, p.2.blk ≠ blk) → s.copiesLeft blk t = false → t.saving = false →
        exec (.blockRetire blk) s = .next (s.retireBlock blk (if t.killed then 2 else 1)))
    ∧ (∀ t, s.block blk = some t → t.saving = true → s.clusterStopped (clusterOf (t.cores.headD 0)) = false → s.quiet blk t = true →
        let u := t.cores.foldl (fun s c => s.releaseEager c 4) (s.drainGrids blk)
        ∃ v, exec (.saveImageWrite blk) s = .next v ∧ v = (({ u.unplace blk with
          wk := { (u.unplace blk).wk with saved := mput (u.unplace blk).wk.saved blk (u.imageOf blk t) } } : State).saveEnds t.bind))
    ∧ (∀ y v p, s.turn cluster = some (bind, y, .saved img v, p) → exec (.blockRestore img cluster) s =
        .next ((s.restore bind img cluster v p).bindStarted bind cluster y.eff y.ctx))
    ∧ (∀ id t s1 s2 sel rest, s.bind bind = some b → s.candidates (b.cluster bind) = (bind, b) :: rest →
        s.spotOf (b.cluster bind) (bind, b) = none →
        (∀ p ∈ s.wk.blocks, ¬(clusterOf (p.2.cores.headD 0) = b.cluster bind ∧ p.2.saving = true)) →
        s.victim (b.cluster bind) bind b.eff = some (id, t) →
        let slot := ((s.waves.find? fun w => w.2.blk == id && w.2.widx == 0).map fun w => slotOf w.1).getD 0
        let vb := (s.bind t.bind).getD {}
        s.devWrite vb.ctx vb.save (leBytesOf 8 (2 ^ 63 + t.cores.headD 0 * 2 ^ 8 + slot)) = (s1, true) → s1.readSelect vb = (s2, sel) →
        exec (.preemption bind) s = .next (s2.save t.bind sel))

/-- The host: doorbells of a queue that is configured, commands that are well formed, each with the status it completes with,
those that only queue 0 may give, and the host's data accesses (R350 to R352, R393, R395 to R401). When an event happens,
what its numbers tell, the priority of a host's launch (a free value), the fields of a created queue, and when the host sees a write that
nothing orders are the model's choice (log entries 1, 11, 15, 23 and 24). -/
def Obligations.HostEvents : Prop :=
  (∀ (s : State) (page v : Nat) (q : HostQ), s.openPage page = some q →
    exec (.doorbellTail page v) s = .next (s.modHq page fun q => { q with tail := v % 2 ^ 32, deps := s.m.seenBy hostAgent })
    ∧ exec (.doorbellIrqArm page 1) s = .next (s.modHq page fun q => { q with armed := true })
    ∧ (bitsOf v 15 14 = 0 → q.valid = true → ∃ t d, exec (.doorbellRsend page v) s = .next t ∧ t.wk.sends = s.wk.sends ++ [d]
        ∧ d.vec = bitsOf v 13 8 ∧ d.ctx = v % 256 ∧ d.payload = q.rpay ∧ d.page = some page ∧ d.seq = q.sends + 1
        ∧ t.waves = s.waves ∧ t.m = s.m)
    ∧ (bitsOf v 15 14 ≠ 0 ∨ q.valid = false → ∃ t r, exec (.doorbellRsend page v) s = .next t ∧ t.wk.sends = s.wk.sends
        ∧ mget t.wk.hqs page = some r ∧ r.sends = q.sends + 1
        ∧ (q.resultOf ≤ q.sends + 1 → r.rstat = (q.sends + 1) % 2 ^ 32 * 2 ^ 32 + 2 * 2 ^ 30) ∧ t.waves = s.waves ∧ t.m = s.m))
  ∧ (∀ (s u : State) (hq idx : Nat) (bs : List Byte) (q : HostQ), s.nextCmd hq = (u, some (idx, bs)) → mget u.wk.hqs hq = some q →
    let v := u.startCmd hq idx bs
    (u.cmdOk bs = false → exec (.badCommand hq) s = .next (v.hostDone hq idx 0x87))
    ∧ (u.cmdOk bs = true → cmdOpc bs = 1 → exec (.hostLaunch hq) s = .next (v.bump.newGrid
        { launchGrid q.ctx q.die (Config.openValue v.free % 128) 0 [] (bs.drop 16) [] (v.ctx q.ctx).cap with
          host := some (hq, idx), child := false, deps := q.deps }).1)
    ∧ (u.cmdOk bs = true → cmdOpc bs = 2 →
        let e : Copy := { idx := idx, fields := (List.range 8).map fun i => fieldOf bs (16 + 4 * i) 4, status := 1, cut := v.free, coll := none, pub := 0 }
        let core := 32 * q.die
        let by' := fun (x : State) => ({ core := core, deps := x.m.seenBy core } : Done)
        (e.hostCheck ≠ 1 → let x := v.releaseEager core 5
          exec (.hostCopy hq) s = .next (x.hostDone hq idx (0x8B + e.hostCheck * 2 ^ 8) (by' x)))
        ∧ (e.hostCheck = 1 → ∀ s1 n, (v.bump.acquireAt core 5 q.deps).copyRest core q.ctx 0 e = (s1, n) → let x := s1.releaseEager core 5
          exec (.hostCopy hq) s = .next (x.hostDone hq idx (if n = 1 then 0x101 else 0x8B + n * 2 ^ 8) (by' x))))
    ∧ (u.cmdOk bs = true → cmdOpc bs = 3 → fieldOf bs 32 1 = 0 → ∀ s1,
        (v.pushDown 5 fun _ => true).qWrite q.ctx (fieldOf bs 16 8) (leBytesOf 8 (fieldOf bs 24 8)) (q.release (fieldOf bs 33 1)) = (s1, true) →
        exec (.hostSignalWrite hq) s = .next (s1.hostDone hq idx 1))
    ∧ (u.cmdOk bs = true → cmdOpc bs = 3 → fieldOf bs 32 1 = 1 → ∀ s1 s2 old, v.qRead q.ctx (fieldOf bs 16 8) 8 = (s1, .ok old) →
        s1.devPoisoned q.ctx (fieldOf bs 16 8) 8 = false →
        s1.qWrite q.ctx (fieldOf bs 16 8) (leBytesOf 8 (leVal old + fieldOf bs 24 8))
          (joinRels (s1.qRels q.ctx (fieldOf bs 16 8)) (q.release (fieldOf bs 33 1))) = (s2, true) →
        exec (.hostSignalAdd hq) s = .next ((s2.pushDown 5 fun _ => true).hostDone hq idx 1))
    ∧ (u.cmdOk bs = true → cmdOpc bs = 8 → s.tryFence hq = (s, false) → exec (.hostFence hq) s = .next (v.tryFence hq).1)
    ∧ (u.cmdOk bs = true → cmdOpc bs = 5 → fieldOf bs 25 1 = 1 → hq = 0 →
        exec (.ctxcfgTeardown hq) s = .next ((v.endCtx (fieldOf bs 24 1)).hostDone hq idx 1))
    ∧ (u.cmdOk bs = true → cmdOpc bs = 5 → fieldOf bs 25 1 = 0 → hq = 0 → ∀ s1 img, v.qRead q.ctx (fieldOf bs 16 8) 640 = (s1, .ok img) →
        ctxOk img = true → let m := fieldOf bs 24 1
        exec (.ctxcfgInstall hq) s = .next ((s1.putCtx m { parseCtx (fieldOf bs 16 8) img with
          launched := (s1.ctx m).launched, raised := (s1.ctx m).raised, sent := (s1.ctx m).sent }).wakeParked.hostDone hq idx 1))
    ∧ (u.cmdOk bs = true → cmdOpc bs = 5 → fieldOf bs 25 1 = 2 → hq = 0 → ∀ m, v.freeHostQ = some m →
        exec (.ctxcfgCreateQueue hq) s = .next (({ v with wk := { v.wk with hqs := mput v.wk.hqs m (newHostQ (mgetD v.wk.hqs m {})
          (fieldOf bs 16 8) (fieldOf bs 26 2) (fieldOf bs 28 1) (fieldOf bs 24 1)) } } : State).hostDone hq idx 1))
    ∧ (u.cmdOk bs = true → cmdOpc bs = 6 → fieldOf bs 25 1 ≠ 0xFF → hq = 0 → let m := fieldOf bs 24 1
        exec (.reincfg hq) s = .next ((v.putCtx m { v.ctx m with
          reinblk := fieldOf bs 16 8, perms := (v.ctx m).perms.set (fieldOf bs 25 1) (parsePerm (bs.drop 32)) }).wakeParked.hostDone hq idx 1))
    ∧ (u.cmdOk bs = true → cmdOpc bs = 6 → fieldOf bs 25 1 = 0xFF → hq = 0 → let m := fieldOf bs 24 1
        ∀ s1 img, v.qRead q.ctx (v.ctx m).image 640 = (s1, .ok img) →
        exec (.reincfg hq) s = .next ((s1.putCtx m { v.ctx m with
          reinblk := fieldOf bs 16 8, perms := parsePerms img }).wakeParked.hostDone hq idx 1))
    ∧ (u.cmdOk bs = true → cmdOpc bs = 7 → fieldOf bs 28 1 = 0 → hq = 0 →
        exec (.biasflipToHost hq) s = .next ((v.flipToHost ((v.granulesOf bs).filter fun g => v.m.bias.contains g)).hostDone hq idx 1))
    ∧ (u.cmdOk bs = true → cmdOpc bs = 7 → fieldOf bs 28 1 = 1 → hq = 0 →
        exec (.biasflipToDevice hq) s = .next ((v.flipToDevice ((v.granulesOf bs).filter fun g => !v.m.bias.contains g)).hostDone hq idx 1))
    ∧ (∀ i, (i = .ctxcfgTeardown hq ∧ cmdOpc bs = 5 ∧ fieldOf bs 25 1 = 1) ∨ (i = .reincfg hq ∧ cmdOpc bs = 6)
          ∨ (i = .biasflipToHost hq ∧ cmdOpc bs = 7 ∧ fieldOf bs 28 1 = 0) ∨ (i = .biasflipToDevice hq ∧ cmdOpc bs = 7 ∧ fieldOf bs 28 1 = 1) →
        u.cmdOk bs = true → hq ≠ 0 → exec i s = .next (v.hostDone hq idx 0x89))
    ∧ (u.cmdOk bs = true → cmdOpc bs = 4 → (mgetD s.wk.hqs hq {}).busy = [] →
        exec (.hostWait hq) s = .next (v.tryWaits hq [{ idx := idx, bytes := bs, at' := 0 }]).1))
  ∧ (∀ (s : State) (hq : Nat) (c : Cmd), ((mgetD s.wk.hqs hq {}).busy.find? fun c =>
      cmdOpc c.bytes == 4 && fieldOf c.bytes 36 4 != 0 && decide (c.at' + 1000 * fieldOf c.bytes 36 4 ≤ s.timeNs)) = some c →
      exec (.hostWaitTimeout hq) s = .next (s.hostDone hq c.idx 0x88))
  ∧ (∀ (s : State) (hq : Nat) (c : Cmd) (rest : List Cmd), (mgetD s.wk.hqs hq {}).busy = c :: rest → cmdOpc c.bytes = 8 →
      s.tryFence hq = ((s.pushDown 5 fun _ => true).hostDone hq c.idx 1, true)
      ∧ exec (.hostFence hq) s = .next ((s.pushDown 5 fun _ => true).hostDone hq c.idx 1))
  ∧ (∀ (s : State) (a n : Nat), s.dataLink = true → (∀ i, i < n → s.inMemory (a + i) = true) →
      let as := (List.range n).map (a + ·)
      let u := ((linesOfRange a n).foldl State.hostSnoop s).hostDue as
      ∃ t, exec (.hostDataRead a n) s = .next t ∧ t.m = (u.hostSees as).m ∧ t.waves = s.waves ∧ t.wk = s.wk
        ∧ (u.m.poisoned a n = false → t.hostRd = leVal (readBytes u.hostByte a n))
        ∧ (u.m.poisoned a n = true → t.hostRd = leVal (readBytes u.hostByte a n) + 2 ^ (8 * n)))
  ∧ (∀ (s : State) (a n v : Nat), s.dataLink = true → (∃ i, i < n ∧ s.inMemory (a + i) = false) →
      exec (.hostDataRead a n) s = .next { s with hostRd := 2 ^ (8 * n + 1) - 1 } ∧ exec (.hostDataWrite a n v) s = .next s)
  ∧ (∀ (s : State) (a n v : Nat), s.dataLink = true → 0 < n → a % 128 + n ≤ 128 → (∀ i, i < n → s.inMemory (a + i) = true) →
      exec (.hostDataWrite a n v) s = .next (s.hostStore a (leBytesOf n v)).wakeParked)
  ∧ (∀ (s : State) (a n v : Nat), (n = 1 ∨ n = 2 ∨ n = 4 ∨ n = 8) → a % n = 0 →
      (s.devReady = true → exec (.registerWrite 0 a n v) s = .next (s.writeBar2 a n v) ∧ exec (.registerWrite 4 a n v) s = .next (s.writeBar0 a n v))
      ∧ (inWindow a = true → exec (.registerWrite 2 a n v) s =
          .next (s.writeWindow ((a - windowBase) / 0x400000) false ((a - windowBase) % 0x400000) n v)))

/-- The supervisor, the debug unit and errors: reading TRAPQ and the registers of the window, resuming a wave, the three ends of a
handler, its exceptions, stores, loads and FENCE, the cluster's stop, a step's end, and what an error leaves in ERRSTAT or in the
counts of its memory channel (R162, R169, R261 to R264, R269 to R275). When an event
happens, what its numbers tell, where a frame lies, how arrays are numbered and the codes of the supervisor's own exceptions are
the model's choice (log entries 1, 14, 15, 34, 35 and 47). -/
def Obligations.SupervisorEvents : Prop :=
  ∀ (s : State) (core w q n : Nat) (x : Wave) (e : Stop) (rest : List Stop),
    ((s.sup core).queue = [] → exec (.trapqRead core 8) s = .next { s with hostRd := 0 })
    ∧ (∀ size, (s.sup core).queue = e :: rest → size ≠ 8 → exec (.trapqRead core size) s =
        .next { s with hostRd := (e.frame / 128 * 128 + 64 + e.slot) % 256 ^ size })
    ∧ ((s.sup core).queue = e :: rest → (s.sup core).handling = none → (s.ctx e.ctx).handler ≠ 0 → ∃ t, exec (.trapqRead core 8) s = .next t
        ∧ t.hostRd = e.frame / 128 * 128 + 64 + e.slot ∧ (t.sup core).queue = rest ∧ (t.sup core).handling = some e ∧ t.waves = s.waves
        ∧ (t.sup core).hart.user = true ∧ (t.sup core).hart.pc = BitVec.ofNat 64 ((s.ctx e.ctx).handler / 2 * 2)
        ∧ (t.sup core).hart.x[9]? = some (BitVec.ofNat 64 e.frame) ∧ (t.sup core).hart.x[10]? = some (BitVec.ofNat 64 e.slot))
    ∧ (s.wave w = some x → x.run = .stopped → x.trapped = true → x.dbg = false →
        exec (.wcmdResume w) s = .next (s.resumeWave w (x.mapLanes fun _ y => { y with neglect := 0 })))
    ∧ ((s.sup core).handling = some e → let u := s.putSup core { s.sup core with handling := none, hart := { (s.sup core).hart with user := false } }
        exec (.ecallDone core) s = .next u
        ∧ exec (.ecallTeardown core n) s = .next (u.teardown e.blk (0x81 + n % 256 * 2 ^ 8))
        ∧ exec (.supervisorException core n) s = .next (u.teardown e.blk (0x83 + n % 256 * 2 ^ 8))
        ∧ (s.block e.blk = none → exec (.ecallEscalate core) s = .next u))
    ∧ (∀ b g, (s.sup core).handling = some e → s.block e.blk = some b → s.grid b.grid = some g →
        let d : Done := { core := core, deps := s.m.seenBy core }
        let ends := fun (u : State) => u.putSup core { u.sup core with handling := none, hart := { (u.sup core).hart with user := false } }
        (∃ u, exec (.ecallEscalate core) s = .next (ends u)
          ∧ (∀ hq idx, g.host = some (hq, idx) → u = s.hostInterim hq idx (3 + e.cause * 2 ^ 8) d)
          ∧ (∀ v y, s.wave v = some y → ∃ z, (ends u).wave v = some z ∧ z.run = y.run))
        ∧ (g.host = none → g.reports = [] → exec (.ecallEscalate core) s = .next (ends s))
        ∧ (∀ caddr tag scope s1, g.host = none → g.reports = [(caddr, tag, scope)] → caddr ≠ 0 →
            (s.pushDown 5 fun _ => true).devWrite g.ctx caddr (leBytesOf 8 (3 + e.cause % 256 * 2 ^ 8 + tag * 2 ^ 16)) (d.rels 5) = (s1, true) →
            exec (.ecallEscalate core) s = .next (ends s1)))
    ∧ (∀ addr v s1 pa, (s.sup core).handling = some e → (n = 1 ∨ n = 2 ∨ n = 4 ∨ n = 8) → addr % n = 0 → inWindow addr = false →
        s.translate core e.ctx addr .store = (s1, .ok pa) → exec (.supervisorStore core addr n v) s =
          .next (s1.putSup core { s1.sup core with sq := (s1.sup core).sq ++ [(pa, leBytesOf n v)] }))
    ∧ (∀ addr v, (s.sup core).handling = some e → (n = 2 ∨ n = 4 ∨ n = 8) → addr % n ≠ 0 →
        exec (.supervisorStore core addr n v) s = exec (.supervisorException core 6) s)
    ∧ (s.wave w = some x → x.run = .stopping → x.atRest = true → x.dbg = false → ∀ f, x.frame = some f →
        let g := x.stopFrame f
        let u := (s.devWrite (s.ctxNo x) (s.frameAddr x) g.bytes).1
        let v := (u.modWave w fun y => { y with run := .stopped, reported := true, frame := some g }).pushStop w { x with frame := some g }
          ((List.range (u.m.writes - s.m.writes)).map (s.m.writes + ·))
        (x.stepping = false → exec (.waveStopReport w) s = .next v)
        ∧ (x.stepping = true → exec (.waveStopReport w) s = .next ((v.modWave w fun y => { y with stepping := false }).putDbg (clusterOfWave w)
            { v.dbg (clusterOfWave w) with stepRun := false })))
    ∧ (∀ pc i, s.wave w = some x → x.run = .running → x.issuePc = some pc → s.breakAt w x pc = some i → (s.dbg (clusterOfWave w)).state = 0 →
        (∀ p ∈ x.pend, p.work.isCheck = false) →
        ∃ t, exec (.instructionBreakpointHit w) s = .next t ∧ ∀ y, t.wave w = some y → y.run = .stopping ∧ pc ∈ y.skipBp
          ∧ ∃ f, y.frame = some f ∧ f.trap.cause = .breakpoint ∧ f.pc = pc ∧ f.dbg = true)
    ∧ ((s.dbg q).state = 1 → (∀ p ∈ s.waves, s.observed q p.1 p.2 = true → p.2.hit = none ∧ ¬(p.2.run = .stopping ∧ p.2.dbg = true)) →
        exec (.clusterStopped q) s = .next (s.putDbg q { s.dbg q with state := 2 }))
    ∧ exec (.dbgResume q) s = .next (s.debugResume q)
    ∧ exec (.dbgStep q core n) s = .next (s.debugStep q core n)
    ∧ (s.wave w = some x → x.stepOver = true → ∃ t y, exec (.dbgStepDone w) s = .next t ∧ t.wave w = some y
        ∧ y.run = .stopping ∧ ∃ f, y.frame = some f ∧ f.trap.cause = .debugStop ∧ f.trap.sub = 1)
    ∧ (∀ arr off, let u := s.hitArray core arr off
        (arr < 4 → exec (.uncorrectableError core arr off) s = .next (u.logUce core arr off))
        ∧ exec (.uncorrectableError core 4 off) s = .next ((s.poison off).logChannel off true)
        ∧ exec (.uncorrectableError core 5 off) s = .next ((s.hitArray core 5 off).logUce core 0 off)
        ∧ (6 ≤ arr → exec (.uncorrectableError core arr off) s = .next (s.poison off))
        ∧ exec (.correctableError core 4 off) s = .next (s.logChannel off false))
    ∧ (∀ arr off, arr ≠ 4 → arr ≤ 5 → mgetD s.co.errstat core 0 % 65536 < 65535 → ∃ t, exec (.correctableError core arr off) s = .next t
        ∧ mgetD t.co.errstat core 0 = mgetD s.co.errstat core 0 + 1 ∧ t.waves = s.waves ∧ t.m = s.m)
    ∧ (mrising s.co.errstat = true → ∃ t, exec (.errstatClear core) s = .next t ∧ mgetD t.co.errstat core 0 = 0 ∧ t.waves = s.waves ∧ t.m = s.m)
    ∧ (∀ ins, s.agenda = .superFence core :: ins →
        let u : State := { s with agenda := ins }
        let v := ((u.sup core).sq.foldl (fun v _ => v.superLeave core) u).fence core 0 4 (u.sup core).heard
        step s = .next (v.putSup core { v.sup core with fenced := v.m.seenBy core, heard := [] }))
    ∧ (∀ ins addr s1 pa, s.agenda = .superLoad core addr n :: ins → (s.sup core).handling = some e → (s.sup core).sq = [] →
        (n = 1 ∨ n = 2 ∨ n = 4 ∨ n = 8) → addr % n = 0 → inWindow addr = false →
        ({ s with agenda := ins } : State).translate core e.ctx addr .load = (s1, .ok pa) → (s1.sup core).sq = [] →
        let u := s1.prepareRead core false (.mem pa)
        step s = .next { u with hostRd := leVal (u.locBytes core (.mem pa) n) })
    ∧ (∀ ins who addr, s.agenda = .read who addr n :: ins → (n = 1 ∨ n = 2 ∨ n = 4 ∨ n = 8) → addr % n = 0 → (who = 1 ∨ who = 2) →
        inWindow addr = true → (addr - windowBase) % 0x400000 ≠ 0x300A00 →
        ∃ t, step s = .next t ∧ t.hostRd = ({ s with agenda := ins } : State).readRegister who addr n ∧ t.waves = s.waves ∧ t.m = s.m ∧ t.co = s.co
          ∧ t.wk = s.wk ∧ t.pk = s.pk)

/-- The package: invalidations and IOFENCE.C, power and clock, boot, reset and attestation, the channel and row of an address,
service requests, and the twin link (R389, R392, R402, R406 to R417, R438 to R440). When an event happens, what its numbers tell,
the formats of translation, the state that a refused request leaves, GEN over a handover, a function-level reset's queue 0, the steps of a
retirement, the signatures and the identity are the model's choice (log entries 1, 13, 15, 37 and 45). -/
def Obligations.PackageEvents : Prop :=
  ∀ (s : State) (n m : Nat),
    exec (.iotinvalVma (n + 1) m 1) s = .next (s.invalidate (.vma (some n) (some m)))
    ∧ exec (.iodirInvalDdt s.pk.topo.devid) s = .next (s.invalidate .ddt)
    ∧ exec (.iodirInvalPdt s.pk.topo.devid n) s = .next (s.invalidate (.pdt n))
    ∧ (s.m.iommu.inval = [] → ∃ t, exec (.iofenceC 0 n) s = .next t ∧ t.m.mem = s.m.mem ∧ t.waves = s.waves ∧ t.m.iommu.inval = [])
    ∧ (s.fenceHeld = true → ∃ t, exec (.iofenceC n m) s = .next t ∧ t.m.iommu.fences = s.m.iommu.fences ++ [(n, m)]
        ∧ t.m.iommu.inval = s.m.iommu.inval ∧ t.m.mem = s.m.mem ∧ t.waves = s.waves)
    ∧ (s.devReady = true → ∃ t, exec (.powerLimitWrite n) s = .next t ∧ t.pk.power.limit = s.limitOf n ∧ t.waves = s.waves ∧ t.m = s.m)
    ∧ (∀ mhz, (mhz = s.pk.power.clkmhz + 25 ∨ mhz + 25 = s.pk.power.clkmhz) → 800 ≤ mhz → mhz ≤ 2000 →
        ∃ t, exec (.clockStep mhz) s = .next t ∧ t.pk.power.clkmhz = mhz ∧ t.waves = s.waves ∧ t.m = s.m)
    ∧ (s.devReady = false → s.pk.flash.sigOk = true → s.pk.flash.format = 1 → ∃ t, exec .perstRelease s = .next t ∧ t.devReady = true
        ∧ t.pk.topo.status.testBit 1 = s.pk.topo.status.testBit 1 ∧ t.m.bias = [] ∧ t.waves = s.waves ∧ t.pk.chans = s.pk.flash.channelsNow ∧ t.pk.moved = [] ∧ t.pk.identity = some s.pk.flash.identity ∧ (∃ q, mget t.wk.hqs 0 = some q ∧ q.conf = true))
    ∧ (∃ t, exec .moduleReset s = .next t ∧ t.waves = [] ∧ t.m = State.reset.m ∧ t.co = State.reset.co ∧ t.wk = State.reset.wk
        ∧ t.devReady = false ∧ t.pk.flash = s.pk.flash ∧ t.pk.topo.mbase = s.pk.topo.mbase)
    ∧ (∃ t, exec .functionLevelReset s = .next t ∧ ∀ k q, mget t.wk.hqs k = some q → q.busy = [] ∧ (k ≠ 0 → q.conf = false))
    ∧ (s.devReady = true → ∃ t body, exec (.attestationRequest n) s = .next t ∧ t.waves = s.waves ∧ t.m = s.m ∧ body.headD 0 = n % 2 ^ 256
        ∧ t.pk.report = body ++ [Config.mldsaSign (s.pk.identity.getD (0, 0)).1 body])
    ∧ (s.devReady = true → s.pk.svc ≠ 1 → s.pk.offline = none →
        (n < 32 → s.pk.topo.clusters.testBit n = true → (∀ p ∈ s.wk.binds, p.2.cluster p.1 ≠ n) →
          ∃ t, exec (.svcClusterOffline n) s = .next t ∧ t.pk.offline = some n ∧ t.pk.svc = 1 ∧ t.waves = s.waves ∧ t.m = s.m)
        ∧ (n < 32 → s.pk.flash.clustersNow.testBit n = true → s.pk.topo.clusters.testBit n = false →
          ∃ t, exec (.svcClusterOnline n) s = .next t ∧ t.pk.topo.clusters = s.pk.topo.clusters + 2 ^ n ∧ t.pk.svc = 2 ∧ t.m = s.m)
        ∧ (n < 96 → s.pk.topo.channels.testBit n = true → s.pk.retiring = none →
          ∃ t, exec (.svcRetireChannel n) s = .next t ∧ t.pk.retiring = some n ∧ t.pk.topo.memnext = s.pk.topo.memsize - 2 ^ 33 ∧ t.m = s.m)
        ∧ (s.pk.retiring = some n →
          ∃ t, exec (.svcProceedRetirement n) s = .next t ∧ t.pk.retiring = none ∧ t.pk.topo.memsize = s.pk.topo.memnext
            ∧ t.pk.flash.log = s.pk.flash.log ++ [(256 + n, Config.mldsaSign s.pk.flash.identity.1 [256 + n])]
            ∧ t.pk.flash.verified = s.pk.flash.verified ++ [256 + n] ∧ t.waves = s.waves)
        ∧ (n < 96 → s.pk.topo.channels.testBit n = true →
          ∃ t, exec (.svcRetrainChannel n) s = .next t ∧ t.pk.svc = 2 ∧ t.m = s.m ∧ t.waves = s.waves)
        ∧ (n < 4 ∨ n = 0xFF → m < 2 ^ 32 → s.pk.flash.floors.getD 2 0 ≤ m →
          ∃ t, exec (.svcFirmwareHandover (2 ^ 32 * m + 256 + n)) s = .next t ∧ t.pk.svc = 2
          ∧ t.pk.topo.gen = (s.pk.topo.gen + (if n = 0xFF then 8 else 2)) % 2 ^ 32
          ∧ (∀ die, (die = n ∨ n = 0xFF) ∧ die < 4 → mget t.pk.patches die = some m) ∧ t.waves = s.waves ∧ t.m = s.m)
        ∧ (n < 4 ∨ n = 0xFF → m < s.pk.flash.floors.getD 2 0 → m < 2 ^ 32 →
          ∃ t, exec (.svcFirmwareHandover (2 ^ 32 * m + 256 + n)) s = .next t ∧ t.pk.svc = 3 ∧ t.pk.fwEvent = true
          ∧ t.pk.topo = s.pk.topo ∧ t.pk.patches = s.pk.patches ∧ t.waves = s.waves ∧ t.m = s.m))
    ∧ (∀ pa, s.pk.moved = [] →
        s.channel pa = s.channels.getD ((pa - s.pk.topo.mbase) / 256 % s.channels.length) 0
        ∧ s.channelRow pa = (pa - s.pk.topo.mbase) / 256 / s.channels.length)
    ∧ (s.devReady = true → s.pk.svc = 1 → ∀ i, i = .svcClusterOnline n ∨ i = .svcRetireChannel n ∨ i = .svcProceedRetirement n
          ∨ i = .svcRetrainChannel n ∨ i = .svcFirmwareHandover n →
        ∃ t, exec i s = .next t ∧ t.pk.svc = 3 ∧ t.waves = s.waves ∧ t.m = s.m ∧ t.wk = s.wk)
    ∧ (32 ≤ n → n < 44 → s.pk.topo.hlinks.testBit (n - 32) = true → ∃ t, exec (.ucieModuleFailure n) s = .next t
        ∧ t.pk.topo.hlinks = s.pk.topo.hlinks - 2 ^ (n - 32) ∧ t.waves = s.waves ∧ t.m = s.m)
    ∧ (s.devReady = true → s.pk.twin.state = 0 →
        (exec (.twinEnable 1) s = .next (s.modTwin fun t => { t with en := true }))
        ∧ (∃ t, exec (.twinEnable 0) s = .next t ∧ t.pk.twin.en = false ∧ t.pk.twin.state = 0 ∧ t.pk.twin.why = 5)
        ∧ (∃ t, exec .twinRetrain s = .next t ∧ t.pk.twin.state = (if s.pk.twin.en then 1 else 0) ∧ t.pk.twin.why = 5 ∧ t.waves = s.waves ∧ t.m = s.m))
    ∧ (s.pk.twin.state = 1 → s.pk.flash.serial ≠ n → m < 256 → ∃ t, exec (.linkTrainingComplete (4096 * n + 16 * m + 1)) s = .next t
        ∧ t.pk.twin.state = 2 ∧ t.pk.twin.lanes = m ∧ t.pk.twin.rank = (if s.pk.flash.serial < n then 0 else 1) ∧ t.waves = s.waves)
    ∧ (1 ≤ n → n ≤ 7 → s.pk.twin.state = 2 → s.pk.colls = [] → s.pk.peerSends = [] → ∃ t, exec (.linkDownEvent n) s = .next t
        ∧ t.pk.twin.state = 0 ∧ t.pk.twin.why = n ∧ t.pk.twin.downAt = s.timeNs ∧ t.waves = s.waves ∧ t.m = s.m)
    ∧ (s.pk.twin.state = 0 → s.pk.twin.en = true → s.pk.twin.why = 0 ∨ s.pk.twin.downAt + 1000000 ≤ s.timeNs →
        ∃ t, exec .linkAutoRetrain s = .next t ∧ t.pk.twin.state = 1 ∧ t.waves = s.waves ∧ t.m = s.m)
    ∧ (s.pk.twin.state = 2 → s.pk.twin.run < 15 → 0 < n → ∃ t, exec (.flitReplay n) s = .next t
        ∧ t.pk.twin.run = s.pk.twin.run + 1 ∧ t.pk.twin.state = 2 ∧ t.waves = s.waves ∧ t.m = s.m)
end

