-- ==== Sys2Proof/Laws/Codec.lean ====
section
/-! SUPPORT. Codec.lean: laws of the words: taking a joined word apart gives back its fields, and reading bytes laid out gives
back their number. -/

namespace Sys2Proof

/-- Bytes laid out read back as the number, as far as they hold it. -/
theorem leNat_leBytes (n x : Nat) : leNat (leBytes n x) = x % 256 ^ n := by
  induction n generalizing x with
  | zero => simp [leBytes, leNat, Nat.mod_one]
  | succ n ih =>
    have h : 256 ^ (n + 1) = 256 * 256 ^ n := by rw [Nat.pow_succ, Nat.mul_comm]
    simp only [leBytes, leNat, ih, BitVec.toNat_ofNat, h, Nat.mod_mul]

@[simp] theorem length_leBytes (n x : Nat) : (leBytes n x).length = n := by
  induction n generalizing x with
  | zero => rfl
  | succ n ih => simp [leBytes, ih]

/-- The fields of an I64 body survive being joined (R51). -/
theorem splitBody_joinBody (op : Nat) (x : Body) : splitBody (joinBody op x) x.lit = x := by
  obtain ⟨⟩ := x
  simp only [splitBody, Body.mk.injEq, true_and]
  refine ⟨?_, ?_, ?_, ?_, ?_, ?_, ?_, ?_, ?_, ?_, ?_, ?_, ?_, ?_⟩ <;>
   first
   | (apply BitVec.eq_of_getLsbD_eq
      intro i hi
      simp only [joinBody, BitVec.getLsbD_extractLsb', BitVec.getLsbD_append, hi, decide_true, Bool.true_and]
      repeat' (first | rw [if_pos (by omega)] | rw [if_neg (by omega)])
      try congr 1
      try omega)
   | (simp only [joinBody, BitVec.getLsbD_append]; simp)

/-- The OP of an I64 word (R51). -/
theorem op_joinBody (op : Nat) (x : Body) : (joinBody op x).extractLsb' 2 9 = BitVec.ofNat 9 op := by
  apply BitVec.eq_of_getLsbD_eq
  intro i hi
  simp only [joinBody, BitVec.getLsbD_extractLsb', BitVec.getLsbD_append, hi, decide_true, Bool.true_and]
  repeat' (first | rw [if_pos (by omega)] | rw [if_neg (by omega)])
  congr 1
  omega

/-- The length code of an I64 word says whether a literal follows (R47). -/
theorem code_joinBody (op : Nat) (x : Body) : (joinBody op x).extractLsb' 0 2 = if x.lit.isSome then 3#2 else 2#2 := by
  apply BitVec.eq_of_getLsbD_eq
  intro i hi
  simp only [joinBody, BitVec.getLsbD_extractLsb', BitVec.getLsbD_append, hi, decide_true, Bool.true_and]
  rw [if_pos (by omega)]
  congr 1
  omega

/-- The fields of an I32 word (R50). -/
theorem split_joinI32 (op : Nat) (x : I32) :
    ({ d := (joinI32 op x).extractLsb' 8 7, a := (joinI32 op x).extractLsb' 15 7, b := (joinI32 op x).extractLsb' 22 7
       stall := (joinI32 op x).extractLsb' 29 3 } : I32) = x
      ∧ (joinI32 op x).extractLsb' 2 6 = BitVec.ofNat 6 op ∧ (joinI32 op x).extractLsb' 0 2 = 1#2 := by
  obtain ⟨⟩ := x
  simp only [I32.mk.injEq]
  refine ⟨⟨?_, ?_, ?_, ?_⟩, ?_, ?_⟩ <;>
   (apply BitVec.eq_of_getLsbD_eq
    intro i hi
    simp only [joinI32, BitVec.getLsbD_extractLsb', BitVec.getLsbD_append, hi, decide_true, Bool.true_and]
    repeat' (first | rw [if_pos (by omega)] | rw [if_neg (by omega)])
    try congr 1
    try omega)

/-- The fields of a C16 parcel (R49). -/
theorem split_joinC16 (op : Nat) (x : C16) :
    ({ d := (joinC16 op x).extractLsb' 6 5, b := (joinC16 op x).extractLsb' 11 5 } : C16) = x
      ∧ (joinC16 op x).extractLsb' 2 4 = BitVec.ofNat 4 op ∧ (joinC16 op x).extractLsb' 0 2 = 0#2 := by
  obtain ⟨⟩ := x
  simp only [C16.mk.injEq]
  refine ⟨⟨?_, ?_⟩, ?_, ?_⟩ <;>
   (apply BitVec.eq_of_getLsbD_eq
    intro i hi
    simp only [joinC16, BitVec.getLsbD_extractLsb', BitVec.getLsbD_append, hi, decide_true, Bool.true_and]
    repeat' (first | rw [if_pos (by omega)] | rw [if_neg (by omega)])
    try congr 1
    try omega)

/-- A target list read back (R58). -/
theorem listWords_flatMap (ts : List Word) (rest : List Byte) :
    listWords ts.length (ts.flatMap (fun t => leBytes 4 t.toNat) ++ rest) = some ts := by
  induction ts with
  | nil => rfl
  | cons t ts ih =>
    have h : BitVec.ofNat 32 (leNat (leBytes 4 t.toNat)) = t := by
      rw [leNat_leBytes, Nat.mod_eq_of_lt (show t.toNat < 256 ^ 4 from t.isLt), BitVec.ofNat_toNat, BitVec.setWidth_eq]
    rw [List.flatMap_cons, List.append_assoc, List.length_cons]
    show (listWords ts.length (ts.flatMap (fun t => leBytes 4 t.toNat) ++ rest)).map (BitVec.ofNat 32 (leNat (leBytes 4 t.toNat)) :: ·) = _
    rw [h, ih]
    rfl

end Sys2Proof
end

