-- ==== Sys2Proof/Laws/State.lean ====
section
/-! SUPPORT. State.lean: what each update of the state leaves in each of its fields. -/

namespace Sys2Proof.Machine

variable (s : State)

@[simp] theorem putWave_waves (w : Nat) (x : Wave) : (s.putWave w x).waves = mput s.waves w x := rfl
@[simp] theorem putWave_co (w : Nat) (x : Wave) : (s.putWave w x).co = s.co := rfl
@[simp] theorem putWave_m (w : Nat) (x : Wave) : (s.putWave w x).m = s.m := rfl
@[simp] theorem putWave_wk (w : Nat) (x : Wave) : (s.putWave w x).wk = s.wk := rfl
@[simp] theorem putWave_pk (w : Nat) (x : Wave) : (s.putWave w x).pk = s.pk := rfl
@[simp] theorem putWave_clock (w : Nat) (x : Wave) : (s.putWave w x).clock = s.clock := rfl
@[simp] theorem putWave_timeFs (w : Nat) (x : Wave) : (s.putWave w x).timeFs = s.timeFs := rfl
@[simp] theorem putWave_agenda (w : Nat) (x : Wave) : (s.putWave w x).agenda = s.agenda := rfl
@[simp] theorem putWave_cur (w : Nat) (x : Wave) : (s.putWave w x).cur = s.cur := rfl
@[simp] theorem putWave_stamp (w : Nat) (x : Wave) : (s.putWave w x).stamp = s.stamp := rfl
@[simp] theorem putWave_free (w : Nat) (x : Wave) : (s.putWave w x).free = s.free := rfl
@[simp] theorem putWave_hostRd (w : Nat) (x : Wave) : (s.putWave w x).hostRd = s.hostRd := rfl

@[simp] theorem modWave_waves (w : Nat) (f : Wave → Wave) : (s.modWave w f).waves = mmod s.waves w f := rfl
@[simp] theorem modWave_co (w : Nat) (f : Wave → Wave) : (s.modWave w f).co = s.co := rfl
@[simp] theorem modWave_m (w : Nat) (f : Wave → Wave) : (s.modWave w f).m = s.m := rfl
@[simp] theorem modWave_wk (w : Nat) (f : Wave → Wave) : (s.modWave w f).wk = s.wk := rfl
@[simp] theorem modWave_pk (w : Nat) (f : Wave → Wave) : (s.modWave w f).pk = s.pk := rfl
@[simp] theorem modWave_clock (w : Nat) (f : Wave → Wave) : (s.modWave w f).clock = s.clock := rfl
@[simp] theorem modWave_timeFs (w : Nat) (f : Wave → Wave) : (s.modWave w f).timeFs = s.timeFs := rfl
@[simp] theorem modWave_agenda (w : Nat) (f : Wave → Wave) : (s.modWave w f).agenda = s.agenda := rfl
@[simp] theorem modWave_cur (w : Nat) (f : Wave → Wave) : (s.modWave w f).cur = s.cur := rfl
@[simp] theorem modWave_stamp (w : Nat) (f : Wave → Wave) : (s.modWave w f).stamp = s.stamp := rfl
@[simp] theorem modWave_free (w : Nat) (f : Wave → Wave) : (s.modWave w f).free = s.free := rfl
@[simp] theorem modWave_hostRd (w : Nat) (f : Wave → Wave) : (s.modWave w f).hostRd = s.hostRd := rfl

@[simp] theorem mapWaves_waves (f : Nat → Wave → Wave) : (s.mapWaves f).waves = s.waves.map fun p => (p.1, f p.1 p.2) := rfl
@[simp] theorem mapWaves_co (f : Nat → Wave → Wave) : (s.mapWaves f).co = s.co := rfl
@[simp] theorem mapWaves_m (f : Nat → Wave → Wave) : (s.mapWaves f).m = s.m := rfl
@[simp] theorem mapWaves_wk (f : Nat → Wave → Wave) : (s.mapWaves f).wk = s.wk := rfl
@[simp] theorem mapWaves_pk (f : Nat → Wave → Wave) : (s.mapWaves f).pk = s.pk := rfl
@[simp] theorem mapWaves_clock (f : Nat → Wave → Wave) : (s.mapWaves f).clock = s.clock := rfl
@[simp] theorem mapWaves_timeFs (f : Nat → Wave → Wave) : (s.mapWaves f).timeFs = s.timeFs := rfl
@[simp] theorem mapWaves_agenda (f : Nat → Wave → Wave) : (s.mapWaves f).agenda = s.agenda := rfl
@[simp] theorem mapWaves_cur (f : Nat → Wave → Wave) : (s.mapWaves f).cur = s.cur := rfl
@[simp] theorem mapWaves_stamp (f : Nat → Wave → Wave) : (s.mapWaves f).stamp = s.stamp := rfl
@[simp] theorem mapWaves_free (f : Nat → Wave → Wave) : (s.mapWaves f).free = s.free := rfl
@[simp] theorem mapWaves_hostRd (f : Nat → Wave → Wave) : (s.mapWaves f).hostRd = s.hostRd := rfl

@[simp] theorem vwrite_waves (w : Nat) (x : Wave) (n lane : Nat) (v : Word) (bad : Nat) : (s.vwrite w x n lane v bad).waves = s.waves := rfl
@[simp] theorem vwrite_m (w : Nat) (x : Wave) (n lane : Nat) (v : Word) (bad : Nat) : (s.vwrite w x n lane v bad).m = s.m := rfl
@[simp] theorem vwrite_wk (w : Nat) (x : Wave) (n lane : Nat) (v : Word) (bad : Nat) : (s.vwrite w x n lane v bad).wk = s.wk := rfl
@[simp] theorem vwrite_pk (w : Nat) (x : Wave) (n lane : Nat) (v : Word) (bad : Nat) : (s.vwrite w x n lane v bad).pk = s.pk := rfl
@[simp] theorem vwrite_clock (w : Nat) (x : Wave) (n lane : Nat) (v : Word) (bad : Nat) : (s.vwrite w x n lane v bad).clock = s.clock := rfl
@[simp] theorem vwrite_timeFs (w : Nat) (x : Wave) (n lane : Nat) (v : Word) (bad : Nat) : (s.vwrite w x n lane v bad).timeFs = s.timeFs := rfl
@[simp] theorem vwrite_agenda (w : Nat) (x : Wave) (n lane : Nat) (v : Word) (bad : Nat) : (s.vwrite w x n lane v bad).agenda = s.agenda := rfl
@[simp] theorem vwrite_cur (w : Nat) (x : Wave) (n lane : Nat) (v : Word) (bad : Nat) : (s.vwrite w x n lane v bad).cur = s.cur := rfl
@[simp] theorem vwrite_stamp (w : Nat) (x : Wave) (n lane : Nat) (v : Word) (bad : Nat) : (s.vwrite w x n lane v bad).stamp = s.stamp := rfl
@[simp] theorem vwrite_free (w : Nat) (x : Wave) (n lane : Nat) (v : Word) (bad : Nat) : (s.vwrite w x n lane v bad).free = s.free := rfl
@[simp] theorem vwrite_hostRd (w : Nat) (x : Wave) (n lane : Nat) (v : Word) (bad : Nat) : (s.vwrite w x n lane v bad).hostRd = s.hostRd := rfl

@[simp] theorem rowIssued_waves (w : Nat) : (s.rowIssued w).waves = s.waves := rfl
@[simp] theorem rowIssued_m (w : Nat) : (s.rowIssued w).m = s.m := rfl
@[simp] theorem rowIssued_wk (w : Nat) : (s.rowIssued w).wk = s.wk := rfl
@[simp] theorem rowIssued_pk (w : Nat) : (s.rowIssued w).pk = s.pk := rfl
@[simp] theorem rowIssued_clock (w : Nat) : (s.rowIssued w).clock = s.clock := rfl
@[simp] theorem rowIssued_timeFs (w : Nat) : (s.rowIssued w).timeFs = s.timeFs := rfl
@[simp] theorem rowIssued_agenda (w : Nat) : (s.rowIssued w).agenda = s.agenda := rfl
@[simp] theorem rowIssued_cur (w : Nat) : (s.rowIssued w).cur = s.cur := rfl
@[simp] theorem rowIssued_stamp (w : Nat) : (s.rowIssued w).stamp = s.stamp := rfl
@[simp] theorem rowIssued_free (w : Nat) : (s.rowIssued w).free = s.free := rfl
@[simp] theorem rowIssued_hostRd (w : Nat) : (s.rowIssued w).hostRd = s.hostRd := rfl

@[simp] theorem spPut_waves (k : Nat) (b : Byte) : (s.spPut k b).waves = s.waves := rfl
@[simp] theorem spPut_co (k : Nat) (b : Byte) : (s.spPut k b).co = { s.co with sp := cput s.co.sp k 0#8 b } := rfl
@[simp] theorem spPut_m (k : Nat) (b : Byte) : (s.spPut k b).m = s.m := rfl
@[simp] theorem spPut_wk (k : Nat) (b : Byte) : (s.spPut k b).wk = s.wk := rfl
@[simp] theorem spPut_pk (k : Nat) (b : Byte) : (s.spPut k b).pk = s.pk := rfl
@[simp] theorem spPut_clock (k : Nat) (b : Byte) : (s.spPut k b).clock = s.clock := rfl
@[simp] theorem spPut_timeFs (k : Nat) (b : Byte) : (s.spPut k b).timeFs = s.timeFs := rfl
@[simp] theorem spPut_agenda (k : Nat) (b : Byte) : (s.spPut k b).agenda = s.agenda := rfl
@[simp] theorem spPut_cur (k : Nat) (b : Byte) : (s.spPut k b).cur = s.cur := rfl
@[simp] theorem spPut_stamp (k : Nat) (b : Byte) : (s.spPut k b).stamp = s.stamp := rfl
@[simp] theorem spPut_free (k : Nat) (b : Byte) : (s.spPut k b).free = s.free := rfl
@[simp] theorem spPut_hostRd (k : Nat) (b : Byte) : (s.spPut k b).hostRd = s.hostRd := rfl

@[simp] theorem putBar_waves (key : Nat) (b : Bar) : (s.putBar key b).waves = s.waves := rfl
@[simp] theorem putBar_co (key : Nat) (b : Bar) : (s.putBar key b).co = { s.co with bars := mput s.co.bars key b } := rfl
@[simp] theorem putBar_m (key : Nat) (b : Bar) : (s.putBar key b).m = s.m := rfl
@[simp] theorem putBar_wk (key : Nat) (b : Bar) : (s.putBar key b).wk = s.wk := rfl
@[simp] theorem putBar_pk (key : Nat) (b : Bar) : (s.putBar key b).pk = s.pk := rfl
@[simp] theorem putBar_clock (key : Nat) (b : Bar) : (s.putBar key b).clock = s.clock := rfl
@[simp] theorem putBar_timeFs (key : Nat) (b : Bar) : (s.putBar key b).timeFs = s.timeFs := rfl
@[simp] theorem putBar_agenda (key : Nat) (b : Bar) : (s.putBar key b).agenda = s.agenda := rfl
@[simp] theorem putBar_cur (key : Nat) (b : Bar) : (s.putBar key b).cur = s.cur := rfl
@[simp] theorem putBar_stamp (key : Nat) (b : Bar) : (s.putBar key b).stamp = s.stamp := rfl
@[simp] theorem putBar_free (key : Nat) (b : Bar) : (s.putBar key b).free = s.free := rfl
@[simp] theorem putBar_hostRd (key : Nat) (b : Bar) : (s.putBar key b).hostRd = s.hostRd := rfl

@[simp] theorem setSem_m (key v : Nat) : (s.setSem key v).m = s.m := rfl
@[simp] theorem setSem_wk (key v : Nat) : (s.setSem key v).wk = s.wk := rfl
@[simp] theorem setSem_pk (key v : Nat) : (s.setSem key v).pk = s.pk := rfl
@[simp] theorem setSem_clock (key v : Nat) : (s.setSem key v).clock = s.clock := rfl
@[simp] theorem setSem_timeFs (key v : Nat) : (s.setSem key v).timeFs = s.timeFs := rfl
@[simp] theorem setSem_agenda (key v : Nat) : (s.setSem key v).agenda = s.agenda := rfl
@[simp] theorem setSem_cur (key v : Nat) : (s.setSem key v).cur = s.cur := rfl
@[simp] theorem setSem_stamp (key v : Nat) : (s.setSem key v).stamp = s.stamp := rfl
@[simp] theorem setSem_free (key v : Nat) : (s.setSem key v).free = s.free := rfl
@[simp] theorem setSem_hostRd (key v : Nat) : (s.setSem key v).hostRd = s.hostRd := rfl

@[simp] theorem putRing_waves (blk core : Nat) (r : Ring) : (s.putRing blk core r).waves = s.waves := rfl
@[simp] theorem putRing_m (blk core : Nat) (r : Ring) : (s.putRing blk core r).m = s.m := rfl
@[simp] theorem putRing_wk (blk core : Nat) (r : Ring) : (s.putRing blk core r).wk = s.wk := rfl
@[simp] theorem putRing_pk (blk core : Nat) (r : Ring) : (s.putRing blk core r).pk = s.pk := rfl
@[simp] theorem putRing_clock (blk core : Nat) (r : Ring) : (s.putRing blk core r).clock = s.clock := rfl
@[simp] theorem putRing_timeFs (blk core : Nat) (r : Ring) : (s.putRing blk core r).timeFs = s.timeFs := rfl
@[simp] theorem putRing_agenda (blk core : Nat) (r : Ring) : (s.putRing blk core r).agenda = s.agenda := rfl
@[simp] theorem putRing_cur (blk core : Nat) (r : Ring) : (s.putRing blk core r).cur = s.cur := rfl
@[simp] theorem putRing_stamp (blk core : Nat) (r : Ring) : (s.putRing blk core r).stamp = s.stamp := rfl
@[simp] theorem putRing_free (blk core : Nat) (r : Ring) : (s.putRing blk core r).free = s.free := rfl
@[simp] theorem putRing_hostRd (blk core : Nat) (r : Ring) : (s.putRing blk core r).hostRd = s.hostRd := rfl

@[simp] theorem putSup_waves (core : Nat) (u : Sup) : (s.putSup core u).waves = s.waves := rfl
@[simp] theorem putSup_co (core : Nat) (u : Sup) : (s.putSup core u).co = { s.co with sups := mput s.co.sups core u } := rfl
@[simp] theorem putSup_m (core : Nat) (u : Sup) : (s.putSup core u).m = s.m := rfl
@[simp] theorem putSup_wk (core : Nat) (u : Sup) : (s.putSup core u).wk = s.wk := rfl
@[simp] theorem putSup_pk (core : Nat) (u : Sup) : (s.putSup core u).pk = s.pk := rfl
@[simp] theorem putSup_clock (core : Nat) (u : Sup) : (s.putSup core u).clock = s.clock := rfl
@[simp] theorem putSup_timeFs (core : Nat) (u : Sup) : (s.putSup core u).timeFs = s.timeFs := rfl
@[simp] theorem putSup_agenda (core : Nat) (u : Sup) : (s.putSup core u).agenda = s.agenda := rfl
@[simp] theorem putSup_cur (core : Nat) (u : Sup) : (s.putSup core u).cur = s.cur := rfl
@[simp] theorem putSup_stamp (core : Nat) (u : Sup) : (s.putSup core u).stamp = s.stamp := rfl
@[simp] theorem putSup_free (core : Nat) (u : Sup) : (s.putSup core u).free = s.free := rfl
@[simp] theorem putSup_hostRd (core : Nat) (u : Sup) : (s.putSup core u).hostRd = s.hostRd := rfl

@[simp] theorem putQuery_waves (q : Nat) (x : Query) : (s.putQuery q x).waves = s.waves := rfl
@[simp] theorem putQuery_co (q : Nat) (x : Query) : (s.putQuery q x).co = s.co := rfl
@[simp] theorem putQuery_m (q : Nat) (x : Query) : (s.putQuery q x).m = s.m := rfl
@[simp] theorem putQuery_wk (q : Nat) (x : Query) : (s.putQuery q x).wk = { s.wk with queries := mput s.wk.queries q x } := rfl
@[simp] theorem putQuery_pk (q : Nat) (x : Query) : (s.putQuery q x).pk = s.pk := rfl
@[simp] theorem putQuery_clock (q : Nat) (x : Query) : (s.putQuery q x).clock = s.clock := rfl
@[simp] theorem putQuery_timeFs (q : Nat) (x : Query) : (s.putQuery q x).timeFs = s.timeFs := rfl
@[simp] theorem putQuery_agenda (q : Nat) (x : Query) : (s.putQuery q x).agenda = s.agenda := rfl
@[simp] theorem putQuery_cur (q : Nat) (x : Query) : (s.putQuery q x).cur = s.cur := rfl
@[simp] theorem putQuery_stamp (q : Nat) (x : Query) : (s.putQuery q x).stamp = s.stamp := rfl
@[simp] theorem putQuery_free (q : Nat) (x : Query) : (s.putQuery q x).free = s.free := rfl
@[simp] theorem putQuery_hostRd (q : Nat) (x : Query) : (s.putQuery q x).hostRd = s.hostRd := rfl

@[simp] theorem putDbg_waves (q : Nat) (d : Dbg) : (s.putDbg q d).waves = s.waves := rfl
@[simp] theorem putDbg_co (q : Nat) (d : Dbg) : (s.putDbg q d).co = s.co := rfl
@[simp] theorem putDbg_m (q : Nat) (d : Dbg) : (s.putDbg q d).m = s.m := rfl
@[simp] theorem putDbg_wk (q : Nat) (d : Dbg) : (s.putDbg q d).wk = { s.wk with dbgs := mput s.wk.dbgs q d } := rfl
@[simp] theorem putDbg_pk (q : Nat) (d : Dbg) : (s.putDbg q d).pk = s.pk := rfl
@[simp] theorem putDbg_clock (q : Nat) (d : Dbg) : (s.putDbg q d).clock = s.clock := rfl
@[simp] theorem putDbg_timeFs (q : Nat) (d : Dbg) : (s.putDbg q d).timeFs = s.timeFs := rfl
@[simp] theorem putDbg_agenda (q : Nat) (d : Dbg) : (s.putDbg q d).agenda = s.agenda := rfl
@[simp] theorem putDbg_cur (q : Nat) (d : Dbg) : (s.putDbg q d).cur = s.cur := rfl
@[simp] theorem putDbg_stamp (q : Nat) (d : Dbg) : (s.putDbg q d).stamp = s.stamp := rfl
@[simp] theorem putDbg_free (q : Nat) (d : Dbg) : (s.putDbg q d).free = s.free := rfl
@[simp] theorem putDbg_hostRd (q : Nat) (d : Dbg) : (s.putDbg q d).hostRd = s.hostRd := rfl

@[simp] theorem putGridRec_waves (g : Nat) (x : Grid) : (s.putGrid' g x).waves = s.waves := rfl
@[simp] theorem putGridRec_co (g : Nat) (x : Grid) : (s.putGrid' g x).co = s.co := rfl
@[simp] theorem putGridRec_m (g : Nat) (x : Grid) : (s.putGrid' g x).m = s.m := rfl
@[simp] theorem putGridRec_wk (g : Nat) (x : Grid) : (s.putGrid' g x).wk = { s.wk with grids := mput s.wk.grids g x } := rfl
@[simp] theorem putGridRec_pk (g : Nat) (x : Grid) : (s.putGrid' g x).pk = s.pk := rfl
@[simp] theorem putGridRec_clock (g : Nat) (x : Grid) : (s.putGrid' g x).clock = s.clock := rfl
@[simp] theorem putGridRec_timeFs (g : Nat) (x : Grid) : (s.putGrid' g x).timeFs = s.timeFs := rfl
@[simp] theorem putGridRec_agenda (g : Nat) (x : Grid) : (s.putGrid' g x).agenda = s.agenda := rfl
@[simp] theorem putGridRec_cur (g : Nat) (x : Grid) : (s.putGrid' g x).cur = s.cur := rfl
@[simp] theorem putGridRec_stamp (g : Nat) (x : Grid) : (s.putGrid' g x).stamp = s.stamp := rfl
@[simp] theorem putGridRec_free (g : Nat) (x : Grid) : (s.putGrid' g x).free = s.free := rfl
@[simp] theorem putGridRec_hostRd (g : Nat) (x : Grid) : (s.putGrid' g x).hostRd = s.hostRd := rfl

@[simp] theorem putGrid_waves (g : Nat) (h : HGrid) : (s.putGrid g h).waves = s.waves := rfl
@[simp] theorem putGrid_co (g : Nat) (h : HGrid) : (s.putGrid g h).co = s.co := rfl
@[simp] theorem putGrid_m (g : Nat) (h : HGrid) : (s.putGrid g h).m = s.m := rfl
@[simp] theorem putGrid_wk (g : Nat) (h : HGrid) : (s.putGrid g h).wk = { s.wk with hgrids := mput s.wk.hgrids g h } := rfl
@[simp] theorem putGrid_pk (g : Nat) (h : HGrid) : (s.putGrid g h).pk = s.pk := rfl
@[simp] theorem putGrid_clock (g : Nat) (h : HGrid) : (s.putGrid g h).clock = s.clock := rfl
@[simp] theorem putGrid_timeFs (g : Nat) (h : HGrid) : (s.putGrid g h).timeFs = s.timeFs := rfl
@[simp] theorem putGrid_agenda (g : Nat) (h : HGrid) : (s.putGrid g h).agenda = s.agenda := rfl
@[simp] theorem putGrid_cur (g : Nat) (h : HGrid) : (s.putGrid g h).cur = s.cur := rfl
@[simp] theorem putGrid_stamp (g : Nat) (h : HGrid) : (s.putGrid g h).stamp = s.stamp := rfl
@[simp] theorem putGrid_free (g : Nat) (h : HGrid) : (s.putGrid g h).free = s.free := rfl
@[simp] theorem putGrid_hostRd (g : Nat) (h : HGrid) : (s.putGrid g h).hostRd = s.hostRd := rfl

@[simp] theorem modGrid_waves (g : Nat) (f : HGrid → HGrid) : (s.modGrid g f).waves = s.waves := rfl
@[simp] theorem modGrid_co (g : Nat) (f : HGrid → HGrid) : (s.modGrid g f).co = s.co := rfl
@[simp] theorem modGrid_m (g : Nat) (f : HGrid → HGrid) : (s.modGrid g f).m = s.m := rfl
@[simp] theorem modGrid_wk (g : Nat) (f : HGrid → HGrid) : (s.modGrid g f).wk = { s.wk with hgrids := mmod s.wk.hgrids g f } := rfl
@[simp] theorem modGrid_pk (g : Nat) (f : HGrid → HGrid) : (s.modGrid g f).pk = s.pk := rfl
@[simp] theorem modGrid_clock (g : Nat) (f : HGrid → HGrid) : (s.modGrid g f).clock = s.clock := rfl
@[simp] theorem modGrid_timeFs (g : Nat) (f : HGrid → HGrid) : (s.modGrid g f).timeFs = s.timeFs := rfl
@[simp] theorem modGrid_agenda (g : Nat) (f : HGrid → HGrid) : (s.modGrid g f).agenda = s.agenda := rfl
@[simp] theorem modGrid_cur (g : Nat) (f : HGrid → HGrid) : (s.modGrid g f).cur = s.cur := rfl
@[simp] theorem modGrid_stamp (g : Nat) (f : HGrid → HGrid) : (s.modGrid g f).stamp = s.stamp := rfl
@[simp] theorem modGrid_free (g : Nat) (f : HGrid → HGrid) : (s.modGrid g f).free = s.free := rfl
@[simp] theorem modGrid_hostRd (g : Nat) (f : HGrid → HGrid) : (s.modGrid g f).hostRd = s.hostRd := rfl

@[simp] theorem modHq_waves (q : Nat) (f : HostQ → HostQ) : (s.modHq q f).waves = s.waves := rfl
@[simp] theorem modHq_co (q : Nat) (f : HostQ → HostQ) : (s.modHq q f).co = s.co := rfl
@[simp] theorem modHq_m (q : Nat) (f : HostQ → HostQ) : (s.modHq q f).m = s.m := rfl
@[simp] theorem modHq_wk (q : Nat) (f : HostQ → HostQ) : (s.modHq q f).wk = { s.wk with hqs := mmod s.wk.hqs q f } := rfl
@[simp] theorem modHq_pk (q : Nat) (f : HostQ → HostQ) : (s.modHq q f).pk = s.pk := rfl
@[simp] theorem modHq_clock (q : Nat) (f : HostQ → HostQ) : (s.modHq q f).clock = s.clock := rfl
@[simp] theorem modHq_timeFs (q : Nat) (f : HostQ → HostQ) : (s.modHq q f).timeFs = s.timeFs := rfl
@[simp] theorem modHq_agenda (q : Nat) (f : HostQ → HostQ) : (s.modHq q f).agenda = s.agenda := rfl
@[simp] theorem modHq_cur (q : Nat) (f : HostQ → HostQ) : (s.modHq q f).cur = s.cur := rfl
@[simp] theorem modHq_stamp (q : Nat) (f : HostQ → HostQ) : (s.modHq q f).stamp = s.stamp := rfl
@[simp] theorem modHq_free (q : Nat) (f : HostQ → HostQ) : (s.modHq q f).free = s.free := rfl
@[simp] theorem modHq_hostRd (q : Nat) (f : HostQ → HostQ) : (s.modHq q f).hostRd = s.hostRd := rfl

@[simp] theorem putBind_waves (key : Nat) (b : Bind) : (s.putBind key b).waves = s.waves := rfl
@[simp] theorem putBind_co (key : Nat) (b : Bind) : (s.putBind key b).co = s.co := rfl
@[simp] theorem putBind_m (key : Nat) (b : Bind) : (s.putBind key b).m = s.m := rfl
@[simp] theorem putBind_wk (key : Nat) (b : Bind) : (s.putBind key b).wk = { s.wk with binds := mput s.wk.binds key b } := rfl
@[simp] theorem putBind_pk (key : Nat) (b : Bind) : (s.putBind key b).pk = s.pk := rfl
@[simp] theorem putBind_clock (key : Nat) (b : Bind) : (s.putBind key b).clock = s.clock := rfl
@[simp] theorem putBind_timeFs (key : Nat) (b : Bind) : (s.putBind key b).timeFs = s.timeFs := rfl
@[simp] theorem putBind_agenda (key : Nat) (b : Bind) : (s.putBind key b).agenda = s.agenda := rfl
@[simp] theorem putBind_cur (key : Nat) (b : Bind) : (s.putBind key b).cur = s.cur := rfl
@[simp] theorem putBind_stamp (key : Nat) (b : Bind) : (s.putBind key b).stamp = s.stamp := rfl
@[simp] theorem putBind_free (key : Nat) (b : Bind) : (s.putBind key b).free = s.free := rfl
@[simp] theorem putBind_hostRd (key : Nat) (b : Bind) : (s.putBind key b).hostRd = s.hostRd := rfl

@[simp] theorem modBind_waves (key : Nat) (f : Bind → Bind) : (s.modBind key f).waves = s.waves := rfl
@[simp] theorem modBind_co (key : Nat) (f : Bind → Bind) : (s.modBind key f).co = s.co := rfl
@[simp] theorem modBind_m (key : Nat) (f : Bind → Bind) : (s.modBind key f).m = s.m := rfl
@[simp] theorem modBind_wk (key : Nat) (f : Bind → Bind) : (s.modBind key f).wk = { s.wk with binds := mmod s.wk.binds key f } := rfl
@[simp] theorem modBind_pk (key : Nat) (f : Bind → Bind) : (s.modBind key f).pk = s.pk := rfl
@[simp] theorem modBind_clock (key : Nat) (f : Bind → Bind) : (s.modBind key f).clock = s.clock := rfl
@[simp] theorem modBind_timeFs (key : Nat) (f : Bind → Bind) : (s.modBind key f).timeFs = s.timeFs := rfl
@[simp] theorem modBind_agenda (key : Nat) (f : Bind → Bind) : (s.modBind key f).agenda = s.agenda := rfl
@[simp] theorem modBind_cur (key : Nat) (f : Bind → Bind) : (s.modBind key f).cur = s.cur := rfl
@[simp] theorem modBind_stamp (key : Nat) (f : Bind → Bind) : (s.modBind key f).stamp = s.stamp := rfl
@[simp] theorem modBind_free (key : Nat) (f : Bind → Bind) : (s.modBind key f).free = s.free := rfl
@[simp] theorem modBind_hostRd (key : Nat) (f : Bind → Bind) : (s.modBind key f).hostRd = s.hostRd := rfl

@[simp] theorem putCtx_waves (n : Nat) (c : Ctx) : (s.putCtx n c).waves = s.waves := rfl
@[simp] theorem putCtx_co (n : Nat) (c : Ctx) : (s.putCtx n c).co = s.co := rfl
@[simp] theorem putCtx_m (n : Nat) (c : Ctx) : (s.putCtx n c).m = s.m := rfl
@[simp] theorem putCtx_wk (n : Nat) (c : Ctx) : (s.putCtx n c).wk = { s.wk with ctxs := mput s.wk.ctxs n c } := rfl
@[simp] theorem putCtx_pk (n : Nat) (c : Ctx) : (s.putCtx n c).pk = s.pk := rfl
@[simp] theorem putCtx_clock (n : Nat) (c : Ctx) : (s.putCtx n c).clock = s.clock := rfl
@[simp] theorem putCtx_timeFs (n : Nat) (c : Ctx) : (s.putCtx n c).timeFs = s.timeFs := rfl
@[simp] theorem putCtx_agenda (n : Nat) (c : Ctx) : (s.putCtx n c).agenda = s.agenda := rfl
@[simp] theorem putCtx_cur (n : Nat) (c : Ctx) : (s.putCtx n c).cur = s.cur := rfl
@[simp] theorem putCtx_stamp (n : Nat) (c : Ctx) : (s.putCtx n c).stamp = s.stamp := rfl
@[simp] theorem putCtx_free (n : Nat) (c : Ctx) : (s.putCtx n c).free = s.free := rfl
@[simp] theorem putCtx_hostRd (n : Nat) (c : Ctx) : (s.putCtx n c).hostRd = s.hostRd := rfl

@[simp] theorem putTq_waves (q : Nat) (t : TQ) : (s.putTq q t).waves = s.waves := rfl
@[simp] theorem putTq_co (q : Nat) (t : TQ) : (s.putTq q t).co = s.co := rfl
@[simp] theorem putTq_m (q : Nat) (t : TQ) : (s.putTq q t).m = s.m := rfl
@[simp] theorem putTq_wk (q : Nat) (t : TQ) : (s.putTq q t).wk = { s.wk with tqs := mput s.wk.tqs q t } := rfl
@[simp] theorem putTq_pk (q : Nat) (t : TQ) : (s.putTq q t).pk = s.pk := rfl
@[simp] theorem putTq_clock (q : Nat) (t : TQ) : (s.putTq q t).clock = s.clock := rfl
@[simp] theorem putTq_timeFs (q : Nat) (t : TQ) : (s.putTq q t).timeFs = s.timeFs := rfl
@[simp] theorem putTq_agenda (q : Nat) (t : TQ) : (s.putTq q t).agenda = s.agenda := rfl
@[simp] theorem putTq_cur (q : Nat) (t : TQ) : (s.putTq q t).cur = s.cur := rfl
@[simp] theorem putTq_stamp (q : Nat) (t : TQ) : (s.putTq q t).stamp = s.stamp := rfl
@[simp] theorem putTq_free (q : Nat) (t : TQ) : (s.putTq q t).free = s.free := rfl
@[simp] theorem putTq_hostRd (q : Nat) (t : TQ) : (s.putTq q t).hostRd = s.hostRd := rfl

@[simp] theorem putBin_waves (b : Nat) (n : NBin) : (s.putBin b n).waves = s.waves := rfl
@[simp] theorem putBin_co (b : Nat) (n : NBin) : (s.putBin b n).co = s.co := rfl
@[simp] theorem putBin_m (b : Nat) (n : NBin) : (s.putBin b n).m = s.m := rfl
@[simp] theorem putBin_wk (b : Nat) (n : NBin) : (s.putBin b n).wk = { s.wk with nbins := mput s.wk.nbins b n } := rfl
@[simp] theorem putBin_pk (b : Nat) (n : NBin) : (s.putBin b n).pk = s.pk := rfl
@[simp] theorem putBin_clock (b : Nat) (n : NBin) : (s.putBin b n).clock = s.clock := rfl
@[simp] theorem putBin_timeFs (b : Nat) (n : NBin) : (s.putBin b n).timeFs = s.timeFs := rfl
@[simp] theorem putBin_agenda (b : Nat) (n : NBin) : (s.putBin b n).agenda = s.agenda := rfl
@[simp] theorem putBin_cur (b : Nat) (n : NBin) : (s.putBin b n).cur = s.cur := rfl
@[simp] theorem putBin_stamp (b : Nat) (n : NBin) : (s.putBin b n).stamp = s.stamp := rfl
@[simp] theorem putBin_free (b : Nat) (n : NBin) : (s.putBin b n).free = s.free := rfl
@[simp] theorem putBin_hostRd (b : Nat) (n : NBin) : (s.putBin b n).hostRd = s.hostRd := rfl

@[simp] theorem message_waves : (s.message).waves = s.waves := rfl
@[simp] theorem message_co : (s.message).co = s.co := rfl
@[simp] theorem message_m : (s.message).m = s.m := rfl
@[simp] theorem message_wk : (s.message).wk = s.wk := rfl
@[simp] theorem message_pk : (s.message).pk = { s.pk with msix := s.pk.msix ++ [0] } := rfl
@[simp] theorem message_clock : (s.message).clock = s.clock := rfl
@[simp] theorem message_timeFs : (s.message).timeFs = s.timeFs := rfl
@[simp] theorem message_agenda : (s.message).agenda = s.agenda := rfl
@[simp] theorem message_cur : (s.message).cur = s.cur := rfl
@[simp] theorem message_stamp : (s.message).stamp = s.stamp := rfl
@[simp] theorem message_free : (s.message).free = s.free := rfl
@[simp] theorem message_hostRd : (s.message).hostRd = s.hostRd := rfl

@[simp] theorem svc_waves (n : Nat) : (s.svc n).waves = s.waves := rfl
@[simp] theorem svc_co (n : Nat) : (s.svc n).co = s.co := rfl
@[simp] theorem svc_m (n : Nat) : (s.svc n).m = s.m := rfl
@[simp] theorem svc_wk (n : Nat) : (s.svc n).wk = s.wk := rfl
@[simp] theorem svc_pk (n : Nat) : (s.svc n).pk = { s.pk with svc := n } := rfl
@[simp] theorem svc_clock (n : Nat) : (s.svc n).clock = s.clock := rfl
@[simp] theorem svc_timeFs (n : Nat) : (s.svc n).timeFs = s.timeFs := rfl
@[simp] theorem svc_agenda (n : Nat) : (s.svc n).agenda = s.agenda := rfl
@[simp] theorem svc_cur (n : Nat) : (s.svc n).cur = s.cur := rfl
@[simp] theorem svc_stamp (n : Nat) : (s.svc n).stamp = s.stamp := rfl
@[simp] theorem svc_free (n : Nat) : (s.svc n).free = s.free := rfl
@[simp] theorem svc_hostRd (n : Nat) : (s.svc n).hostRd = s.hostRd := rfl

@[simp] theorem modTwin_waves (f : Twin → Twin) : (s.modTwin f).waves = s.waves := rfl
@[simp] theorem modTwin_co (f : Twin → Twin) : (s.modTwin f).co = s.co := rfl
@[simp] theorem modTwin_m (f : Twin → Twin) : (s.modTwin f).m = s.m := rfl
@[simp] theorem modTwin_wk (f : Twin → Twin) : (s.modTwin f).wk = s.wk := rfl
@[simp] theorem modTwin_pk (f : Twin → Twin) : (s.modTwin f).pk = { s.pk with twin := f s.pk.twin } := rfl
@[simp] theorem modTwin_clock (f : Twin → Twin) : (s.modTwin f).clock = s.clock := rfl
@[simp] theorem modTwin_timeFs (f : Twin → Twin) : (s.modTwin f).timeFs = s.timeFs := rfl
@[simp] theorem modTwin_agenda (f : Twin → Twin) : (s.modTwin f).agenda = s.agenda := rfl
@[simp] theorem modTwin_cur (f : Twin → Twin) : (s.modTwin f).cur = s.cur := rfl
@[simp] theorem modTwin_stamp (f : Twin → Twin) : (s.modTwin f).stamp = s.stamp := rfl
@[simp] theorem modTwin_free (f : Twin → Twin) : (s.modTwin f).free = s.free := rfl
@[simp] theorem modTwin_hostRd (f : Twin → Twin) : (s.modTwin f).hostRd = s.hostRd := rfl

@[simp] theorem mapMem_waves (f : Mem → Mem) : (s.mapMem f).waves = s.waves := rfl
@[simp] theorem mapMem_co (f : Mem → Mem) : (s.mapMem f).co = s.co := rfl
@[simp] theorem mapMem_m (f : Mem → Mem) : (s.mapMem f).m = f s.m := rfl
@[simp] theorem mapMem_wk (f : Mem → Mem) : (s.mapMem f).wk = s.wk := rfl
@[simp] theorem mapMem_pk (f : Mem → Mem) : (s.mapMem f).pk = s.pk := rfl
@[simp] theorem mapMem_clock (f : Mem → Mem) : (s.mapMem f).clock = s.clock := rfl
@[simp] theorem mapMem_timeFs (f : Mem → Mem) : (s.mapMem f).timeFs = s.timeFs := rfl
@[simp] theorem mapMem_agenda (f : Mem → Mem) : (s.mapMem f).agenda = s.agenda := rfl
@[simp] theorem mapMem_cur (f : Mem → Mem) : (s.mapMem f).cur = s.cur := rfl
@[simp] theorem mapMem_stamp (f : Mem → Mem) : (s.mapMem f).stamp = s.stamp := rfl
@[simp] theorem mapMem_free (f : Mem → Mem) : (s.mapMem f).free = s.free := rfl
@[simp] theorem mapMem_hostRd (f : Mem → Mem) : (s.mapMem f).hostRd = s.hostRd := rfl

@[simp] theorem modHart_waves (core : Nat) (f : Hart → Hart) : (s.modHart core f).waves = s.waves := rfl
@[simp] theorem modHart_m (core : Nat) (f : Hart → Hart) : (s.modHart core f).m = s.m := rfl
@[simp] theorem modHart_wk (core : Nat) (f : Hart → Hart) : (s.modHart core f).wk = s.wk := rfl
@[simp] theorem modHart_pk (core : Nat) (f : Hart → Hart) : (s.modHart core f).pk = s.pk := rfl
@[simp] theorem modHart_clock (core : Nat) (f : Hart → Hart) : (s.modHart core f).clock = s.clock := rfl
@[simp] theorem modHart_timeFs (core : Nat) (f : Hart → Hart) : (s.modHart core f).timeFs = s.timeFs := rfl
@[simp] theorem modHart_agenda (core : Nat) (f : Hart → Hart) : (s.modHart core f).agenda = s.agenda := rfl
@[simp] theorem modHart_cur (core : Nat) (f : Hart → Hart) : (s.modHart core f).cur = s.cur := rfl
@[simp] theorem modHart_stamp (core : Nat) (f : Hart → Hart) : (s.modHart core f).stamp = s.stamp := rfl
@[simp] theorem modHart_free (core : Nat) (f : Hart → Hart) : (s.modHart core f).free = s.free := rfl
@[simp] theorem modHart_hostRd (core : Nat) (f : Hart → Hart) : (s.modHart core f).hostRd = s.hostRd := rfl

@[simp] theorem dropFetched_waves (gone : Nat → ILine → Nat → Bool) : (s.dropFetched gone).waves = s.waves := rfl
@[simp] theorem dropFetched_m (gone : Nat → ILine → Nat → Bool) : (s.dropFetched gone).m = s.m := rfl
@[simp] theorem dropFetched_wk (gone : Nat → ILine → Nat → Bool) : (s.dropFetched gone).wk = s.wk := rfl
@[simp] theorem dropFetched_pk (gone : Nat → ILine → Nat → Bool) : (s.dropFetched gone).pk = s.pk := rfl
@[simp] theorem dropFetched_clock (gone : Nat → ILine → Nat → Bool) : (s.dropFetched gone).clock = s.clock := rfl
@[simp] theorem dropFetched_timeFs (gone : Nat → ILine → Nat → Bool) : (s.dropFetched gone).timeFs = s.timeFs := rfl
@[simp] theorem dropFetched_agenda (gone : Nat → ILine → Nat → Bool) : (s.dropFetched gone).agenda = s.agenda := rfl
@[simp] theorem dropFetched_cur (gone : Nat → ILine → Nat → Bool) : (s.dropFetched gone).cur = s.cur := rfl
@[simp] theorem dropFetched_stamp (gone : Nat → ILine → Nat → Bool) : (s.dropFetched gone).stamp = s.stamp := rfl
@[simp] theorem dropFetched_free (gone : Nat → ILine → Nat → Bool) : (s.dropFetched gone).free = s.free := rfl
@[simp] theorem dropFetched_hostRd (gone : Nat → ILine → Nat → Bool) : (s.dropFetched gone).hostRd = s.hostRd := rfl

@[simp] theorem bump_waves : (s.bump).waves = s.waves := rfl
@[simp] theorem bump_co : (s.bump).co = s.co := rfl
@[simp] theorem bump_m : (s.bump).m = s.m := rfl
@[simp] theorem bump_wk : (s.bump).wk = s.wk := rfl
@[simp] theorem bump_pk : (s.bump).pk = s.pk := rfl
@[simp] theorem bump_clock : (s.bump).clock = s.clock := rfl
@[simp] theorem bump_timeFs : (s.bump).timeFs = s.timeFs := rfl
@[simp] theorem bump_agenda : (s.bump).agenda = s.agenda := rfl
@[simp] theorem bump_cur : (s.bump).cur = s.cur := rfl
@[simp] theorem bump_stamp : (s.bump).stamp = s.stamp := rfl
@[simp] theorem bump_free : (s.bump).free = s.free + 1 := rfl
@[simp] theorem bump_hostRd : (s.bump).hostRd = s.hostRd := rfl

end Sys2Proof.Machine
end

