-- ==== Sys2Proof/Laws/Frame.lean ====
section
/-! SUPPORT. Frame.lean: the operations on the caches that change nothing but the levels of memory: no wave, no register, no unit. -/

namespace Sys2Proof.Machine

/-- Nothing but the levels of memory differs. -/
abbrev onlyMem (s t : State) : Prop := ∃ m, t = { s with m := m }

theorem onlyMem_refl (s : State) : onlyMem s s := ⟨s.m, rfl⟩

theorem onlyMem_trans {s t u : State} (h : onlyMem s t) (h' : onlyMem t u) : onlyMem s u := by
  obtain ⟨m, rfl⟩ := h
  obtain ⟨m', rfl⟩ := h'
  exact ⟨m', rfl⟩

theorem onlyMem_mapMem (s : State) (f : Mem → Mem) : onlyMem s (s.mapMem f) := ⟨_, rfl⟩

theorem onlyMem_fold {α : Type} (f : State → α → State) (hf : ∀ s a, onlyMem s (f s a)) (l : List α) (s : State) : onlyMem s (l.foldl f s) := by
  induction l generalizing s with
  | nil => exact onlyMem_refl s
  | cons a l ih => exact onlyMem_trans (hf s a) (ih _)

theorem toL2_only (s : State) (core : Nat) (bs : List (Nat × Byte)) (rels : List Rel) (stamp : Option Nat) :
    onlyMem s (s.toL2 core bs rels stamp) := by
  unfold State.toL2
  split
  · exact onlyMem_refl s
  · exact onlyMem_mapMem ..

theorem writeBack_only (s : State) (core line : Nat) : onlyMem s (s.writeBack core line) := by
  unfold State.writeBack
  split
  · exact onlyMem_refl s
  · exact onlyMem_trans (toL2_only ..) (onlyMem_mapMem ..)

theorem expel_only (s : State) (core line : Nat) : onlyMem s (s.expel core line) := by
  unfold State.expel
  exact onlyMem_trans (writeBack_only s core line) (onlyMem_mapMem ..)

theorem recall_only (s : State) (line : Nat) : onlyMem s (s.recall line) := by
  unfold State.recall
  split
  · exact expel_only ..
  · exact onlyMem_refl s

theorem fill_only (s : State) (core line : Nat) : onlyMem s (s.fill core line) := by
  unfold State.fill
  split
  · split <;> exact onlyMem_refl s
  · dsimp only
    split
    · exact onlyMem_refl s
    · exact onlyMem_mapMem ..

theorem fetchBack_only (s : State) (core line : Nat) : onlyMem s (s.fetchBack core line) := by
  unfold State.fetchBack
  split
  · split
    · exact onlyMem_refl s
    · exact writeBack_only ..
  · exact onlyMem_refl s

theorem prepareRead_only (s : State) (core : Nat) (wide : Bool) (l : Loc) : onlyMem s (s.prepareRead core wide l) := by
  unfold State.prepareRead
  split
  · split
    · exact fetchBack_only ..
    · exact fill_only ..
  · exact onlyMem_refl s

theorem writeBackAll_only (s : State) (core : Nat) (p : L1Line → Bool) : onlyMem s (s.writeBackAll core p) := by
  unfold State.writeBackAll
  refine onlyMem_fold _ (fun s line => ?_) _ s
  split
  · split
    · exact writeBack_only ..
    · exact onlyMem_refl s
  · exact onlyMem_refl s

theorem pushDown_only (s : State) (scope : Nat) (p : Nat → Bool) : onlyMem s (s.pushDown scope p) := by
  unfold State.pushDown
  split
  · exact onlyMem_mapMem ..
  · exact onlyMem_refl s

theorem acknowledge_only (s : State) (die core line : Nat) : onlyMem s (s.acknowledge die core line) :=
  onlyMem_trans (onlyMem_trans (writeBackAll_only s core _) (onlyMem_mapMem ..)) (onlyMem_mapMem ..)

theorem drainEntry_only (s : State) (die line but : Nat) : onlyMem s (s.drainEntry die line but) :=
  onlyMem_fold _ (fun s d => acknowledge_only s die d line) _ s

theorem drainAll_only (s : State) (core : Nat) : onlyMem s (s.drainAll core) :=
  onlyMem_fold _ (fun s (e : Nat × Nat) => drainEntry_only s (dieOf core) e.1 unitAgent) _ s

theorem record_only (s : State) (core line : Nat) : onlyMem s (s.record core line) := by
  unfold State.record
  refine onlyMem_trans ?_ (onlyMem_trans (onlyMem_mapMem ..) (onlyMem_mapMem ..))
  split
  · exact drainEntry_only ..
  · exact onlyMem_refl s

theorem releaseEager_only (s : State) (core scope : Nat) : onlyMem s (s.releaseEager core scope) := by
  unfold State.releaseEager
  split
  · exact onlyMem_refl s
  · exact onlyMem_trans (writeBackAll_only ..) (pushDown_only ..)

theorem acquireAt_only (s : State) (core scope : Nat) (ids : List Nat) : onlyMem s (s.acquireAt core scope ids) := by
  unfold State.acquireAt
  split
  · exact onlyMem_refl s
  · exact onlyMem_trans (onlyMem_mapMem ..) (onlyMem_mapMem ..)

theorem fenceAcq_only (s : State) (core scope : Nat) (heard : List Rel) : onlyMem s (s.fenceAcq core scope heard) := by
  unfold State.fenceAcq
  split
  · exact onlyMem_refl s
  · exact onlyMem_trans (onlyMem_trans (drainAll_only ..) (onlyMem_mapMem ..)) (onlyMem_mapMem ..)

theorem fenceTotal_only (s : State) (core scope : Nat) : onlyMem s (s.fenceTotal core scope) := by
  unfold State.fenceTotal
  split
  · exact onlyMem_refl s
  · exact onlyMem_mapMem ..

/-- A choice between two states that differ from one in memory alone. -/
theorem onlyMem_ite {c : Prop} [Decidable c] {s t u : State} (h : onlyMem s t) (h' : onlyMem s u) : onlyMem s (if c then t else u) := by
  split
  · exact h
  · exact h'

/-- A fence, whatever its kind and scope. -/
theorem fence_only (s : State) (core kind scope : Nat) (heard : List Rel) : onlyMem s (s.fence core kind scope heard) := by
  unfold State.fence
  have h1 : onlyMem s (if kind = 1 then s else s.releaseEager core scope) := onlyMem_ite (onlyMem_refl s) (releaseEager_only ..)
  have h2 := onlyMem_trans h1 (onlyMem_ite (c := kind = 0) (fenceTotal_only _ core scope) (onlyMem_refl _))
  exact onlyMem_ite h2 (onlyMem_trans h2 (fenceAcq_only ..))

/-- A snoop of the host. -/
theorem hostSnoop_only (s : State) (line : Nat) : onlyMem s (s.hostSnoop line) := by
  unfold State.hostSnoop
  split
  · exact onlyMem_refl s
  · exact onlyMem_trans (onlyMem_fold _ (fun s c => writeBack_only s c line) _ s) (onlyMem_mapMem ..)

end Sys2Proof.Machine
end

