-- ==== Sys2Proof/Laws/Store.lean ====
section
/-! SUPPORT. Store.lean: laws of the sparse maps and of byte memory: reading back what was written, what a write leaves
alone, and that every operation keeps the canonical form. -/

namespace Sys2Proof.Machine

/-- Every key of a map is above a bound. -/
def above {α : Type} (j : Nat) (m : Map α) : Prop := ∀ p ∈ m, j < p.1

theorem mrising_cons {α : Type} (j : Nat) (x : α) (m : Map α) :
    mrising ((j, x) :: m) = true ↔ above j m ∧ mrising m = true := by
  induction m generalizing j x with
  | nil => simp [mrising, above]
  | cons p m ih =>
    obtain ⟨k, y⟩ := p
    simp only [mrising, Bool.and_eq_true, decide_eq_true_eq]
    constructor
    · rintro ⟨h, hm⟩
      refine ⟨?_, hm⟩
      intro q hq
      rcases List.mem_cons.1 hq with rfl | hq
      · exact h
      · exact Nat.lt_trans h (((ih k y).1 hm).1 q hq)
    · rintro ⟨h, hm⟩
      exact ⟨h (k, y) (by simp), hm⟩

/-! ## Reads after writes -/

theorem mget_above {α : Type} {j k : Nat} {m : Map α} (h : above j m) (hk : k ≤ j) : mget m k = none := by
  induction m with
  | nil => rfl
  | cons p m ih =>
    obtain ⟨i, y⟩ := p
    have := h (i, y) (by simp)
    simp only at this
    simp only [mget]
    rw [if_neg (by omega)]
    exact ih fun q hq => h q (by simp [hq])

@[simp] theorem mget_mput_same {α : Type} (m : Map α) (k : Nat) (v : α) : mget (mput m k v) k = some v := by
  induction m with
  | nil => simp [mput, mget]
  | cons p m ih =>
    obtain ⟨j, x⟩ := p
    simp only [mput]
    split
    · simp [mget]
    · split
      · simp [mget]
      · simp only [mget]
        rw [if_neg (by omega)]
        exact ih

theorem mget_mput_other {α : Type} (m : Map α) {k l : Nat} (v : α) (h : l ≠ k) : mget (mput m k v) l = mget m l := by
  induction m with
  | nil => simp [mput, mget, Ne.symm h]
  | cons p m ih =>
    obtain ⟨j, x⟩ := p
    simp only [mput]
    split
    · simp only [mget]
      rw [if_neg (Ne.symm h)]
    · split
      · rename_i h1 h2
        subst h2
        simp only [mget]
        rw [if_neg (Ne.symm h), if_neg (Ne.symm h)]
      · simp only [mget, ih]

theorem mget_mdel_other {α : Type} (m : Map α) {k l : Nat} (h : l ≠ k) : mget (mdel m k) l = mget m l := by
  induction m with
  | nil => rfl
  | cons p m ih =>
    obtain ⟨j, x⟩ := p
    simp only [mdel]
    split
    · rename_i e
      subst e
      simp only [mget]
      rw [if_neg (Ne.symm h)]
    · simp only [mget, ih]

theorem mget_mdel_same {α : Type} {m : Map α} (hm : mrising m = true) (k : Nat) : mget (mdel m k) k = none := by
  induction m with
  | nil => rfl
  | cons p m ih =>
    obtain ⟨j, x⟩ := p
    have hc := (mrising_cons j x m).1 hm
    simp only [mdel]
    split
    · rename_i e
      subst e
      exact mget_above hc.1 (Nat.le_refl _)
    · simp only [mget]
      rw [if_neg (by assumption)]
      exact ih hc.2

/-! ## The canonical form -/

theorem above_mput {α : Type} {j k : Nat} {m : Map α} (h : above j m) (hk : j < k) (v : α) : above j (mput m k v) := by
  induction m with
  | nil => intro p hp; simp [mput] at hp; subst hp; exact hk
  | cons q m ih =>
    obtain ⟨i, x⟩ := q
    have hi := h (i, x) (by simp)
    have ht : above j m := fun p hp => h p (by simp [hp])
    intro p hp
    simp only [mput] at hp
    split at hp
    · simp only [List.mem_cons] at hp
      rcases hp with rfl | rfl | hp
      · exact hk
      · exact hi
      · exact ht p hp
    · split at hp
      · simp only [List.mem_cons] at hp
        rcases hp with rfl | hp
        · exact hk
        · exact ht p hp
      · simp only [List.mem_cons] at hp
        rcases hp with rfl | hp
        · exact hi
        · exact ih ht p hp

theorem mput_rising {α : Type} {m : Map α} (hm : mrising m = true) (k : Nat) (v : α) : mrising (mput m k v) = true := by
  induction m with
  | nil => rfl
  | cons p m ih =>
    obtain ⟨j, x⟩ := p
    have hc := (mrising_cons j x m).1 hm
    simp only [mput]
    split
    · refine (mrising_cons _ _ _).2 ⟨?_, hm⟩
      intro q hq
      rcases List.mem_cons.1 hq with rfl | hq
      · assumption
      · exact Nat.lt_trans (by assumption) (hc.1 q hq)
    · split
      · rename_i e
        subst e
        exact (mrising_cons _ _ _).2 hc
      · exact (mrising_cons _ _ _).2 ⟨above_mput hc.1 (by omega) v, ih hc.2⟩

theorem mem_mdel {α : Type} {m : Map α} {k : Nat} {p : Nat × α} (h : p ∈ mdel m k) : p ∈ m := by
  induction m with
  | nil => exact h
  | cons q m ih =>
    obtain ⟨j, x⟩ := q
    simp only [mdel] at h
    split at h
    · exact List.mem_cons_of_mem _ h
    · rcases List.mem_cons.1 h with rfl | h
      · simp
      · exact List.mem_cons_of_mem _ (ih h)

theorem mdel_rising {α : Type} {m : Map α} (hm : mrising m = true) (k : Nat) : mrising (mdel m k) = true := by
  induction m with
  | nil => rfl
  | cons p m ih =>
    obtain ⟨j, x⟩ := p
    have hc := (mrising_cons j x m).1 hm
    simp only [mdel]
    split
    · exact hc.2
    · exact (mrising_cons _ _ _).2 ⟨fun q hq => hc.1 q (mem_mdel hq), ih hc.2⟩

theorem mem_mput {α : Type} {m : Map α} {k : Nat} {v : α} {p : Nat × α} (h : p ∈ mput m k v) : p = (k, v) ∨ p ∈ m := by
  induction m with
  | nil => simpa [mput] using h
  | cons q m ih =>
    obtain ⟨j, x⟩ := q
    simp only [mput] at h
    split at h
    · rcases List.mem_cons.1 h with h | h
      · exact .inl h
      · exact .inr h
    · split at h
      · rcases List.mem_cons.1 h with h | h
        · exact .inl h
        · exact .inr (List.mem_cons_of_mem _ h)
      · rcases List.mem_cons.1 h with h | h
        · exact .inr (by simp [h])
        · exact (ih h).imp_right (List.mem_cons_of_mem _)

theorem cput_wf {α : Type} [DecidableEq α] {d : α} {m : Map α} (hm : cwf d m = true) (k : Nat) (v : α) :
    cwf d (cput m k d v) = true := by
  simp only [cwf, Bool.and_eq_true, List.all_eq_true, decide_eq_true_eq] at hm ⊢
  unfold cput
  split
  · exact ⟨mdel_rising hm.1 k, fun p hp => hm.2 p (mem_mdel hp)⟩
  · refine ⟨mput_rising hm.1 k v, fun p hp => ?_⟩
    rcases mem_mput hp with rfl | hp
    · assumption
    · exact hm.2 p hp

/-- Writing a byte of memory keeps the canonical form. -/
theorem memPut_wf {m : List Host.Cell} (hm : Memory.wf m = true) (a : Nat) (v : Byte) : Memory.wf (memPut m a v) = true :=
  cput_wf hm a v

theorem memPut_fold_wf {β : Type} (l : List β) (f : β → Nat) (g : β → Byte) {m : List Host.Cell} (hm : Memory.wf m = true) :
    Memory.wf (l.foldl (fun a p => memPut a (f p) (g p)) m) = true := by
  induction l generalizing m with
  | nil => exact hm
  | cons p l ih => exact ih (memPut_wf hm _ _)

theorem memPut_fold_if_wf {β : Type} (l : List β) (c : β → Bool) (f : β → Nat) (g : β → Byte) {m : List Host.Cell}
    (hm : Memory.wf m = true) : Memory.wf (l.foldl (fun a p => if c p then memPut a (f p) (g p) else a) m) = true := by
  induction l generalizing m with
  | nil => exact hm
  | cons p l ih =>
    simp only [List.foldl_cons]
    split
    · exact ih (memPut_wf hm _ _)
    · exact ih hm

/-- A byte of memory reads as it was last written. -/
theorem memGet_memPut_same {m : List Host.Cell} (hm : Memory.wf m = true) (a : Nat) (v : Byte) :
    memGet (memPut m a v) a = v := by
  simp only [Memory.wf, cwf, Bool.and_eq_true] at hm
  unfold memGet memPut cget cput
  split
  · rename_i h
    rw [mget_mdel_same hm.1, h]
    rfl
  · simp

/-- A write leaves every other byte of memory alone. -/
theorem memGet_memPut_other (m : List Host.Cell) {a b : Nat} (v : Byte) (h : b ≠ a) :
    memGet (memPut m a v) b = memGet m b := by
  unfold memGet memPut cget cput
  split
  · rw [mget_mdel_other _ h]
  · rw [mget_mput_other _ _ h]

theorem cget_cput_same {α : Type} [DecidableEq α] {d : α} {m : Map α} (hm : mrising m = true) (k : Nat) (v : α) :
    cget (cput m k d v) k d = v := by
  unfold cget cput
  split
  · rename_i h
    rw [mget_mdel_same hm, h]
    rfl
  · simp

theorem cget_cput_other {α : Type} [DecidableEq α] {d : α} (m : Map α) {k l : Nat} (v : α) (h : l ≠ k) :
    cget (cput m k d v) l d = cget m l d := by
  unfold cget cput
  split
  · rw [mget_mdel_other _ h]
  · rw [mget_mput_other _ _ h]

/-- An entry changed in place, read back. -/
theorem mget_mmod_same {α : Type} {m : Map α} {k : Nat} {x : α} (h : mget m k = some x) (f : α → α) :
    mget (mmod m k f) k = some (f x) := by
  unfold mmod
  rw [h]
  simp

theorem mget_mmod_other {α : Type} (m : Map α) {k l : Nat} (f : α → α) (h : l ≠ k) : mget (mmod m k f) l = mget m l := by
  unfold mmod
  split
  · exact mget_mput_other _ _ h
  · rfl

theorem mmod_none {α : Type} {m : Map α} {k : Nat} (h : mget m k = none) (f : α → α) : mmod m k f = m := by
  unfold mmod
  rw [h]

end Sys2Proof.Machine
end

