-- ==== Sys2Proof/Laws/Issue.lean ====
section
/-! SUPPORT. Issue.lean: what the issue of an instruction comes to, case by case, and what every issue and every trap leave
alone. -/

namespace Sys2Proof.Machine

/-! ## The issuer -/

/-- The wave that issues is the current one, and it runs; the instruction, its fields and its length are those given. -/
theorem issuer_spec {s : State} {i : Instr} {n : Nat} {c : Issue} (h : s.issuer i n = some c) :
    c.w = s.cur ∧ s.wave s.cur = some c.x ∧ c.x.run = .running ∧ c.i = i ∧ c.b = i.body ∧ c.span = n
      ∧ c.con = c.x.guarded s.stamp i.body c.act := by
  unfold State.issuer at h
  split at h
  · cases h
  · rename_i x hx
    split at h
    · cases h
    · rename_i hr
      have hr' : x.run = .running := by
        cases hq : x.run <;> simp_all
      split at h
      · cases h
        exact ⟨rfl, hx, hr', rfl, rfl, rfl, rfl⟩
      · split at h
        · cases h
        · cases h
          exact ⟨rfl, hx, hr', rfl, rfl, rfl, rfl⟩

/-- A wave that issues at its issue PC: the address and the active lanes of R84. -/
theorem issuer_fresh {s : State} {i : Instr} {n : Nat} {c : Issue} (h : s.issuer i n = some c) (hr : c.x.replay = none) :
    c.x.issuePc = some c.pc ∧ c.act = c.x.activeAt c.pc ∧ c.replay = false := by
  unfold State.issuer at h
  split at h
  · cases h
  · rename_i x hx
    split at h
    · cases h
    · split at h
      · rename_i e
        cases h
        simp_all
      · split at h
        · cases h
        · rename_i pc hpc
          cases h
          exact ⟨hpc, rfl, rfl⟩

/-! ## The cases of an issue -/

section
variable {i : Instr} {n : Nat} {bs : List Byte} {s : State} {eff : Issue → State → Eff} {c : Issue}

theorem issue_none (h : s.issuer i n = none) : issue i n bs s eff = .fault .noIssuer := by
  unfold issue
  rw [h]

theorem issue_checked {t : Trap} (h : s.issuer i n = some c) (hp : s.precheck c = some t) :
    issue i n bs s eff = .next (s.takeTrap c bs t) := by
  unfold issue
  simp only [h, hp]

theorem issue_off (h : s.issuer i n = some c) (hp : s.precheck c = none) (hc : c.con = 0#32) :
    issue i n bs s eff = .next (s.retire c bs { s := s }) := by
  unfold issue
  simp only [h, hp, hc, if_true]

theorem issue_go {f : Fx} (h : s.issuer i n = some c) (hp : s.precheck c = none) (hc : c.con ≠ 0#32)
    (he : eff c s = .go f) : issue i n bs s eff = .next (s.retire c bs f) := by
  unfold issue
  simp only [h, hp, hc, he, if_false]

theorem issue_trap {t : Trap} {fl : Cond} {post : State → State} (h : s.issuer i n = some c) (hp : s.precheck c = none)
    (hc : c.con ≠ 0#32) (he : eff c s = .trap t fl post) : issue i n bs s eff = .next (s.takeTrap c bs t fl post) := by
  unfold issue
  simp only [h, hp, hc, he, if_false]

theorem issue_wait (h : s.issuer i n = some c) (hp : s.precheck c = none) (hc : c.con ≠ 0#32) (he : eff c s = .wait) :
    issue i n bs s eff = .next (s.putWave c.w { c.x with next := s.clock + 1 }) := by
  unfold issue
  simp only [h, hp, hc, he, if_false]

/-- Everything an issue can do: without an issuer it faults; otherwise it takes the trap of a check, has no effect when the
guard is false in every lane, or does what its effect says. -/
theorem issue_cases {t : State} (h : issue i n bs s eff = .next t) :
    ∃ c, s.issuer i n = some c ∧
      ((∃ r, s.precheck c = some r ∧ t = s.takeTrap c bs r)
      ∨ (s.precheck c = none ∧ c.con = 0#32 ∧ t = s.retire c bs { s := s })
      ∨ (s.precheck c = none ∧ c.con ≠ 0#32 ∧ eff c s = .wait ∧ t = s.putWave c.w { c.x with next := s.clock + 1 })
      ∨ (∃ r fl post, s.precheck c = none ∧ c.con ≠ 0#32 ∧ eff c s = .trap r fl post ∧ t = s.takeTrap c bs r fl post)
      ∨ (∃ f, s.precheck c = none ∧ c.con ≠ 0#32 ∧ eff c s = .go f ∧ t = s.retire c bs f)) := by
  cases hi : s.issuer i n with
  | none => rw [issue_none hi] at h; cases h
  | some c =>
    refine ⟨c, rfl, ?_⟩
    cases hp : s.precheck c with
    | some r =>
      rw [issue_checked hi hp] at h
      injection h with h
      exact .inl ⟨r, rfl, h.symm⟩
    | none =>
      by_cases hc : c.con = 0#32
      · rw [issue_off hi hp hc] at h
        injection h with h
        exact .inr (.inl ⟨rfl, hc, h.symm⟩)
      · cases he : eff c s with
        | wait =>
          rw [issue_wait hi hp hc he] at h
          injection h with h
          exact .inr (.inr (.inl ⟨rfl, hc, rfl, h.symm⟩))
        | trap r fl post =>
          rw [issue_trap hi hp hc he] at h
          injection h with h
          exact .inr (.inr (.inr (.inl ⟨r, fl, post, rfl, hc, rfl, h.symm⟩)))
        | go f =>
          rw [issue_go hi hp hc he] at h
          injection h with h
          exact .inr (.inr (.inr (.inr ⟨f, rfl, hc, rfl, h.symm⟩)))

/-- An issue never refuses, and faults only where no wave can issue. -/
theorem issue_next_or_fault : (∃ t, issue i n bs s eff = .next t) ∨ issue i n bs s eff = .fault .noIssuer := by
  cases hi : s.issuer i n with
  | none => exact .inr (issue_none hi)
  | some c =>
    left
    cases hp : s.precheck c with
    | some r => exact ⟨_, issue_checked hi hp⟩
    | none =>
      by_cases hc : c.con = 0#32
      · exact ⟨_, issue_off hi hp hc⟩
      · cases he : eff c s with
        | wait => exact ⟨_, issue_wait hi hp hc he⟩
        | trap r fl post => exact ⟨_, issue_trap hi hp hc he⟩
        | go f => exact ⟨_, issue_go hi hp hc he⟩

end

/-! ## What an issue leaves alone -/

section
variable (s : State) (c : Issue) (bs : List Byte) (f : Fx)

@[simp] theorem retire_m : (s.retire c bs f).m = f.s.m := rfl
@[simp] theorem retire_wk : (s.retire c bs f).wk = f.s.wk := rfl
@[simp] theorem retire_pk : (s.retire c bs f).pk = f.s.pk := rfl
@[simp] theorem retire_clock : (s.retire c bs f).clock = f.s.clock := rfl
@[simp] theorem retire_timeFs : (s.retire c bs f).timeFs = f.s.timeFs := rfl
@[simp] theorem retire_agenda : (s.retire c bs f).agenda = f.s.agenda := rfl
@[simp] theorem retire_cur : (s.retire c bs f).cur = f.s.cur := rfl
@[simp] theorem retire_free : (s.retire c bs f).free = f.s.free := rfl
@[simp] theorem retire_stamp : (s.retire c bs f).stamp = s.stamp + 1 := rfl
@[simp] theorem retire_co : (s.retire c bs f).co = (f.s.rowIssued c.w).co := rfl
@[simp] theorem retire_co_rf : (s.retire c bs f).co.rf = f.s.co.rf := rfl
@[simp] theorem retire_co_sp : (s.retire c bs f).co.sp = f.s.co.sp := rfl

theorem retire_wave_other {w : Nat} (h : w ≠ c.w) : (s.retire c bs f).wave w = f.s.wave w :=
  mget_mmod_other _ _ h

end

section
variable (s : State) (w : Nat) (x : Wave) (h : Hit)

@[simp] theorem takeHit_m : (s.takeHit w x h).m = s.m := rfl
@[simp] theorem takeHit_wk : (s.takeHit w x h).wk = s.wk := rfl
@[simp] theorem takeHit_pk : (s.takeHit w x h).pk = s.pk := rfl
@[simp] theorem takeHit_co : (s.takeHit w x h).co = s.co := rfl

theorem takeHit_wave_other {v : Nat} (hv : v ≠ w) : (s.takeHit w x h).wave v = s.wave v := mget_mput_other _ _ hv

end

section
variable (s : State) (c : Issue) (bs : List Byte) (t : Trap) (fl : Cond)

/-- A trap changes no memory. -/
@[simp] theorem takeTrap_m : (s.takeTrap c bs t fl).m = s.m := by
  unfold State.takeTrap
  split
  · rfl
  · split
    · rfl
    · rfl

@[simp] theorem takeTrap_wk : (s.takeTrap c bs t fl).wk = s.wk := by
  unfold State.takeTrap
  split
  · rfl
  · split
    · rfl
    · rfl

@[simp] theorem takeTrap_pk : (s.takeTrap c bs t fl).pk = s.pk := by
  unfold State.takeTrap
  split
  · rfl
  · split
    · rfl
    · rfl

@[simp] theorem takeTrap_rf : (s.takeTrap c bs t fl).co.rf = s.co.rf := by
  unfold State.takeTrap
  split
  · rfl
  · split
    · rfl
    · rfl

@[simp] theorem takeTrap_sp : (s.takeTrap c bs t fl).co.sp = s.co.sp := by
  unfold State.takeTrap
  split
  · rfl
  · split
    · rfl
    · rfl

theorem takeTrap_wave_other {w : Nat} (h : w ≠ c.w) : (s.takeTrap c bs t fl).wave w = s.wave w := by
  unfold State.takeTrap
  split
  · exact mget_mput_other _ _ h
  · split
    · exact mget_mput_other _ _ h
    · exact mget_mput_other _ _ h

end

end Sys2Proof.Machine
end

