-- ==== Sys2Proof/Laws/Mem.lean ====
section
/-! SUPPORT. Mem.lean: what the operations of the memory levels do to the bytes of memory: none but the SLC's write-back touches
them, and that one keeps the canonical form. -/

namespace Sys2Proof.Machine

/-! ## What a core sees leaves memory alone -/

@[simp] theorem prune_mem (m : Mem) : m.prune.mem = m.mem := rfl
@[simp] theorem dropClean_mem (m : Mem) (core : Nat) (p : Nat → Bool) : (m.dropClean core p).mem = m.mem := rfl
@[simp] theorem putL1_mem (m : Mem) (core line : Nat) (x : L1Line) : (m.putL1 core line x).mem = m.mem := rfl
@[simp] theorem dropL1_mem (m : Mem) (core line : Nat) : (m.dropL1 core line).mem = m.mem := rfl
@[simp] theorem noteWrites_mem (m' m : Mem) (agent : Nat) (as : List Nat) (rels : List Rel) (stamp done : Option Nat) :
    (m'.noteWrites m agent as rels stamp done).mem = m'.mem := rfl
@[simp] theorem joinLazy_mem (m : Mem) (core id : Nat) : (m.joinLazy core id).mem = m.mem := rfl

@[simp] theorem see_mem (m : Mem) (core : Nat) (p : Late → Bool) : (m.see core p).mem = m.mem := by
  simp only [Mem.see]
  split
  · rfl
  · split <;> rfl

@[simp] theorem seeLine_mem (m : Mem) (core line : Nat) : (m.seeLine core line).mem = m.mem := see_mem ..

@[simp] theorem learn_mem (m : Mem) (core : Nat) (ids : List Nat) : (m.learn core ids).mem = m.mem := by
  simp only [Mem.learn]
  split
  · rfl
  · exact see_mem ..

@[simp] theorem hear_mem (m : Mem) (core scope : Nat) (rs : List Rel) : (m.hear core scope rs).mem = m.mem := learn_mem ..

@[simp] theorem sync_mem (m : Mem) (core scope : Nat) (es : List Late) : (m.sync core scope es).mem = m.mem := hear_mem ..

@[simp] theorem follow_mem (m : Mem) (core line : Nat) (bs : List (Nat × Byte)) : (m.follow core line bs).mem = m.mem := by
  unfold Mem.follow
  split <;> rfl

/-! ## Operations that leave the bytes of memory alone -/

@[simp] theorem unreserve_m (s : State) (line : Nat) (p : Nat → Bool) : (s.unreserve line p).m = s.m := by
  simp only [State.unreserve]
  split <;> rfl

@[simp] theorem wrote_m (s : State) (line : Nat) : (s.wrote line).m = s.m := by
  simp only [State.wrote]
  split <;> simp

@[simp] theorem disturbFrom_m (s : State) (core line : Nat) : (s.disturbFrom core line).m = s.m := by
  simp only [State.disturbFrom]
  split <;> simp

@[simp] theorem toL2_mem (s : State) (core : Nat) (bs : List (Nat × Byte)) (rels : List Rel) (stamp : Option Nat) :
    (s.toL2 core bs rels stamp).m.mem = s.m.mem := by
  unfold State.toL2
  split <;> rfl

@[simp] theorem cleanse_mem (s : State) (bs : List (Nat × Byte)) : (s.cleanse bs).m.mem = s.m.mem := by
  unfold State.cleanse
  split <;> rfl

@[simp] theorem poisonCopy_mem (s : State) (core pa : Nat) : (s.poisonCopy core pa).m.mem = s.m.mem := by
  simp only [State.poisonCopy, State.mapMem]
  split <;> rfl

@[simp] theorem writeBack_mem (s : State) (core line : Nat) : (s.writeBack core line).m.mem = s.m.mem := by
  unfold State.writeBack
  split
  · rfl
  · simp only [State.mapMem]
    split <;> split <;> simp

@[simp] theorem expel_mem (s : State) (core line : Nat) : (s.expel core line).m.mem = s.m.mem := by
  unfold State.expel
  exact writeBack_mem ..

@[simp] theorem writeBackAll_mem (s : State) (core : Nat) (p : L1Line → Bool) : (s.writeBackAll core p).m.mem = s.m.mem := by
  unfold State.writeBackAll
  generalize s.m.linesOf core = l
  induction l generalizing s with
  | nil => rfl
  | cons line l ih =>
    rw [List.foldl_cons, ih]
    split
    · split
      · exact writeBack_mem ..
      · rfl
    · rfl

@[simp] theorem recallFrom_mem (s : State) (core line : Nat) : (s.recallFrom core line).m.mem = s.m.mem := by
  unfold State.recallFrom
  split
  · split
    · rfl
    · simp
  · rfl

@[simp] theorem recall_mem (s : State) (line : Nat) : (s.recall line).m.mem = s.m.mem := by
  unfold State.recall
  split
  · simp
  · rfl

@[simp] theorem fill_mem (s : State) (core line : Nat) : (s.fill core line).m.mem = s.m.mem := by
  unfold State.fill
  split
  · split <;> rfl
  · simp only []
    split <;> rfl

theorem foldExpel_mem (s : State) (l : List Nat) (line : Nat) (p : Nat → Prop) [DecidablePred p] :
    (l.foldl (fun s d => if p d then s else s.expel d line) s).m.mem = s.m.mem := by
  induction l generalizing s with
  | nil => rfl
  | cons d l ih =>
    rw [List.foldl_cons, ih]
    split
    · rfl
    · simp

@[simp] theorem exclusive_mem (s : State) (core line : Nat) : (s.exclusive core line).m.mem = s.m.mem := by
  unfold State.exclusive
  split
  · rfl
  · have h := foldExpel_mem s (s.m.holders line) line (· = core)
    simp only [State.mapMem, putL1_mem, seeLine_mem, disturbFrom_m, recallFrom_mem, h]

@[simp] theorem storeLine_mem (s : State) (core pa : Nat) (bs : List Byte) (rels : List Rel) :
    (s.storeLine core pa bs rels).m.mem = s.m.mem := by
  unfold State.storeLine
  rw [wrote_m]
  exact recallFrom_mem ..

theorem foldRecall_mem (s : State) (core : Nat) (l : List Nat) : (l.foldl (fun s x => s.recallFrom core x) s).m.mem = s.m.mem := by
  induction l generalizing s with
  | nil => rfl
  | cons d l ih => rw [List.foldl_cons, ih, recallFrom_mem]

theorem foldFollow_mem (m : Mem) (core : Nat) (bs : List (Nat × Byte)) (l : List Nat) :
    (l.foldl (fun m x => m.follow core x bs) m).mem = m.mem := by
  induction l generalizing m with
  | nil => rfl
  | cons d l ih => rw [List.foldl_cons, ih, follow_mem]

theorem foldWrote_m (s : State) (l : List Nat) : (l.foldl State.wrote s).m = s.m := by
  induction l generalizing s with
  | nil => rfl
  | cons d l ih => rw [List.foldl_cons, ih, wrote_m]

@[simp] theorem storeThrough_mem (s : State) (core : Nat) (bs : List (Nat × Byte)) (rels : List Rel) (stamp : Option Nat) :
    (s.storeThrough core bs rels stamp).m.mem = s.m.mem := by
  unfold State.storeThrough
  rw [cleanse_mem, foldWrote_m, toL2_mem]
  simp only [State.mapMem]
  rw [foldFollow_mem]
  split <;> simp [foldRecall_mem]

@[simp] theorem l2ToMem_mem (s : State) (p : Nat → Bool) : (s.l2ToMem p).m.mem = s.m.mem := rfl

@[simp] theorem pushDown_mem (s : State) (scope : Nat) (p : Nat → Bool) : (s.pushDown scope p).m.mem = s.m.mem := by
  unfold State.pushDown
  split <;> rfl

@[simp] theorem tagDirty_mem (s : State) (core : Nat) : (s.tagDirty core).m.mem = s.m.mem := rfl
@[simp] theorem acquire_mem (s : State) (core : Nat) : (s.acquire core).m.mem = s.m.mem := rfl
@[simp] theorem drain_mem (s : State) (core : Nat) : (s.drain core).m.mem = s.m.mem := writeBackAll_mem ..

@[simp] theorem unrecord_mem (m : Mem) (die line core : Nat) : (m.unrecord die line core).mem = m.mem := by
  unfold Mem.unrecord
  split <;> rfl

@[simp] theorem acknowledge_mem (s : State) (die core line : Nat) : (s.acknowledge die core line).m.mem = s.m.mem := by
  show ((s.drain core).m.unrecord die line core).mem = _
  rw [unrecord_mem, drain_mem]

@[simp] theorem drainEntry_mem (s : State) (die line but : Nat) : (s.drainEntry die line but).m.mem = s.m.mem := by
  unfold State.drainEntry
  generalize s.m.recorded die line but = l
  induction l generalizing s with
  | nil => rfl
  | cons d l ih => rw [List.foldl_cons, ih, acknowledge_mem]

@[simp] theorem drainAll_mem (s : State) (core : Nat) : (s.drainAll core).m.mem = s.m.mem := by
  unfold State.drainAll
  generalize s.m.entriesOf (dieOf core) = l
  induction l generalizing s with
  | nil => rfl
  | cons d l ih => rw [List.foldl_cons, ih, drainEntry_mem]

@[simp] theorem record_mem (s : State) (core line : Nat) : (s.record core line).m.mem = s.m.mem := by
  unfold State.record
  simp only [State.mapMem, tagDirty_mem]
  split
  · exact drainEntry_mem ..
  · rfl

@[simp] theorem releaseEager_mem (s : State) (core scope : Nat) : (s.releaseEager core scope).m.mem = s.m.mem := by
  unfold State.releaseEager
  split
  · rfl
  · rw [pushDown_mem, writeBackAll_mem]

@[simp] theorem acquireAt_mem (s : State) (core scope : Nat) (ids : List Nat) : (s.acquireAt core scope ids).m.mem = s.m.mem := by
  unfold State.acquireAt
  split
  · rfl
  · simp [State.mapMem]

@[simp] theorem fenceAcq_mem (s : State) (core scope : Nat) (heard : List Rel) : (s.fenceAcq core scope heard).m.mem = s.m.mem := by
  unfold State.fenceAcq
  split
  · rfl
  · simp [State.mapMem]

@[simp] theorem putMem_mem (s : State) (host : Bool) (pa : Nat) (bs : List Byte) : (s.putMem host pa bs).m.mem = s.m.mem := rfl

theorem foldExpelAll_mem (s : State) (l : List Nat) (line : Nat) : (l.foldl (fun s c => s.expel c line) s).m.mem = s.m.mem := by
  induction l generalizing s with
  | nil => rfl
  | cons d l ih => rw [List.foldl_cons, ih, expel_mem]

@[simp] theorem cohStore_mem (s : State) (host : Bool) (pa : Nat) (bs : List Byte) (rels : List Rel) :
    (s.cohStore host pa bs rels).m.mem = s.m.mem := by
  unfold State.cohStore
  rw [cleanse_mem, wrote_m]
  simp only [State.mapMem, noteWrites_mem, putMem_mem, l2ToMem_mem]
  exact foldExpelAll_mem ..

@[simp] theorem hostStore_mem (s : State) (pa : Nat) (bs : List Byte) : (s.hostStore pa bs).m.mem = s.m.mem := by
  unfold State.hostStore
  split
  · rw [cleanse_mem, wrote_m]
    rfl
  · exact cohStore_mem ..

/-! ## The operation that writes the bytes of memory -/

theorem memOk_of_eq {s t : State} (h : MemOk s) (e : t.m.mem = s.m.mem) : MemOk t := by
  unfold MemOk
  rw [e]
  exact h

/-- Bytes of the SLC written to memory keep the canonical form. -/
theorem slcToMem_ok {s : State} (h : MemOk s) (p : Nat → Bool) : MemOk (s.slcToMem p) :=
  memPut_fold_if_wf s.m.slc (fun q => p q.1) (fun q => q.1) (fun q => q.2) h

/-- An eviction keeps the canonical form. -/
theorem cacheEviction_ok {s t : State} (h : MemOk s) (core line : Nat) (ht : execCacheEviction core line s = .next t) : MemOk t := by
  unfold execCacheEviction at ht
  injection ht with ht
  subst ht
  split
  · split
    · exact memOk_of_eq h (expel_mem ..)
    · exact h
  · split
    · exact memOk_of_eq h rfl
    · split
      · exact slcToMem_ok h _
      · split
        · exact memOk_of_eq h rfl
        · exact h

end Sys2Proof.Machine
end

