-- ==== Sys2Proof/Laws/PerInstr.lean ====
section
/-! SUPPORT. PerInstr.lean: each row of the table keeps its own code: what the encoder writes for a constructor, the
decoder's tables read back as that constructor. -/

namespace Sys2Proof.Laws.Row

open Sys2Proof

/-- A row stands in one width only, its code fits the field of that width, and the table of the width gives the row back (R49
to R51, R59); a row that shares its OP is told apart by its modifiers, where it is well formed. -/
def Statement (i : Instr) : Prop :=
  (∀ op x, i.c16 = some (op, x) → i.i32 = none ∧ i.i64 = none ∧ op < 16 ∧ ofOp4 op x = some i)
  ∧ (∀ op x, i.i32 = some (op, x) → i.c16 = none ∧ i.i64 = none ∧ op < 64 ∧ ofOp6 op x = some i)
  ∧ (∀ op x ts, i.i64 = some (op, x, ts) → i.c16 = none ∧ i.i32 = none ∧ op < 512 ∧ (i.wellFormed = true → ofOp op x ts = some i))

/-- The shape of the C16 lemmas. -/
theorem short {i : Instr} {op : Nat} {x : C16} (h : i.c16 = some (op, x)) (h32 : i.i32 = none) (h64 : i.i64 = none) (hop : op < 16)
    (hof : ofOp4 op x = some i) : Statement i := by
  refine ⟨fun op' x' e => ?_, fun op' x' e => ?_, fun op' x' ts e => ?_⟩
  · rw [h] at e
    cases e
    exact ⟨h32, h64, hop, hof⟩
  · rw [h32] at e
    cases e
  · rw [h64] at e
    cases e

/-- The shape of the I32 lemmas. -/
theorem medium {i : Instr} {op : Nat} {x : I32} (h : i.i32 = some (op, x)) (h16 : i.c16 = none) (h64 : i.i64 = none) (hop : op < 64)
    (hof : ofOp6 op x = some i) : Statement i := by
  refine ⟨fun op' x' e => ?_, fun op' x' e => ?_, fun op' x' ts e => ?_⟩
  · rw [h16] at e
    cases e
  · rw [h] at e
    cases e
    exact ⟨h16, h64, hop, hof⟩
  · rw [h64] at e
    cases e

/-- The shape of the I64 and I96 lemmas. -/
theorem wide {i : Instr} {op : Nat} {x : Body} {ts : List Word} (h : i.i64 = some (op, x, ts)) (h16 : i.c16 = none) (h32 : i.i32 = none)
    (hop : op < 512) (hof : i.wellFormed = true → ofOp op x ts = some i) : Statement i := by
  refine ⟨fun op' x' e => ?_, fun op' x' e => ?_, fun op' x' ts' e => ?_⟩
  · rw [h16] at e
    cases e
  · rw [h32] at e
    cases e
  · rw [h] at e
    cases e
    exact ⟨h16, h32, hop, hof⟩

/-- The shape of the lemmas of events, which have no encoding. -/
theorem event {i : Instr} (h16 : i.c16 = none) (h32 : i.i32 = none) (h64 : i.i64 = none) : Statement i := by
  refine ⟨fun op' x' e => ?_, fun op' x' e => ?_, fun op' x' ts' e => ?_⟩
  · rw [h16] at e
    cases e
  · rw [h32] at e
    cases e
  · rw [h64] at e
    cases e

/-- A well-formed row passes the check of its modifiers. -/
theorem enc_of {i : Instr} {x : Body} {g : Sig} (hs : i.sig = some (x, g)) (he : i.encLegal = i.encHead) (h : i.wellFormed = true) :
    g.enc = true := by
  simp only [Instr.wellFormed, he, Instr.encHead, hs, Body.encLegal, Bool.and_eq_true] at h
  exact h.1.1.1.1.1.2

/-- A well-formed row without D has 0 there. -/
theorem d_of {i : Instr} {x : Body} {g : Sig} (hs : i.sig = some (x, g)) (hd : g.d = Fld.no) (he : i.encLegal = i.encHead)
    (h : i.wellFormed = true) : x.d = 0#8 := by
  simp only [Instr.wellFormed, he, Instr.encHead, hs, Body.encLegal, hd, Bool.and_eq_true] at h
  have := h.1.1.1.2
  simp only [Fld.encOk, Fld.no, Bool.and_eq_true, beq_iff_eq] at this
  exact BitVec.eq_of_toNat_eq (by simpa using this.1.1)

/-- Modifiers read as a number are that number. -/
theorem md_eq {x : Body} {n : Nat} (hn : n < 32) (h : x.mdN = n) : x.md = BitVec.ofNat 5 n :=
  BitVec.eq_of_toNat_eq (by rw [BitVec.toNat_ofNat, Nat.mod_eq_of_lt hn]; exact h)

theorem mov (x : Body) : Statement (.mov x) :=
  wide rfl rfl rfl (by decide) fun _ => rfl

theorem iadd (x : Body) : Statement (.iadd x) :=
  wide rfl rfl rfl (by decide) fun _ => rfl

theorem isub (x : Body) : Statement (.isub x) :=
  wide rfl rfl rfl (by decide) fun _ => rfl

theorem iaddc (x : Body) : Statement (.iaddc x) :=
  wide rfl rfl rfl (by decide) fun _ => rfl

theorem imul (x : Body) : Statement (.imul x) :=
  wide rfl rfl rfl (by decide) fun _ => rfl

theorem imulh (x : Body) : Statement (.imulh x) :=
  wide rfl rfl rfl (by decide) fun _ => rfl

theorem imad (x : Body) : Statement (.imad x) :=
  wide rfl rfl rfl (by decide) fun _ => rfl

theorem imin (x : Body) : Statement (.imin x) :=
  wide rfl rfl rfl (by decide) fun _ => rfl

theorem imax (x : Body) : Statement (.imax x) :=
  wide rfl rfl rfl (by decide) fun _ => rfl

theorem iabs (x : Body) : Statement (.iabs x) :=
  wide rfl rfl rfl (by decide) fun _ => rfl

theorem shl (x : Body) : Statement (.shl x) :=
  wide rfl rfl rfl (by decide) fun _ => rfl

theorem shr (x : Body) : Statement (.shr x) :=
  wide rfl rfl rfl (by decide) fun _ => rfl

theorem rot (x : Body) : Statement (.rot x) :=
  wide rfl rfl rfl (by decide) fun _ => rfl

theorem and (x : Body) : Statement (.and x) :=
  wide rfl rfl rfl (by decide) fun _ => rfl

theorem or (x : Body) : Statement (.or x) :=
  wide rfl rfl rfl (by decide) fun _ => rfl

theorem xor (x : Body) : Statement (.xor x) :=
  wide rfl rfl rfl (by decide) fun _ => rfl

theorem andn (x : Body) : Statement (.andn x) :=
  wide rfl rfl rfl (by decide) fun _ => rfl

theorem bfe (x : Body) : Statement (.bfe x) :=
  wide rfl rfl rfl (by decide) fun _ => rfl

theorem bfi (x : Body) : Statement (.bfi x) :=
  wide rfl rfl rfl (by decide) fun _ => rfl

theorem popc (x : Body) : Statement (.popc x) :=
  wide rfl rfl rfl (by decide) fun _ => rfl

theorem clz (x : Body) : Statement (.clz x) :=
  wide rfl rfl rfl (by decide) fun _ => rfl

theorem brev (x : Body) : Statement (.brev x) :=
  wide rfl rfl rfl (by decide) fun _ => rfl

theorem prmt (x : Body) : Statement (.prmt x) :=
  wide rfl rfl rfl (by decide) fun _ => rfl

theorem lea (x : Body) : Statement (.lea x) :=
  wide rfl rfl rfl (by decide) fun _ => rfl

theorem icmp (x : Body) : Statement (.icmp x) :=
  wide rfl rfl rfl (by decide) fun _ => rfl

theorem sel (x : Body) : Statement (.sel x) :=
  wide rfl rfl rfl (by decide) fun _ => rfl

theorem movU (x : Body) : Statement (.movU x) :=
  wide rfl rfl rfl (by decide) fun _ => rfl

theorem iaddU (x : Body) : Statement (.iaddU x) :=
  wide rfl rfl rfl (by decide) fun _ => rfl

theorem isubU (x : Body) : Statement (.isubU x) :=
  wide rfl rfl rfl (by decide) fun _ => rfl

theorem iaddcU (x : Body) : Statement (.iaddcU x) :=
  wide rfl rfl rfl (by decide) fun _ => rfl

theorem imulU (x : Body) : Statement (.imulU x) :=
  wide rfl rfl rfl (by decide) fun _ => rfl

theorem imulhU (x : Body) : Statement (.imulhU x) :=
  wide rfl rfl rfl (by decide) fun _ => rfl

theorem imadU (x : Body) : Statement (.imadU x) :=
  wide rfl rfl rfl (by decide) fun _ => rfl

theorem iminU (x : Body) : Statement (.iminU x) :=
  wide rfl rfl rfl (by decide) fun _ => rfl

theorem imaxU (x : Body) : Statement (.imaxU x) :=
  wide rfl rfl rfl (by decide) fun _ => rfl

theorem iabsU (x : Body) : Statement (.iabsU x) :=
  wide rfl rfl rfl (by decide) fun _ => rfl

theorem shlU (x : Body) : Statement (.shlU x) :=
  wide rfl rfl rfl (by decide) fun _ => rfl

theorem shrU (x : Body) : Statement (.shrU x) :=
  wide rfl rfl rfl (by decide) fun _ => rfl

theorem rotU (x : Body) : Statement (.rotU x) :=
  wide rfl rfl rfl (by decide) fun _ => rfl

theorem andU (x : Body) : Statement (.andU x) :=
  wide rfl rfl rfl (by decide) fun _ => rfl

theorem orU (x : Body) : Statement (.orU x) :=
  wide rfl rfl rfl (by decide) fun _ => rfl

theorem xorU (x : Body) : Statement (.xorU x) :=
  wide rfl rfl rfl (by decide) fun _ => rfl

theorem andnU (x : Body) : Statement (.andnU x) :=
  wide rfl rfl rfl (by decide) fun _ => rfl

theorem bfeU (x : Body) : Statement (.bfeU x) :=
  wide rfl rfl rfl (by decide) fun _ => rfl

theorem bfiU (x : Body) : Statement (.bfiU x) :=
  wide rfl rfl rfl (by decide) fun _ => rfl

theorem popcU (x : Body) : Statement (.popcU x) :=
  wide rfl rfl rfl (by decide) fun _ => rfl

theorem clzU (x : Body) : Statement (.clzU x) :=
  wide rfl rfl rfl (by decide) fun _ => rfl

theorem brevU (x : Body) : Statement (.brevU x) :=
  wide rfl rfl rfl (by decide) fun _ => rfl

theorem prmtU (x : Body) : Statement (.prmtU x) :=
  wide rfl rfl rfl (by decide) fun _ => rfl

theorem leaU (x : Body) : Statement (.leaU x) :=
  wide rfl rfl rfl (by decide) fun _ => rfl

theorem icmpU (x : Body) : Statement (.icmpU x) :=
  wide rfl rfl rfl (by decide) fun _ => rfl

theorem selU (x : Body) : Statement (.selU x) :=
  wide rfl rfl rfl (by decide) fun _ => rfl

theorem fadd (x : Body) : Statement (.fadd x) :=
  wide rfl rfl rfl (by decide) fun _ => rfl

theorem fsub (x : Body) : Statement (.fsub x) :=
  wide rfl rfl rfl (by decide) fun _ => rfl

theorem fmul (x : Body) : Statement (.fmul x) :=
  wide rfl rfl rfl (by decide) fun _ => rfl

theorem ffma (x : Body) : Statement (.ffma x) :=
  wide rfl rfl rfl (by decide) fun _ => rfl

theorem ffma3 (x : Body) : Statement (.ffma3 x) :=
  wide rfl rfl rfl (by decide) fun _ => rfl

theorem fmin (x : Body) : Statement (.fmin x) :=
  wide rfl rfl rfl (by decide) fun _ => rfl

theorem fmax (x : Body) : Statement (.fmax x) :=
  wide rfl rfl rfl (by decide) fun _ => rfl

theorem fcmp (x : Body) : Statement (.fcmp x) :=
  wide rfl rfl rfl (by decide) fun _ => rfl

theorem fclass (x : Body) : Statement (.fclass x) :=
  wide rfl rfl rfl (by decide) fun _ => rfl

theorem frnd (x : Body) : Statement (.frnd x) :=
  wide rfl rfl rfl (by decide) fun _ => rfl

theorem fcvt (x : Body) : Statement (.fcvt x) :=
  wide rfl rfl rfl (by decide) fun _ => rfl

theorem icvt (x : Body) : Statement (.icvt x) :=
  wide rfl rfl rfl (by decide) fun _ => rfl

theorem hadd2 (x : Body) : Statement (.hadd2 x) :=
  wide rfl rfl rfl (by decide) fun _ => rfl

theorem hmul2 (x : Body) : Statement (.hmul2 x) :=
  wide rfl rfl rfl (by decide) fun _ => rfl

theorem hfma2 (x : Body) : Statement (.hfma2 x) :=
  wide rfl rfl rfl (by decide) fun _ => rfl

theorem hmnx2 (x : Body) : Statement (.hmnx2 x) :=
  wide rfl rfl rfl (by decide) fun _ => rfl

theorem fdot4 (x : Body) : Statement (.fdot4 x) :=
  wide rfl rfl rfl (by decide) fun _ => rfl

theorem idot4 (x : Body) : Statement (.idot4 x) :=
  wide rfl rfl rfl (by decide) fun _ => rfl

theorem mxunpk (x : Body) : Statement (.mxunpk x) :=
  wide rfl rfl rfl (by decide) fun _ => rfl

theorem mxpack (x : Body) : Statement (.mxpack x) :=
  wide rfl rfl rfl (by decide) fun _ => rfl

theorem fexp2 (x : Body) : Statement (.fexp2 x) :=
  wide rfl rfl rfl (by decide) fun _ => rfl

theorem flog2 (x : Body) : Statement (.flog2 x) :=
  wide rfl rfl rfl (by decide) fun _ => rfl

theorem frcp (x : Body) : Statement (.frcp x) :=
  wide rfl rfl rfl (by decide) fun _ => rfl

theorem frsq (x : Body) : Statement (.frsq x) :=
  wide rfl rfl rfl (by decide) fun _ => rfl

theorem fsqrt (x : Body) : Statement (.fsqrt x) :=
  wide rfl rfl rfl (by decide) fun _ => rfl

theorem fsin (x : Body) : Statement (.fsin x) :=
  wide rfl rfl rfl (by decide) fun _ => rfl

theorem fcos (x : Body) : Statement (.fcos x) :=
  wide rfl rfl rfl (by decide) fun _ => rfl

theorem ftanh (x : Body) : Statement (.ftanh x) :=
  wide rfl rfl rfl (by decide) fun _ => rfl

theorem ferf (x : Body) : Statement (.ferf x) :=
  wide rfl rfl rfl (by decide) fun _ => rfl

theorem tblset (x : Body) : Statement (.tblset x) :=
  wide rfl rfl rfl (by decide) fun _ => rfl

theorem tblcommit (x : Body) : Statement (.tblcommit x) :=
  wide rfl rfl rfl (by decide) fun _ => rfl

theorem tbleval (x : Body) : Statement (.tbleval x) :=
  wide rfl rfl rfl (by decide) fun _ => rfl

theorem rngx (x : Body) : Statement (.rngx x) :=
  wide rfl rfl rfl (by decide) fun _ => rfl

theorem kand (x : Body) : Statement (.kand x) :=
  wide rfl rfl rfl (by decide) fun _ => rfl

theorem kor (x : Body) : Statement (.kor x) :=
  wide rfl rfl rfl (by decide) fun _ => rfl

theorem kxor (x : Body) : Statement (.kxor x) :=
  wide rfl rfl rfl (by decide) fun _ => rfl

theorem knot (x : Body) : Statement (.knot x) :=
  wide rfl rfl rfl (by decide) fun _ => rfl

theorem kmov (x : Body) : Statement (.kmov x) :=
  wide rfl rfl rfl (by decide) fun w => by
    have h := md_eq (n := 0) (by decide) (of_decide_eq_true (enc_of rfl rfl w))
    show some (if x.md = 1#5 then Instr.kmovKS x else if x.md = 2#5 then Instr.kmovSK x else Instr.kmov x) = _
    simp [h]

theorem kmovKS (x : Body) : Statement (.kmovKS x) :=
  wide rfl rfl rfl (by decide) fun w => by
    have h := md_eq (n := 1) (by decide) (of_decide_eq_true (enc_of rfl rfl w))
    show some (if x.md = 1#5 then Instr.kmovKS x else if x.md = 2#5 then Instr.kmovSK x else Instr.kmov x) = _
    simp [h]

theorem kmovSK (x : Body) : Statement (.kmovSK x) :=
  wide rfl rfl rfl (by decide) fun w => by
    have h := md_eq (n := 2) (by decide) (of_decide_eq_true (enc_of rfl rfl w))
    show some (if x.md = 1#5 then Instr.kmovKS x else if x.md = 2#5 then Instr.kmovSK x else Instr.kmov x) = _
    simp [h]

theorem lpart (x : Body) : Statement (.lpart x) :=
  wide rfl rfl rfl (by decide) fun _ => rfl

theorem shfl (x : Body) : Statement (.shfl x) :=
  wide rfl rfl rfl (by decide) fun _ => rfl

theorem vote (x : Body) : Statement (.vote x) :=
  wide rfl rfl rfl (by decide) fun _ => rfl

theorem redux (x : Body) : Statement (.redux x) :=
  wide rfl rfl rfl (by decide) fun _ => rfl

theorem scan (x : Body) : Statement (.scan x) :=
  wide rfl rfl rfl (by decide) fun _ => rfl

theorem matchLanes (x : Body) : Statement (.matchLanes x) :=
  wide rfl rfl rfl (by decide) fun _ => rfl

theorem bcast (x : Body) : Statement (.bcast x) :=
  wide rfl rfl rfl (by decide) fun _ => rfl

theorem bra (x : Body) : Statement (.bra x) :=
  wide rfl rfl rfl (by decide) fun _ => rfl

theorem brx (x : Body) (ts : List Word) : Statement (.brx x ts) :=
  wide rfl rfl rfl (by decide) fun _ => rfl

theorem call (x : Body) : Statement (.call x) :=
  wide rfl rfl rfl (by decide) fun _ => rfl

theorem callx (x : Body) (ts : List Word) : Statement (.callx x ts) :=
  wide rfl rfl rfl (by decide) fun _ => rfl

theorem ret (x : Body) : Statement (.ret x) :=
  wide rfl rfl rfl (by decide) fun _ => rfl

theorem yield (x : Body) : Statement (.yield x) :=
  wide rfl rfl rfl (by decide) fun _ => rfl

theorem exit (x : Body) : Statement (.exit x) :=
  wide rfl rfl rfl (by decide) fun _ => rfl

theorem kill (x : Body) : Statement (.kill x) :=
  wide rfl rfl rfl (by decide) fun _ => rfl

theorem nop (x : Body) : Statement (.nop x) :=
  wide rfl rfl rfl (by decide) fun _ => rfl

theorem waitd (x : Body) : Statement (.waitd x) :=
  wide rfl rfl rfl (by decide) fun _ => rfl

theorem trap (x : Body) : Statement (.trap x) :=
  wide rfl rfl rfl (by decide) fun _ => rfl

theorem bkpt (x : Body) : Statement (.bkpt x) :=
  wide rfl rfl rfl (by decide) fun _ => rfl

theorem rcsr (x : Body) : Statement (.rcsr x) :=
  wide rfl rfl rfl (by decide) fun _ => rfl

theorem wcsr (x : Body) : Statement (.wcsr x) :=
  wide rfl rfl rfl (by decide) fun _ => rfl

theorem srd (x : Body) : Statement (.srd x) :=
  wide rfl rfl rfl (by decide) fun _ => rfl

theorem quotaGive (x : Body) : Statement (.quotaGive x) :=
  wide rfl rfl rfl (by decide) fun w => by
    have h := md_eq (n := 0) (by decide) (of_decide_eq_true (enc_of rfl rfl w))
    show some (if x.md = 0#5 then Instr.quotaGive x else if x.md = 1#5 then Instr.quotaRel x else Instr.quotaTake x) = _
    simp [h]

theorem quotaRel (x : Body) : Statement (.quotaRel x) :=
  wide rfl rfl rfl (by decide) fun w => by
    have h := md_eq (n := 1) (by decide) (of_decide_eq_true (enc_of rfl rfl w))
    show some (if x.md = 0#5 then Instr.quotaGive x else if x.md = 1#5 then Instr.quotaRel x else Instr.quotaTake x) = _
    simp [h]

theorem quotaTake (x : Body) : Statement (.quotaTake x) :=
  wide rfl rfl rfl (by decide) fun w => by
    have h := md_eq (n := 2) (by decide) (of_decide_eq_true (enc_of rfl rfl w))
    show some (if x.md = 0#5 then Instr.quotaGive x else if x.md = 1#5 then Instr.quotaRel x else Instr.quotaTake x) = _
    simp [h]

theorem icinv (x : Body) : Statement (.icinv x) :=
  wide rfl rfl rfl (by decide) fun w => by
    have h := md_eq (n := 0) (by decide) (of_decide_eq_true (enc_of rfl rfl w))
    show some (if x.md = 1#5 then Instr.icinvAll x else Instr.icinv x) = _
    simp [h]

theorem icinvAll (x : Body) : Statement (.icinvAll x) :=
  wide rfl rfl rfl (by decide) fun w => by
    have h := md_eq (n := 1) (by decide) (of_decide_eq_true (enc_of rfl rfl w))
    show some (if x.md = 1#5 then Instr.icinvAll x else Instr.icinv x) = _
    simp [h]

theorem ld (x : Body) : Statement (.ld x) :=
  wide rfl rfl rfl (by decide) fun _ => rfl

theorem st (x : Body) : Statement (.st x) :=
  wide rfl rfl rfl (by decide) fun _ => rfl

theorem lds (x : Body) : Statement (.lds x) :=
  wide rfl rfl rfl (by decide) fun _ => rfl

theorem sts (x : Body) : Statement (.sts x) :=
  wide rfl rfl rfl (by decide) fun _ => rfl

theorem ldw (x : Body) : Statement (.ldw x) :=
  wide rfl rfl rfl (by decide) fun _ => rfl

theorem stw (x : Body) : Statement (.stw x) :=
  wide rfl rfl rfl (by decide) fun _ => rfl

theorem pf (x : Body) : Statement (.pf x) :=
  wide rfl rfl rfl (by decide) fun _ => rfl

theorem lda (x : Body) : Statement (.lda x) :=
  wide rfl rfl rfl (by decide) fun _ => rfl

theorem stl (x : Body) : Statement (.stl x) :=
  wide rfl rfl rfl (by decide) fun _ => rfl

theorem fence (x : Body) : Statement (.fence x) :=
  wide rfl rfl rfl (by decide) fun _ => rfl

theorem clean (x : Body) : Statement (.clean x) :=
  wide rfl rfl rfl (by decide) fun _ => rfl

theorem inval (x : Body) : Statement (.inval x) :=
  wide rfl rfl rfl (by decide) fun _ => rfl

theorem atom (x : Body) : Statement (.atom x) :=
  wide rfl rfl rfl (by decide) fun _ => rfl

theorem atomf (x : Body) : Statement (.atomf x) :=
  wide rfl rfl rfl (by decide) fun _ => rfl

theorem red (x : Body) : Statement (.red x) :=
  wide rfl rfl rfl (by decide) fun _ => rfl

theorem mlres (x : Body) : Statement (.mlres x) :=
  wide rfl rfl rfl (by decide) fun _ => rfl

theorem mlst (x : Body) : Statement (.mlst x) :=
  wide rfl rfl rfl (by decide) fun _ => rfl

theorem mlcommit (x : Body) : Statement (.mlcommit x) :=
  wide rfl rfl rfl (by decide) fun _ => rfl

theorem mlabort (x : Body) : Statement (.mlabort x) :=
  wide rfl rfl rfl (by decide) fun _ => rfl

theorem barinit (x : Body) : Statement (.barinit x) :=
  wide rfl rfl rfl (by decide) fun _ => rfl

theorem barenrol (x : Body) : Statement (.barenrol x) :=
  wide rfl rfl rfl (by decide) fun _ => rfl

theorem bararv (x : Body) : Statement (.bararv x) :=
  wide rfl rfl rfl (by decide) fun _ => rfl

theorem barwait (x : Body) : Statement (.barwait x) :=
  wide rfl rfl rfl (by decide) fun _ => rfl

theorem barsync (x : Body) : Statement (.barsync x) :=
  wide rfl rfl rfl (by decide) fun _ => rfl

theorem barq (x : Body) : Statement (.barq x) :=
  wide rfl rfl rfl (by decide) fun _ => rfl

theorem semadd (x : Body) : Statement (.semadd x) :=
  wide rfl rfl rfl (by decide) fun _ => rfl

theorem semwait (x : Body) : Statement (.semwait x) :=
  wide rfl rfl rfl (by decide) fun _ => rfl

theorem semset (x : Body) : Statement (.semset x) :=
  wide rfl rfl rfl (by decide) fun _ => rfl

theorem monarm (x : Body) : Statement (.monarm x) :=
  wide rfl rfl rfl (by decide) fun _ => rfl

theorem monwait (x : Body) : Statement (.monwait x) :=
  wide rfl rfl rfl (by decide) fun _ => rfl

theorem cpseal (x : Body) : Statement (.cpseal x) :=
  wide rfl rfl rfl (by decide) fun _ => rfl

theorem cpwait (x : Body) : Statement (.cpwait x) :=
  wide rfl rfl rfl (by decide) fun _ => rfl

theorem rsend (x : Body) : Statement (.rsend x) :=
  wide rfl rfl rfl (by decide) fun _ => rfl

theorem rwait (x : Body) : Statement (.rwait x) :=
  wide rfl rfl rfl (by decide) fun _ => rfl

theorem rtake (x : Body) : Statement (.rtake x) :=
  wide rfl rfl rfl (by decide) fun w => by
    have h := md_eq (n := 0) (by decide) (of_decide_eq_true (Bool.and_eq_true_iff.mp (enc_of rfl rfl w)).1)
    show some (if x.md = 1#5 then Instr.rtakeAny x else Instr.rtake x) = _
    simp [h]

theorem rtakeAny (x : Body) : Statement (.rtakeAny x) :=
  wide rfl rfl rfl (by decide) fun w => by
    have h := md_eq (n := 1) (by decide) (of_decide_eq_true (Bool.and_eq_true_iff.mp (enc_of rfl rfl w)).1)
    show some (if x.md = 1#5 then Instr.rtakeAny x else Instr.rtake x) = _
    simp [h]

theorem rmaskSet (x : Body) : Statement (.rmaskSet x) :=
  wide rfl rfl rfl (by decide) fun w => by
    have h := md_eq (n := 0) (by decide) (of_decide_eq_true (enc_of rfl rfl w))
    show some (if x.md = 0#5 then Instr.rmaskSet x else if x.md = 1#5 then Instr.rmaskClr x else Instr.rmaskWr x) = _
    simp [h]

theorem rmaskClr (x : Body) : Statement (.rmaskClr x) :=
  wide rfl rfl rfl (by decide) fun w => by
    have h := md_eq (n := 1) (by decide) (of_decide_eq_true (enc_of rfl rfl w))
    show some (if x.md = 0#5 then Instr.rmaskSet x else if x.md = 1#5 then Instr.rmaskClr x else Instr.rmaskWr x) = _
    simp [h]

theorem rmaskWr (x : Body) : Statement (.rmaskWr x) :=
  wide rfl rfl rfl (by decide) fun w => by
    have h := md_eq (n := 2) (by decide) (of_decide_eq_true (enc_of rfl rfl w))
    show some (if x.md = 0#5 then Instr.rmaskSet x else if x.md = 1#5 then Instr.rmaskClr x else Instr.rmaskWr x) = _
    simp [h]

theorem hmust (x : Body) : Statement (.hmust x) :=
  wide rfl rfl rfl (by decide) fun _ => rfl

theorem hrel (x : Body) : Statement (.hrel x) :=
  wide rfl rfl rfl (by decide) fun _ => rfl

theorem hlda (x : Body) : Statement (.hlda x) :=
  wide rfl rfl rfl (by decide) fun w => by
    have h := md_eq (n := 0) (by decide) (of_decide_eq_true (enc_of rfl rfl w))
    show some (if x.md = 1#5 then Instr.hldaNone x else Instr.hlda x) = _
    simp [h]

theorem hldaNone (x : Body) : Statement (.hldaNone x) :=
  wide rfl rfl rfl (by decide) fun w => by
    have h := md_eq (n := 1) (by decide) (of_decide_eq_true (enc_of rfl rfl w))
    show some (if x.md = 1#5 then Instr.hldaNone x else Instr.hlda x) = _
    simp [h]

theorem hldb (x : Body) : Statement (.hldb x) :=
  wide rfl rfl rfl (by decide) fun _ => rfl

theorem hswap (x : Body) : Statement (.hswap x) :=
  wide rfl rfl rfl (by decide) fun _ => rfl

theorem hlds (x : Body) : Statement (.hlds x) :=
  wide rfl rfl rfl (by decide) fun _ => rfl

theorem hmma (x : Body) : Statement (.hmma x) :=
  wide rfl rfl rfl (by decide) fun _ => rfl

theorem hzero (x : Body) : Statement (.hzero x) :=
  wide rfl rfl rfl (by decide) fun _ => rfl

theorem hrowsc (x : Body) : Statement (.hrowsc x) :=
  wide rfl rfl rfl (by decide) fun _ => rfl

theorem hdrnReg (x : Body) : Statement (.hdrnReg x) :=
  wide rfl rfl rfl (by decide) fun w => by
    have h := enc_of (i := .hdrnReg x) rfl rfl w
    simp only [mkSig, Bool.and_eq_true, bne_iff_ne] at h
    show some (if x.d = 0#8 then Instr.hdrnSp x else Instr.hdrnReg x) = _
    simp [h.2]

theorem hdrnSp (x : Body) : Statement (.hdrnSp x) :=
  wide rfl rfl rfl (by decide) fun w => by
    have h := d_of (i := .hdrnSp x) rfl rfl rfl w
    show some (if x.d = 0#8 then Instr.hdrnSp x else Instr.hdrnReg x) = _
    simp [h]

theorem hboxt (x : Body) : Statement (.hboxt x) :=
  wide rfl rfl rfl (by decide) fun _ => rfl

theorem hstat (x : Body) : Statement (.hstat x) :=
  wide rfl rfl rfl (by decide) fun _ => rfl

theorem tqpush (x : Body) : Statement (.tqpush x) :=
  wide rfl rfl rfl (by decide) fun _ => rfl

theorem nrec (x : Body) : Statement (.nrec x) :=
  wide rfl rfl rfl (by decide) fun _ => rfl

theorem launch (x : Body) : Statement (.launch x) :=
  wide rfl rfl rfl (by decide) fun _ => rfl

theorem bqry (x : Body) : Statement (.bqry x) :=
  wide rfl rfl rfl (by decide) fun _ => rfl

theorem bray (x : Body) : Statement (.bray x) :=
  wide rfl rfl rfl (by decide) fun _ => rfl

theorem bstat (x : Body) : Statement (.bstat x) :=
  wide rfl rfl rfl (by decide) fun _ => rfl

theorem sfuResultWrite (w n : Nat) : Statement (.sfuResultWrite w n) :=
  event rfl rfl rfl

theorem tblsetBankWrite (w n : Nat) : Statement (.tblsetBankWrite w n) :=
  event rfl rfl rfl

theorem tblevalResult (w n : Nat) : Statement (.tblevalResult w n) :=
  event rfl rfl rfl

theorem quotaSettle (w n : Nat) : Statement (.quotaSettle w n) :=
  event rfl rfl rfl

theorem icinvComplete (w n : Nat) : Statement (.icinvComplete w n) :=
  event rfl rfl rfl

theorem loadDataReturn (w n : Nat) : Statement (.loadDataReturn w n) :=
  event rfl rfl rfl

theorem storeQueueLeave (w : Nat) : Statement (.storeQueueLeave w) :=
  event rfl rfl rfl

theorem translationCheckResult (w n : Nat) : Statement (.translationCheckResult w n) :=
  event rfl rfl rfl

theorem fenceComplete (w n : Nat) : Statement (.fenceComplete w n) :=
  event rfl rfl rfl

theorem cacheMaintenanceComplete (w n : Nat) : Statement (.cacheMaintenanceComplete w n) :=
  event rfl rfl rfl

theorem sliceWordOperation (w n line : Nat) : Statement (.sliceWordOperation w n line) :=
  event rfl rfl rfl

theorem barrierStartComplete (bar : Nat) : Statement (.barrierStartComplete bar) :=
  event rfl rfl rfl

theorem monitorEvent (w : Nat) : Statement (.monitorEvent w) :=
  event rfl rfl rfl

theorem monwaitTimeout (w : Nat) : Statement (.monwaitTimeout w) :=
  event rfl rfl rfl

theorem copyEntryTake (core blk : Nat) : Statement (.copyEntryTake core blk) :=
  event rfl rfl rfl

theorem copyEntryComplete (core blk idx : Nat) : Statement (.copyEntryComplete core blk idx) :=
  event rfl rfl rfl

theorem reinRouterSend (n : Nat) : Statement (.reinRouterSend n) :=
  event rfl rfl rfl

theorem refusedWriteback (ctx : Nat) : Statement (.refusedWriteback ctx) :=
  event rfl rfl rfl

theorem gridSwitch (g : Nat) : Statement (.gridSwitch g) :=
  event rfl rfl rfl

theorem gridReleaseEnd (g : Nat) : Statement (.gridReleaseEnd g) :=
  event rfl rfl rfl

theorem hmmaComplete (w n : Nat) : Statement (.hmmaComplete w n) :=
  event rfl rfl rfl

theorem queueRefill (q : Nat) : Statement (.queueRefill q) :=
  event rfl rfl rfl

theorem binTimerExpire (q : Nat) : Statement (.binTimerExpire q) :=
  event rfl rfl rfl

theorem queryStart (q : Nat) : Statement (.queryStart q) :=
  event rfl rfl rfl

theorem compareBatch (q : Nat) : Statement (.compareBatch q) :=
  event rfl rfl rfl

theorem recordEmit (q : Nat) : Statement (.recordEmit q) :=
  event rfl rfl rfl

theorem queryEnd (q : Nat) : Statement (.queryEnd q) :=
  event rfl rfl rfl

theorem traceCacheFill (w : Nat) : Statement (.traceCacheFill w) :=
  event rfl rfl rfl

theorem waveRetire (w : Nat) : Statement (.waveRetire w) :=
  event rfl rfl rfl

theorem blockRetire (blk : Nat) : Statement (.blockRetire blk) :=
  event rfl rfl rfl

theorem waveStopReport (w : Nat) : Statement (.waveStopReport w) :=
  event rfl rfl rfl

theorem saveImageWrite (blk : Nat) : Statement (.saveImageWrite blk) :=
  event rfl rfl rfl

theorem dbgStepDone (w : Nat) : Statement (.dbgStepDone w) :=
  event rfl rfl rfl

theorem instructionBreakpointHit (w : Nat) : Statement (.instructionBreakpointHit w) :=
  event rfl rfl rfl

theorem clusterStopped (q : Nat) : Statement (.clusterStopped q) :=
  event rfl rfl rfl

theorem drainAcknowledge (die core line : Nat) : Statement (.drainAcknowledge die core line) :=
  event rfl rfl rfl

theorem collectiveComplete (key : Nat) : Statement (.collectiveComplete key) :=
  event rfl rfl rfl

theorem resultLanded (w n : Nat) : Statement (.resultLanded w n) :=
  event rfl rfl rfl

theorem scratchpadPass (w n : Nat) : Statement (.scratchpadPass w n) :=
  event rfl rfl rfl

theorem releaseComplete (w n : Nat) : Statement (.releaseComplete w n) :=
  event rfl rfl rfl

theorem harnessCompletion (w n : Nat) : Statement (.harnessCompletion w n) :=
  event rfl rfl rfl

theorem cMov (x : C16) : Statement (.cMov x) :=
  short rfl rfl rfl (by decide) rfl

theorem cIadd (x : C16) : Statement (.cIadd x) :=
  short rfl rfl rfl (by decide) rfl

theorem cIsub (x : C16) : Statement (.cIsub x) :=
  short rfl rfl rfl (by decide) rfl

theorem cAnd (x : C16) : Statement (.cAnd x) :=
  short rfl rfl rfl (by decide) rfl

theorem cOr (x : C16) : Statement (.cOr x) :=
  short rfl rfl rfl (by decide) rfl

theorem cXor (x : C16) : Statement (.cXor x) :=
  short rfl rfl rfl (by decide) rfl

theorem cShl (x : C16) : Statement (.cShl x) :=
  short rfl rfl rfl (by decide) rfl

theorem cShr (x : C16) : Statement (.cShr x) :=
  short rfl rfl rfl (by decide) rfl

theorem cFadd (x : C16) : Statement (.cFadd x) :=
  short rfl rfl rfl (by decide) rfl

theorem cFsub (x : C16) : Statement (.cFsub x) :=
  short rfl rfl rfl (by decide) rfl

theorem cFmul (x : C16) : Statement (.cFmul x) :=
  short rfl rfl rfl (by decide) rfl

theorem cFmin (x : C16) : Statement (.cFmin x) :=
  short rfl rfl rfl (by decide) rfl

theorem cFmax (x : C16) : Statement (.cFmax x) :=
  short rfl rfl rfl (by decide) rfl

theorem cImul (x : C16) : Statement (.cImul x) :=
  short rfl rfl rfl (by decide) rfl

theorem cImax (x : C16) : Statement (.cImax x) :=
  short rfl rfl rfl (by decide) rfl

theorem cImin (x : C16) : Statement (.cImin x) :=
  short rfl rfl rfl (by decide) rfl

theorem i32Mov (x : I32) : Statement (.i32Mov x) :=
  medium rfl rfl rfl (by decide) rfl

theorem i32Iadd (x : I32) : Statement (.i32Iadd x) :=
  medium rfl rfl rfl (by decide) rfl

theorem i32Isub (x : I32) : Statement (.i32Isub x) :=
  medium rfl rfl rfl (by decide) rfl

theorem i32Imul (x : I32) : Statement (.i32Imul x) :=
  medium rfl rfl rfl (by decide) rfl

theorem i32ImulhI32 (x : I32) : Statement (.i32ImulhI32 x) :=
  medium rfl rfl rfl (by decide) rfl

theorem i32ImulhN32 (x : I32) : Statement (.i32ImulhN32 x) :=
  medium rfl rfl rfl (by decide) rfl

theorem i32Imad (x : I32) : Statement (.i32Imad x) :=
  medium rfl rfl rfl (by decide) rfl

theorem i32IminI32 (x : I32) : Statement (.i32IminI32 x) :=
  medium rfl rfl rfl (by decide) rfl

theorem i32ImaxI32 (x : I32) : Statement (.i32ImaxI32 x) :=
  medium rfl rfl rfl (by decide) rfl

theorem i32IminN32 (x : I32) : Statement (.i32IminN32 x) :=
  medium rfl rfl rfl (by decide) rfl

theorem i32ImaxN32 (x : I32) : Statement (.i32ImaxN32 x) :=
  medium rfl rfl rfl (by decide) rfl

theorem i32Iabs (x : I32) : Statement (.i32Iabs x) :=
  medium rfl rfl rfl (by decide) rfl

theorem i32Shl (x : I32) : Statement (.i32Shl x) :=
  medium rfl rfl rfl (by decide) rfl

theorem i32Shr (x : I32) : Statement (.i32Shr x) :=
  medium rfl rfl rfl (by decide) rfl

theorem i32ShrA (x : I32) : Statement (.i32ShrA x) :=
  medium rfl rfl rfl (by decide) rfl

theorem i32Rot (x : I32) : Statement (.i32Rot x) :=
  medium rfl rfl rfl (by decide) rfl

theorem i32And (x : I32) : Statement (.i32And x) :=
  medium rfl rfl rfl (by decide) rfl

theorem i32Or (x : I32) : Statement (.i32Or x) :=
  medium rfl rfl rfl (by decide) rfl

theorem i32Xor (x : I32) : Statement (.i32Xor x) :=
  medium rfl rfl rfl (by decide) rfl

theorem i32Andn (x : I32) : Statement (.i32Andn x) :=
  medium rfl rfl rfl (by decide) rfl

theorem i32Popc (x : I32) : Statement (.i32Popc x) :=
  medium rfl rfl rfl (by decide) rfl

theorem i32Clz (x : I32) : Statement (.i32Clz x) :=
  medium rfl rfl rfl (by decide) rfl

theorem i32Brev (x : I32) : Statement (.i32Brev x) :=
  medium rfl rfl rfl (by decide) rfl

theorem i32Fadd (x : I32) : Statement (.i32Fadd x) :=
  medium rfl rfl rfl (by decide) rfl

theorem i32Fsub (x : I32) : Statement (.i32Fsub x) :=
  medium rfl rfl rfl (by decide) rfl

theorem i32Fmul (x : I32) : Statement (.i32Fmul x) :=
  medium rfl rfl rfl (by decide) rfl

theorem i32Ffma (x : I32) : Statement (.i32Ffma x) :=
  medium rfl rfl rfl (by decide) rfl

theorem i32Fmin (x : I32) : Statement (.i32Fmin x) :=
  medium rfl rfl rfl (by decide) rfl

theorem i32Fmax (x : I32) : Statement (.i32Fmax x) :=
  medium rfl rfl rfl (by decide) rfl

theorem i32FaddRtz (x : I32) : Statement (.i32FaddRtz x) :=
  medium rfl rfl rfl (by decide) rfl

theorem i32FmulRtz (x : I32) : Statement (.i32FmulRtz x) :=
  medium rfl rfl rfl (by decide) rfl

theorem i32FfmaRtz (x : I32) : Statement (.i32FfmaRtz x) :=
  medium rfl rfl rfl (by decide) rfl

theorem i32FrndRne (x : I32) : Statement (.i32FrndRne x) :=
  medium rfl rfl rfl (by decide) rfl

theorem i32FrndRdn (x : I32) : Statement (.i32FrndRdn x) :=
  medium rfl rfl rfl (by decide) rfl

theorem i32FrndRup (x : I32) : Statement (.i32FrndRup x) :=
  medium rfl rfl rfl (by decide) rfl

theorem i32FrndRtz (x : I32) : Statement (.i32FrndRtz x) :=
  medium rfl rfl rfl (by decide) rfl

theorem i32Hadd2F16 (x : I32) : Statement (.i32Hadd2F16 x) :=
  medium rfl rfl rfl (by decide) rfl

theorem i32Hmul2F16 (x : I32) : Statement (.i32Hmul2F16 x) :=
  medium rfl rfl rfl (by decide) rfl

theorem i32Hfma2F16 (x : I32) : Statement (.i32Hfma2F16 x) :=
  medium rfl rfl rfl (by decide) rfl

theorem i32Hadd2Bf16 (x : I32) : Statement (.i32Hadd2Bf16 x) :=
  medium rfl rfl rfl (by decide) rfl

theorem i32Hmul2Bf16 (x : I32) : Statement (.i32Hmul2Bf16 x) :=
  medium rfl rfl rfl (by decide) rfl

theorem i32Hfma2Bf16 (x : I32) : Statement (.i32Hfma2Bf16 x) :=
  medium rfl rfl rfl (by decide) rfl

theorem i32FcvtF32F16 (x : I32) : Statement (.i32FcvtF32F16 x) :=
  medium rfl rfl rfl (by decide) rfl

theorem i32FcvtF32Bf16 (x : I32) : Statement (.i32FcvtF32Bf16 x) :=
  medium rfl rfl rfl (by decide) rfl

theorem i32FcvtF16F32 (x : I32) : Statement (.i32FcvtF16F32 x) :=
  medium rfl rfl rfl (by decide) rfl

theorem i32FcvtBf16F32 (x : I32) : Statement (.i32FcvtBf16F32 x) :=
  medium rfl rfl rfl (by decide) rfl

theorem i32FcvtF32E4m3 (x : I32) : Statement (.i32FcvtF32E4m3 x) :=
  medium rfl rfl rfl (by decide) rfl

theorem i32FcvtF32E5m2 (x : I32) : Statement (.i32FcvtF32E5m2 x) :=
  medium rfl rfl rfl (by decide) rfl

theorem i32IcvtF32I32 (x : I32) : Statement (.i32IcvtF32I32 x) :=
  medium rfl rfl rfl (by decide) rfl

theorem i32IcvtF32N32 (x : I32) : Statement (.i32IcvtF32N32 x) :=
  medium rfl rfl rfl (by decide) rfl

theorem i32IcvtI32F32 (x : I32) : Statement (.i32IcvtI32F32 x) :=
  medium rfl rfl rfl (by decide) rfl

theorem i32IcvtN32F32 (x : I32) : Statement (.i32IcvtN32F32 x) :=
  medium rfl rfl rfl (by decide) rfl

theorem i32Fdot4E4m3 (x : I32) : Statement (.i32Fdot4E4m3 x) :=
  medium rfl rfl rfl (by decide) rfl

theorem i32Fdot4E5m2 (x : I32) : Statement (.i32Fdot4E5m2 x) :=
  medium rfl rfl rfl (by decide) rfl

theorem i32Idot4I8 (x : I32) : Statement (.i32Idot4I8 x) :=
  medium rfl rfl rfl (by decide) rfl

theorem i32Idot4N8 (x : I32) : Statement (.i32Idot4N8 x) :=
  medium rfl rfl rfl (by decide) rfl

theorem i32Hmnx2MinF16 (x : I32) : Statement (.i32Hmnx2MinF16 x) :=
  medium rfl rfl rfl (by decide) rfl

theorem i32Hmnx2MaxF16 (x : I32) : Statement (.i32Hmnx2MaxF16 x) :=
  medium rfl rfl rfl (by decide) rfl

theorem i32Hmnx2MinBf16 (x : I32) : Statement (.i32Hmnx2MinBf16 x) :=
  medium rfl rfl rfl (by decide) rfl

theorem i32Hmnx2MaxBf16 (x : I32) : Statement (.i32Hmnx2MaxBf16 x) :=
  medium rfl rfl rfl (by decide) rfl

theorem i32FaddRdn (x : I32) : Statement (.i32FaddRdn x) :=
  medium rfl rfl rfl (by decide) rfl

theorem i32FaddRup (x : I32) : Statement (.i32FaddRup x) :=
  medium rfl rfl rfl (by decide) rfl

theorem i32FmulRdn (x : I32) : Statement (.i32FmulRdn x) :=
  medium rfl rfl rfl (by decide) rfl

theorem i32FmulRup (x : I32) : Statement (.i32FmulRup x) :=
  medium rfl rfl rfl (by decide) rfl

theorem queueLaunch (q bind : Nat) : Statement (.queueLaunch q bind) :=
  event rfl rfl rfl

theorem binLaunch (q bind : Nat) : Statement (.binLaunch q bind) :=
  event rfl rfl rfl

theorem blockStart (bind cluster : Nat) : Statement (.blockStart bind cluster) :=
  event rfl rfl rfl

theorem trapqRead (core size : Nat) : Statement (.trapqRead core size) :=
  event rfl rfl rfl

theorem wcmdResume (w : Nat) : Statement (.wcmdResume w) :=
  event rfl rfl rfl

theorem ecallDone (core : Nat) : Statement (.ecallDone core) :=
  event rfl rfl rfl

theorem ecallTeardown (core a0 : Nat) : Statement (.ecallTeardown core a0) :=
  event rfl rfl rfl

theorem ecallEscalate (core : Nat) : Statement (.ecallEscalate core) :=
  event rfl rfl rfl

theorem supervisorException (core code : Nat) : Statement (.supervisorException core code) :=
  event rfl rfl rfl

theorem cmdRun (bind : Nat) : Statement (.cmdRun bind) :=
  event rfl rfl rfl

theorem cmdPause (bind : Nat) : Statement (.cmdPause bind) :=
  event rfl rfl rfl

theorem cmdSave (bind : Nat) : Statement (.cmdSave bind) :=
  event rfl rfl rfl

theorem cmdRestore (bind : Nat) : Statement (.cmdRestore bind) :=
  event rfl rfl rfl

theorem cmdTeardown (bind : Nat) : Statement (.cmdTeardown bind) :=
  event rfl rfl rfl

theorem cmdUnassigned (bind code : Nat) : Statement (.cmdUnassigned bind code) :=
  event rfl rfl rfl

theorem blockRestore (img cluster : Nat) : Statement (.blockRestore img cluster) :=
  event rfl rfl rfl

theorem preemption (bind : Nat) : Statement (.preemption bind) :=
  event rfl rfl rfl

theorem priorityAgingStep (bind : Nat) : Statement (.priorityAgingStep bind) :=
  event rfl rfl rfl

theorem dbgResume (q : Nat) : Statement (.dbgResume q) :=
  event rfl rfl rfl

theorem dbgStep (q core slot : Nat) : Statement (.dbgStep q core slot) :=
  event rfl rfl rfl

theorem uncorrectableError (core arr off : Nat) : Statement (.uncorrectableError core arr off) :=
  event rfl rfl rfl

theorem correctableError (core arr off : Nat) : Statement (.correctableError core arr off) :=
  event rfl rfl rfl

theorem errstatClear (core : Nat) : Statement (.errstatClear core) :=
  event rfl rfl rfl

theorem doorbellTail (page val : Nat) : Statement (.doorbellTail page val) :=
  event rfl rfl rfl

theorem doorbellRsend (page val : Nat) : Statement (.doorbellRsend page val) :=
  event rfl rfl rfl

theorem doorbellIrqArm (page val : Nat) : Statement (.doorbellIrqArm page val) :=
  event rfl rfl rfl

theorem hostLaunch (hq : Nat) : Statement (.hostLaunch hq) :=
  event rfl rfl rfl

theorem hostCopy (hq : Nat) : Statement (.hostCopy hq) :=
  event rfl rfl rfl

theorem hostSignalWrite (hq : Nat) : Statement (.hostSignalWrite hq) :=
  event rfl rfl rfl

theorem hostSignalAdd (hq : Nat) : Statement (.hostSignalAdd hq) :=
  event rfl rfl rfl

theorem hostWait (hq : Nat) : Statement (.hostWait hq) :=
  event rfl rfl rfl

theorem hostWaitTimeout (hq : Nat) : Statement (.hostWaitTimeout hq) :=
  event rfl rfl rfl

theorem ctxcfgInstall (hq : Nat) : Statement (.ctxcfgInstall hq) :=
  event rfl rfl rfl

theorem ctxcfgTeardown (hq : Nat) : Statement (.ctxcfgTeardown hq) :=
  event rfl rfl rfl

theorem ctxcfgCreateQueue (hq : Nat) : Statement (.ctxcfgCreateQueue hq) :=
  event rfl rfl rfl

theorem reincfg (hq : Nat) : Statement (.reincfg hq) :=
  event rfl rfl rfl

theorem biasflipToHost (hq : Nat) : Statement (.biasflipToHost hq) :=
  event rfl rfl rfl

theorem biasflipToDevice (hq : Nat) : Statement (.biasflipToDevice hq) :=
  event rfl rfl rfl

theorem hostFence (hq : Nat) : Statement (.hostFence hq) :=
  event rfl rfl rfl

theorem hostDataRead (addr size : Nat) : Statement (.hostDataRead addr size) :=
  event rfl rfl rfl

theorem hostDataWrite (addr size val : Nat) : Statement (.hostDataWrite addr size val) :=
  event rfl rfl rfl

theorem iotinvalVma (ctx addr size : Nat) : Statement (.iotinvalVma ctx addr size) :=
  event rfl rfl rfl

theorem iofenceC (addr val : Nat) : Statement (.iofenceC addr val) :=
  event rfl rfl rfl

theorem iodirInvalDdt (dev : Nat) : Statement (.iodirInvalDdt dev) :=
  event rfl rfl rfl

theorem iodirInvalPdt (dev pid : Nat) : Statement (.iodirInvalPdt dev pid) :=
  event rfl rfl rfl

theorem powerLimitWrite (val : Nat) : Statement (.powerLimitWrite val) :=
  event rfl rfl rfl

theorem clockStep (mhz : Nat) : Statement (.clockStep mhz) :=
  event rfl rfl rfl

theorem perstRelease : Statement .perstRelease :=
  event rfl rfl rfl

theorem moduleReset : Statement .moduleReset :=
  event rfl rfl rfl

theorem functionLevelReset : Statement .functionLevelReset :=
  event rfl rfl rfl

theorem attestationRequest (val : Nat) : Statement (.attestationRequest val) :=
  event rfl rfl rfl

theorem svcClusterOffline (q : Nat) : Statement (.svcClusterOffline q) :=
  event rfl rfl rfl

theorem svcClusterOnline (q : Nat) : Statement (.svcClusterOnline q) :=
  event rfl rfl rfl

theorem svcRetireChannel (ch : Nat) : Statement (.svcRetireChannel ch) :=
  event rfl rfl rfl

theorem svcProceedRetirement (ch : Nat) : Statement (.svcProceedRetirement ch) :=
  event rfl rfl rfl

theorem svcRetrainChannel (ch : Nat) : Statement (.svcRetrainChannel ch) :=
  event rfl rfl rfl

theorem svcFirmwareHandover (val : Nat) : Statement (.svcFirmwareHandover val) :=
  event rfl rfl rfl

theorem ucieModuleFailure (link : Nat) : Statement (.ucieModuleFailure link) :=
  event rfl rfl rfl

theorem twinEnable (val : Nat) : Statement (.twinEnable val) :=
  event rfl rfl rfl

theorem twinRetrain : Statement .twinRetrain :=
  event rfl rfl rfl

theorem linkTrainingComplete (ok : Nat) : Statement (.linkTrainingComplete ok) :=
  event rfl rfl rfl

theorem linkDownEvent (why : Nat) : Statement (.linkDownEvent why) :=
  event rfl rfl rfl

theorem linkAutoRetrain : Statement .linkAutoRetrain :=
  event rfl rfl rfl

theorem collectiveMatch (key opc rcode rtype len src : Nat) : Statement (.collectiveMatch key opc rcode rtype len src) :=
  event rfl rfl rfl

theorem peerReinArrival (val : Nat) : Statement (.peerReinArrival val) :=
  event rfl rfl rfl

theorem peerReinAnswer (n ok : Nat) : Statement (.peerReinAnswer n ok) :=
  event rfl rfl rfl

theorem registerWrite (who addr size val : Nat) : Statement (.registerWrite who addr size val) :=
  event rfl rfl rfl

theorem cacheEviction (core line : Nat) : Statement (.cacheEviction core line) :=
  event rfl rfl rfl

theorem supervisorStore (core addr size val : Nat) : Statement (.supervisorStore core addr size val) :=
  event rfl rfl rfl

theorem badCommand (hq : Nat) : Statement (.badCommand hq) :=
  event rfl rfl rfl

theorem flitReplay (n : Nat) : Statement (.flitReplay n) :=
  event rfl rfl rfl

end Sys2Proof.Laws.Row
end

