-- ==== Sys2Proof/Laws/Report.lean ====
section
/-! SUPPORT. Report.lean: a unit's write to memory, and with it the completion word of a record or a command, stops no wave and starts
none. -/

namespace Sys2Proof.Machine

/-- Every wave is there with the run state it had. -/
abbrev sameRuns (s t : State) : Prop := (t.waves.map fun p => (p.1, p.2.run)) = s.waves.map fun p => (p.1, p.2.run)

theorem sameRuns_trans {s t u : State} (h : sameRuns s t) (h' : sameRuns t u) : sameRuns s u := h'.trans h

theorem sameRuns_only {s t : State} (h : onlyMem s t) : sameRuns s t := by
  obtain ⟨m, rfl⟩ := h
  rfl

theorem sameRuns_fold {α : Type} (f : State → α → State) (hf : ∀ s a, sameRuns s (f s a)) (l : List α) (s : State) :
    sameRuns s (l.foldl f s) := by
  induction l generalizing s with
  | nil => exact rfl
  | cons a l ih => exact sameRuns_trans (hf s a) (ih _)

/-- A wave of the first state is in the second, with its run state. -/
theorem sameRuns_wave {s t : State} (h : sameRuns s t) {w : Nat} {x : Wave} (hx : s.wave w = some x) :
    ∃ y, t.wave w = some y ∧ y.run = x.run := by
  unfold State.wave at *
  have key : ∀ l : Map Wave, (mget l w).map Wave.run = mget (l.map fun p => (p.1, p.2.run)) w := by
    intro l
    induction l with
    | nil => rfl
    | cons a l ih =>
      obtain ⟨k, y⟩ := a
      simp only [mget, List.map_cons]
      split
      · rfl
      · exact ih
  have e : (mget t.waves w).map Wave.run = some x.run := by rw [key, h, ← key, hx]; rfl
  cases ht : mget t.waves w with
  | none => rw [ht] at e; cases e
  | some y => rw [ht] at e; exact ⟨y, rfl, by simpa using e⟩

theorem sameRuns_mapWaves (s : State) (f : Nat → Wave → Wave) (hf : ∀ w x, (f w x).run = x.run) : sameRuns s (s.mapWaves f) := by
  simp [sameRuns, hf, Function.comp_def]

theorem unreserve_runs (s : State) (line : Nat) (p : Nat → Bool) : sameRuns s (s.unreserve line p) := by
  unfold State.unreserve
  dsimp only
  split <;> exact rfl

theorem wrote_runs (s : State) (line : Nat) : sameRuns s (s.wrote line) := by
  unfold State.wrote
  dsimp only
  split
  · exact sameRuns_trans (unreserve_runs s line _) (sameRuns_mapWaves _ _ fun w x => by split <;> rfl)
  · exact unreserve_runs ..

theorem cleanse_only (s : State) (bs : List (Nat × Byte)) : onlyMem s (s.cleanse bs) := by
  unfold State.cleanse
  split
  · exact onlyMem_refl s
  · exact onlyMem_mapMem ..

/-- A write at the point of coherence. -/
theorem cohStore_runs (s : State) (host : Bool) (pa : Nat) (bs : List Byte) (rels : List Rel) : sameRuns s (s.cohStore host pa bs rels) := by
  unfold State.cohStore
  dsimp only
  refine sameRuns_trans (sameRuns_trans (sameRuns_only ?_) (wrote_runs _ _)) (sameRuns_only (cleanse_only ..))
  exact onlyMem_trans (onlyMem_fold _ (fun s c => expel_only s c _) _ s)
    (onlyMem_trans (onlyMem_mapMem ..) (onlyMem_trans (onlyMem_mapMem ..) (onlyMem_mapMem ..)))

theorem sysStore_runs (s : State) (pa : Nat) (bs : List Byte) (rels : List Rel) : sameRuns s (s.sysStore pa bs rels) :=
  sameRuns_fold _ (fun s _ => cohStore_runs s ..) _ s

theorem procCtx_only {s t : State} {pid : Nat} {r : Except Nat (ProcCtx × Bool)} (h : s.procCtx pid = (t, r)) : onlyMem s t := by
  unfold State.procCtx at h
  split at h
  · cases h; exact onlyMem_refl s
  · split at h
    · cases h; exact onlyMem_refl s
    · split at h
      · cases h; exact onlyMem_refl s
      · cases h; exact onlyMem_refl s
      · cases h; exact onlyMem_mapMem ..

/-- A translation, which may set A and D bits. -/
theorem translate_runs {s t : State} {core ctx va : Nat} {k : AccKind} {r : Except Nat Nat} (h : s.translate core ctx va k = (t, r)) :
    sameRuns s t := by
  unfold State.translate at h
  dsimp only at h
  split at h
  · cases h; exact rfl
  split at h
  · rename_i hp; cases h; exact sameRuns_only (procCtx_only hp)
  rename_i u p dev hp
  refine sameRuns_trans (sameRuns_only (procCtx_only hp)) ?_
  split at h
  · cases h; exact rfl
  have last : ∀ {v : State} {f : State × Except Nat (Nat × Nat)}, sameRuns u f.1 →
      (match f with
        | (s, .error e) => ((s, .error e) : State × Except Nat Nat)
        | (s, .ok (pte, bits)) =>
          match (pteDenies k pte).orElse fun _ => if dev then some 8 else none with
          | some r => (s, .error r)
          | none => if s.inMemory (pteAddr pte bits va) then (s, .ok (pteAddr pte bits va)) else (s, .error 10)) = (v, r) → sameRuns u v := by
    intro v f hf hv
    split at hv
    · cases hv; exact hf
    · split at hv
      · cases hv; exact hf
      · split at hv <;> (cases hv; exact hf)
  refine last ?_ h
  split
  · exact rfl
  · split
    · exact rfl
    · rename_i pte _ _ _
      split
      · exact rfl
      · split
        · exact rfl
        · dsimp only
          refine sameRuns_trans ?_ (sameRuns_only (onlyMem_mapMem _ _))
          generalize (pte ||| 2 ^ 6 ||| if k = .store ∨ k = .rmw then 2 ^ 7 else 0) = pte'
          split
          · exact rfl
          · exact cohStore_runs ..

theorem translateRun_runs {core ctx : Nat} {k : AccKind} (fuel : Nat) {s t : State} {va n : Nat} {r : Except (Nat × Nat) (List (Nat × Nat))}
    (h : s.translateRun core ctx k fuel va n = (t, r)) : sameRuns s t := by
  induction fuel generalizing s va n r with
  | zero => cases h; exact rfl
  | succ fuel ih =>
    unfold State.translateRun at h
    dsimp only at h
    split at h
    · cases h; exact rfl
    · split at h
      · rename_i hx; cases h; exact translate_runs hx
      · rename_i hx
        split at h
        · rename_i hy; cases h; exact sameRuns_trans (translate_runs hx) (ih hy)
        · rename_i hy; cases h; exact sameRuns_trans (translate_runs hx) (ih hy)

theorem devWrite_runs {s t : State} {ctx va : Nat} {bs : List Byte} {rels : List Rel} {b : Bool} (h : s.devWrite ctx va bs rels = (t, b)) :
    sameRuns s t := by
  unfold State.devWrite at h
  split at h
  · rename_i hx; cases h; exact translateRun_runs _ hx
  · rename_i v rs hx
    cases h
    refine sameRuns_trans (translateRun_runs _ hx) ?_
    have key : ∀ (rs : List (Nat × Nat)) (a : State × Nat),
        sameRuns a.1 (rs.foldl (fun (a : State × Nat) r => (a.1.sysStore r.1 ((bs.drop a.2).take r.2) rels, a.2 + r.2)) a).1 := by
      intro rs
      induction rs with
      | nil => intro a; exact rfl
      | cons r rs ih => intro a; exact sameRuns_trans (sysStore_runs ..) (ih _)
    exact key rs (v, 0)

theorem qWrite_runs {s t : State} {ctx va : Nat} {bs : List Byte} {rels : List Rel} {b : Bool} (h : s.qWrite ctx va bs rels = (t, b)) :
    sameRuns s t := by
  unfold State.qWrite at h
  split at h
  · exact devWrite_runs h
  · split at h
    · cases h; exact sysStore_runs ..
    · cases h; exact rfl

theorem logFault_runs (s : State) (ctx : Nat) (k : AccKind) (reason va : Nat) : sameRuns s (s.logFault ctx k reason va) := by
  unfold State.logFault
  dsimp only
  split
  · exact rfl
  · split
    · exact rfl
    · split
      · exact rfl
      · exact sameRuns_trans (cohStore_runs ..) (sameRuns_only (onlyMem_mapMem ..))

/-- The report of a record. -/
theorem report_runs (s : State) (ctx : Nat) (r : Nat × Nat × Nat) (status : Nat) (f : FailTo) (d : Done) : sameRuns s (s.report ctx r status f d) := by
  have fails : ∀ u : State, sameRuns u (u.countFail f) := fun u => by unfold State.countFail; split <;> exact rfl
  unfold State.report
  dsimp only
  split
  · split
    · exact fails s
    · exact rfl
  · refine sameRuns_trans (sameRuns_only (pushDown_only s r.2.2 fun _ => true)) ?_
    have written : ∀ {u t : State} {c tag st de : Nat} {rels : List Rel} {b : Bool}, u.reportAt ctx c tag st de rels = (t, b) → sameRuns u t := by
      intro u t c tag st de rels b h
      unfold State.reportAt at h
      split at h
      · cases h; exact rfl
      · exact devWrite_runs h
    split
    · rename_i h; exact written h
    · rename_i h
      refine sameRuns_trans (written h) (sameRuns_trans ?_ (fails _))
      unfold State.logWork
      split
      · rename_i h; exact sameRuns_trans (translateRun_runs _ h) (logFault_runs ..)
      · rename_i h; exact translateRun_runs _ h

/-- A command's word. -/
theorem hostWord_runs (s : State) (hq : Nat) (q : HostQ) (bytes : List Byte) (status : Nat) (d : Done) : sameRuns s (s.hostWord hq q bytes status d) := by
  unfold State.hostWord
  dsimp only
  split
  · exact rfl
  · refine sameRuns_trans (sameRuns_only (pushDown_only s 5 fun _ => true)) ?_
    split
    · rename_i h; exact qWrite_runs h
    · rename_i h
      refine sameRuns_trans (qWrite_runs h) ?_
      split
      · split <;> exact rfl
      · exact rfl

/-- An interim word of a command. -/
theorem hostInterim_runs (s : State) (hq idx status : Nat) (d : Done) : sameRuns s (s.hostInterim hq idx status d) := by
  unfold State.hostInterim
  split
  · exact rfl
  · split
    · exact rfl
    · exact hostWord_runs ..

end Sys2Proof.Machine
end

