-- ==== Sys2Proof/Tests/Slice0.lean ====
section
/-! SUPPORT. Tests/Slice0.lean: own checks. First what the decoder reads and refuses; then results of the spec's worked
examples; then, for each obligation with hypotheses, a state and operands that meet them. -/

namespace Sys2Proof.Tests

set_option Elab.async false

open Sys2Proof Sys2Proof.Machine

/-! ## What is well formed -/

/-- R47 to R57: instructions that pass every check that needs no state. -/
theorem test_well_formed :
    ([.iadd { d := 1#8, a := 2#8, b := 3#8 }, .iadd { lit := some 5#32, d := 1#8, a := 2#8 },
      .iadd { d := 2#8, dW := 1#2, a := 4#8, aW := 1#2, b := 6#8, bW := 1#2, md := 2#5 },
      .iaddU { d := 4#8, a := 5#8, b := 6#8, aS := true, bS := true }, .bra { lit := some 4#32 },
      .brx { a := 8#8, aW := 1#2 } [0x400#32], .cIadd { d := 3#5, b := 7#5 }, .i32Iadd { d := 1#7, a := 2#7, b := 3#7, stall := 0#3 }]
      : List Instr).all Instr.wellFormed = true := by
  decide +kernel

/-- Row 4 of R70, one ill-formed term for each check: SET 7; a literal where none may stand; none where one must; an odd target;
an unused D, its width, an S bit of a v operand; a MOD without a meaning; a rounding code without one; an s index of 64; a k
index of 8; a uniform form without its S bit; B of a single-source I32 row; C16's parcel 0x0000; a C literal beyond its bits, one
of an s register above 63. -/
theorem test_refuses_encodings :
    ([.iadd { set := 7#3, d := 1#8 }, .kand { lit := some 0#32, d := 1#8 }, .bra {}, .bra { lit := some 1#32 },
      .exit { d := 1#8 }, .exit { dW := 1#2 }, .kand { d := 1#8, aS := true }, .iadd { md := 0x1F#5 }, .fadd { md := 7#5 },
      .iaddU { d := 64#8, aS := true, bS := true }, .kand { d := 8#8 }, .iaddU { aS := true },
      .i32Mov { d := 1#7, a := 2#7, b := 1#7, stall := 0#3 }, .cMov { d := 0#5, b := 0#5 }, .ffma { lit := some 0x800#32 },
      .ffma { lit := some (0x400#32 ||| 64#32) }]
      : List Instr).all (fun i => !i.encLegal) = true := by
  decide +kernel

/-- R58: a target list holds 1 to 1,024 even offsets. -/
theorem test_refuses_target_lists :
    (([.brx { a := 8#8, aW := 1#2 } [], .brx { a := 8#8, aW := 1#2 } [3#32], .callx { d := 2#8, dW := 1#2, a := 8#8, aW := 1#2 } []]
      : List Instr).all fun i => !i.encLegal) = true
    ∧ (Instr.brx { a := 8#8, aW := 1#2 } (List.replicate 1025 4#32)).encLegal = false := by
  decide +kernel

/-- Row 5 of R70: a pair at an odd index, a quad at an index of 2, a width on an operand that is always single, and a single
where a pair must stand. -/
theorem test_refuses_operands :
    ([.iadd { d := 1#8, dW := 1#2, a := 2#8, aW := 1#2, b := 4#8, bW := 1#2, md := 2#5 }, .rngx { d := 2#8, dW := 2#2, a := 2#8, aW := 1#2, b := 4#8, bW := 2#2, aS := true },
      .kand { d := 1#8, aW := 1#2 }, .ret { a := 8#8 }] : List Instr).all (fun i => i.encLegal && !i.opndLegal) = true := by
  decide +kernel

/-! ## What the decoder reads -/
/-- Words of R51, field by field: integer. -/
theorem test_decode_integer :
    decodeTableWord 64 0x380C028000006 = some (.iadd { d := 5#8, a := 6#8, b := 7#8, md := 0#5 })
    ∧ decodeTableWord 64 0x200501284000001A = some (.imad { d := 8#8, dW := 1#2, a := 9#8, b := 10#8, md := 4#5 })
    ∧ decodeTableWord 96 0x3200000400800002F = some (.shr { lit := some 0x3#32, d := 1#8, a := 2#8, md := 4#5 })
    ∧ decodeTableWord 64 0x4002808018000062 = some (.icmp { d := 3#8, a := 4#8, b := 5#8, md := 8#5 })
    ∧ decodeTableWord 64 0x60B02A0A0000106 = some (.iaddU { d := 20#8, a := 21#8, b := 22#8, aS := true, bS := true })
    ∧ decodeTableWord 96 0x110000000050000103 = some (.movU { lit := some 0x11#32, d := 10#8 }) := by
  decide +kernel

/-- Words of R51, field by field: float. -/
theorem test_decode_float :
    decodeTableWord 64 0xB02A0A000020A = some (.fmul { d := 20#8, a := 21#8, b := 22#8 })
    ∧ decodeTableWord 64 0x100401201000021E = some (.fcmp { d := 2#8, a := 9#8, b := 8#8, md := 2#5 })
    ∧ decodeTableWord 64 0x180400800024A = some (.hfma2 { d := 1#8, a := 2#8, b := 3#8 })
    ∧ decodeTableWord 64 0x80300A020000262 = some (.fdot4 { d := 4#8, a := 5#8, b := 6#8, md := 1#5 })
    ∧ decodeTableWord 64 0x1203800028A = some (.frcp { d := 7#8, a := 9#8 })
    ∧ decodeTableWord 64 0x3062050400002E2 = some (.rngx { d := 8#8, dW := 2#2, a := 2#8, aW := 1#2, b := 12#8, bW := 2#2, aS := true })
    ∧ decodeTableWord 64 0x2C6 = some (.tblcommit {  }) := by
  decide +kernel

/-- Words of R51, field by field: predicate. -/
theorem test_decode_predicate :
    decodeTableWord 64 0x1804008000402 = some (.kand { d := 1#8, a := 2#8, b := 3#8 })
    ∧ decodeTableWord 64 0xA0000A008000412 = some (.kmovKS { d := 1#8, a := 5#8, aS := true, md := 1#5 })
    ∧ decodeTableWord 64 0x1000000000000442 = some (.lpart { md := 2#5 })
    ∧ decodeTableWord 96 0x11800008018000447 = some (.shfl { lit := some 0x1#32, d := 3#8, a := 4#8, md := 3#5 })
    ∧ decodeTableWord 64 0x80000400800044A = some (.vote { d := 1#8, a := 2#8, md := 1#5 }) := by
  decide +kernel

/-- Words of R51, field by field: control. -/
theorem test_decode_control :
    decodeTableWord 96 0x1000000000000024503 = some (.bra { lit := some 0x100#32, gk := 1#3, gn := true })
    ∧ decodeTableWord 64 0x228000000512 = some (.ret { a := 20#8, aW := 1#2 })
    ∧ decodeTableWord 64 0x20051A = some (.exit { wait := 1#6 })
    ∧ decodeTableWord 64 0x3D22 = some (.nop { stall := 7#3 })
    ∧ decodeTableWord 96 0x50000000000000543 = some (.trap { lit := some 0x5#32 })
    ∧ decodeTableWord 96 0x90000000830000553 = some (.srd { lit := some 0x9#32, d := 6#8, dW := 1#2 })
    ∧ decodeTableWord 96 0x408000000F0000557 = some (.quotaRel { lit := some 0x4#32, d := 30#8, md := 1#5 })
    ∧ decodeTableWord 64 0x80000000000055A = some (.icinvAll { md := 1#5 }) := by
  decide +kernel

/-- Words of R51, field by field: memory. -/
theorem test_decode_memory :
    decodeTableWord 64 0x2000210028040602 = some (.ld { d := 5#8, a := 8#8, aW := 1#2, set := 1#3, md := 4#5 })
    ∧ decodeTableWord 96 0x8200200600000060F = some (.sts { lit := some 0x8#32, a := 3#8, b := 4#8, md := 4#5 })
    ∧ decodeTableWord 64 0x8080218820C40642 = some (.atom { set := 1#3, wait := 6#6, d := 4#8, dW := 1#2, a := 12#8, aW := 1#2, bW := 1#2, md := 16#5 })
    ∧ decodeTableWord 64 0x66E = some (.mlabort {  })
    ∧ decodeTableWord 64 0x100000000000068A = some (.fence { md := 2#5 }) := by
  decide +kernel

/-- Words of R51, field by field: synchronisation. -/
theorem test_decode_synchronisation :
    decodeTableWord 96 0x4000000000000200713 = some (.barsync { lit := some 0x400#32, wait := 1#6 })
    ∧ decodeTableWord 96 0x10200006000000723 = some (.semadd { lit := some 0x1#32, a := 3#8, aS := true })
    ∧ decodeTableWord 64 0x403000028000736 = some (.monwait { d := 5#8, b := 6#8, bS := true })
    ∧ decodeTableWord 96 0x20000000000000747 = some (.cpwait { lit := some 0x2#32 })
    ∧ decodeTableWord 64 0x80000104000076A = some (.rtakeAny { d := 8#8, dW := 2#2, md := 1#5 })
    ∧ decodeTableWord 96 0x3080000000000076F = some (.rmaskClr { lit := some 0x3#32, md := 1#5 }) := by
  decide +kernel

/-- Words of R51, field by field: harness. -/
theorem test_decode_harness :
    decodeTableWord 96 0x101800000000000783 = some (.hmust { lit := some 0x10#32, md := 3#5 })
    ∧ decodeTableWord 64 0x792 = some (.hswap {  })
    ∧ decodeTableWord 64 0x120041000000078E = some (.hldb { a := 8#8, aW := 2#2, aS := true, md := 2#5 })
    ∧ decodeTableWord 64 0x4048000200007A6 = some (.hdrnReg { d := 4#8, b := 9#8, bS := true })
    ∧ decodeTableWord 64 0x10600007AE = some (.hstat { d := 12#8, dW := 2#2 }) := by
  decide +kernel

/-- Words of R51, field by field: work. -/
theorem test_decode_work :
    decodeTableWord 64 0x402A080180007C2 = some (.tqpush { d := 3#8, a := 4#8, aW := 1#2, b := 5#8, bS := true })
    ∧ decodeTableWord 64 0x2080180007CA = some (.launch { d := 3#8, a := 4#8, aW := 1#2 })
    ∧ decodeTableWord 64 0x2000070400007DA = some (.bstat { d := 8#8, dW := 2#2, a := 3#8, aS := true }) := by
  decide +kernel

/-- The short formats: the C16 parcel of R49, the I32 word of R50, and the FFMA with a C operand of R55. -/
theorem test_decode_short :
    decodeTableWord 16 0x38C4 = some (.cIadd { d := 3#5, b := 7#5 })
    ∧ decodeTableWord 32 0xA78A0A69 = some (.i32Ffma { d := 10#7, a := 20#7, b := 30#7, stall := 5#3 })
    ∧ decodeTableWord 96 0xF000701A060002A0F =
        some (.ffma { lit := some 15#32, stall := 5#3, d := 12#8, a := 13#8, b := 14#8 }) := by
  decide +kernel

/-- A CALLX with its list of two entries, as R112's example lays them out. -/
theorem test_decode_list :
    decode (leBytes 8 0x000022C8A0001D0E ++ leBytes 4 0x00020000 ++ leBytes 4 0x400 ++ leBytes 4 0x480)
      = .ok (.callx { stall := 3#3, d := 20#8, dW := 1#2, a := 22#8, aW := 1#2 } [0x400#32, 0x480#32]) := by
  decide +kernel

/-- What no row of the table is: the parcel 0x0000, an OP without a row, and a list header of zero (R49, R58, R70). -/
theorem test_decode_refuses :
    decodeTableWord 16 0 = none ∧ decodeTableWord 64 (0x1F8 * 4 + 2) = none ∧ decodeTableWord 64 (0x141 * 4 + 2) = none := by
  decide +kernel
/-! ## A small machine -/

/-- After reset with an instruction of zeros placed: one wave of 32 threads on core 0. -/
def base : State := { State.reset.withFetchWord 64 0 with cur := 0 }

/-- The block of that wave with a scratchpad region of 4,096 bytes, two barriers of its core, one of its cluster, four semaphores
and a table pair. -/
def rigBlock : Block := { fetchBlock with sp := [(0, 0, 4096)], bars := 2, cn := 1, sems := 4, tbl := true }

/-- The base with that block, 1 GiB of device memory at 0 translated one to one, and two configured clusters. -/
def rig : State :=
  { base with
    wk := { base.wk with blocks := [(0, rigBlock)], ctxs := [(0, { valid := true })] }
    co := { base.co with tbls := [(0, { blk := 0, bank0 := [], bank1 := [], sel := 0 })] }
    m := { base.m with
      tlb := [{ unit := 0, pscid := 0, page := 0, bits := 30, pte := 0xDF }]
      iommu := { procs := [{ pid := 0, pscid := 0, levels := 4, root := 0, ade := false }] } }
    pk := { base.pk with topo := { base.pk.topo with memsize := 2 ^ 30, clusters := 3, cores := 0xFF } } }

/-- Its wave. -/
def wave0 (s : State) : Wave := (s.wave 0).getD (startWave fetchBlock 0 0 0 [])

/-- An s register set. -/
def sset (s : State) (n v : Nat) : State := s.modWave 0 fun x => x.swrite n (BitVec.ofNat 32 v)

/-- A v register set, a value for each lane. -/
def vset (s : State) (n : Nat) (f : Nat → Nat) : State :=
  (List.range 32).foldl (fun s l => s.vwrite 0 (wave0 s) n l (BitVec.ofNat 32 (f l)) 0) s

/-- The state after an instruction. -/
def after (i : Instr) (s : State) : State := match exec i s with | .next t => t | _ => s

/-- What the wave's latest issue has pending. -/
def todo (i : Instr) (s : State) : Option Work := ((wave0 (after i s)).pend.getLast?).map Pend.work

/-- The results it has pending for a lane of a v register. -/
def result (i : Instr) (s : State) (n l : Nat) : Option Word :=
  match todo i s with
  | some (.regs ws) => ws.findSome? fun r => match r with | .v m k x _ => if m = n ∧ k = l then some x else none | _ => none
  | _ => none

/-! ## Results of the spec's examples -/

/-- The result of an integer row for A and B in v2 and v3 of every lane, D holding c. -/
def intResult (i : Body → Instr) (md : BitVec 5) (a b : Nat) (c : Nat := 0) : Option Word :=
  result (i { d := 1#8, a := 2#8, b := 3#8, md := md }) (vset (vset (vset rig 1 fun _ => c) 2 fun _ => a) 3 fun _ => b) 1 1

/-- The worked results of R104, with three operands. -/
theorem test_integer_arithmetic :
    intResult .iadd 0#5 0x7FFFFFF0 0x20 = some 0x80000010#32 ∧ intResult .iadd 4#5 0x7FFFFFF0 0x20 = some 0x7FFFFFFF#32
    ∧ intResult .iadd 5#5 0xFFFFFFF0 0x20 = some 0xFFFFFFFF#32 ∧ intResult .isub 5#5 5 7 = some 0#32
    ∧ result (.iabs { d := 1#8, a := 2#8 }) (vset rig 2 fun _ => 0x80000000) 1 0 = some 0x80000000#32
    ∧ result (.iabs { d := 1#8, a := 2#8, md := 4#5 }) (vset rig 2 fun _ => 0x80000000) 1 0 = some 0x7FFFFFFF#32
    ∧ intResult .imulh 0#5 0xFFFFFFFF 2 = some 0xFFFFFFFF#32 ∧ intResult .imulh 1#5 0xFFFFFFFF 2 = some 1#32 := by
  decide +kernel

/-- The worked results of R104 for shifts, fields and bytes. -/
theorem test_integer_bits :
    intResult .shl 0#5 1 0x20 = some 0#32 ∧ intResult .shr 4#5 0x80000000 0x28 = some 0xFFFFFFFF#32
    ∧ intResult .rot 0#5 0x80000001 0x21 = some 3#32 ∧ intResult .bfe 0#5 0xF00 0x408 = some 0xFFFFFFFF#32
    ∧ intResult .bfe 1#5 0xF00 0x408 = some 0xF#32
    ∧ result (.clz { d := 1#8, a := 2#8 }) rig 1 0 = some 0x20#32
    ∧ intResult .prmt 0#5 0x44332211 0xFC40 0x88776655 = some 0xFF005511#32 := by
  decide +kernel

/-- The worked chunk in MXFP4 (R42). -/
theorem test_mxfp4_chunk :
    dotChunk .e2m1 (some (0x7F, 0x81)) ([7, 0, 0, 0, 0, 0xB] ++ List.replicate 11 0 ++ [1] ++ List.replicate 13 0 ++ [5])
      ([6, 0, 0, 0, 0, 5] ++ List.replicate 11 0 ++ [1] ++ List.replicate 13 0 ++ [0xC]) 0x4B800000 = (0x4B80001C, Cond.nx) := by
  decide +kernel

/-- The worked chunk in MXFP6 (R42). -/
theorem test_mxfp6_chunk :
    dotChunk .e2m3 (some (1, 0x6A)) ([0, 0, 0x1F, 1, 0, 0, 0, 0, 0, 9] ++ List.replicate 22 0)
      ([0, 0, 0x1F, 8, 0, 0, 0, 0, 0, 0x3B] ++ List.replicate 22 0) 0x80000064 = (0x65, Cond.uf ||| Cond.nx) := by
  decide +kernel

/-- The worked conversion to .e4m3 with saturation (R129), from one lane's v8 to v11. -/
theorem test_fcvt :
    result (.fcvt { d := 4#8, a := 8#8, aW := 2#2, b := 4#8, md := 8#5 })
      (vset (vset (vset (vset rig 8 fun _ => 0x3F800000) 9 fun _ => 0x43FA0000) 10 fun _ => 0x3B000000) 11 fun _ => 0x7FC00000) 4 0
      = some 0x7F017E38#32 := by
  decide +kernel

/-- The worked reduction: tiles of four, the tree of R150, and NX in the flags. -/
theorem test_redux :
    let s := vset (rig.modWave 0 fun x => { x with ts := 3 }) 6 fun l => [0x4B800000, 0x3F800000, 0x3F800000, 0xCB800000].getD (l % 4) 0
    let t := after (.redux { d := 7#8, a := 6#8, md := 8#5 }) s
    result (.redux { d := 7#8, a := 6#8, md := 8#5 }) s 7 3 = some 0x3F800000#32 ∧ (wave0 t).wcw = 1#32 := by
  decide +kernel

/-- The worked conflict count of R160: 8 passes with the swizzle off, and 1 with it on. -/
theorem test_passes :
    (passesOf false (fun a : Nat => (a, 4)) ((List.range 32).map fun l => 128 * l)).length = 8
    ∧ (passesOf true (fun a : Nat => (a, 4)) ((List.range 32).map fun l => 128 * l)).length = 1 := by
  decide +kernel

/-- R160, R17: of STS.n64 lanes at 512, 0 and 4, no two words of a bank lie in one pass, and lane 2 does not write the word at 4 before
lane 1. -/
theorem test_passes_n64 :
    let ps := passesOf false (fun a : Nat × Nat => (a.2, 8)) [(0, 512), (1, 0), (2, 4)]
    ps.length = 2 ∧ (ps.findIdx fun p => p.contains (1, 0)) ≤ ps.findIdx fun p => p.contains (2, 4) := by
  decide +kernel

/-- R150: a NaN result of a scan is canonical, also in the first lane of a tile. -/
theorem test_canonical :
    result (.scan { d := 7#8, a := 6#8, md := 8#5 }) (vset rig 6 fun l => if l = 0 then 0x7FC12345 else 0) 7 0 = some 0x7FC00000#32 := by
  decide +kernel

/-- The worked call of R112: even lanes go to 0x2400 and odd lanes to 0x2480, and v20p takes the address after the list. -/
theorem test_callx :
    let s := vset (rig.modWave 0 fun x => x.mapLanes fun _ y => { y with pc := 0x2000#64 }) 22 fun l => if l % 2 = 0 then 0x2400 else 0x2480
    let i : Instr := .callx { stall := 3#3, d := 20#8, dW := 1#2, a := 22#8, aW := 1#2 } [0x400#32, 0x480#32]
    ((wave0 (after i s)).lane 0).pc = 0x2400#64 ∧ ((wave0 (after i s)).lane 31).pc = 0x2480#64 ∧ result i s 20 5 = some 0x2014#32
    ∧ ((wave0 (after i (vset s 22 fun l => if l = 31 then 0x2404 else 0x2400))).frame.map fun f => f.trap)
        = some { cause := .targetFault, mask := 0x80000000#32 } := by
  decide +kernel

/-- R115: TRAP names its code, its lanes and its own address. -/
theorem test_trap :
    ((wave0 (after (.trap { lit := some 5#32 }) rig)).frame.map fun f => (f.trap.cause, f.trap.sub, f.trap.mask, f.pc))
      = some (.userTrap, 5, 0xFFFFFFFF#32, 0x1000) := by
  decide +kernel

/-- R196: 32 arrivals complete a phase whose target is 32; R199: SEMADD wraps. -/
theorem test_synchronisation :
    let s := sset rig 2 32
    let t := after (.barinit { a := 3#8, aS := true, b := 2#8, bS := true }) s
    let u := after (.bararv { lit := some 0#32 }) (t.modWave 0 fun x => { x with next := 0 })
    ((u.co.bars.map Prod.snd).map fun b => (b.target, b.phase, b.arr)) = [(32, 1, 0)]
    ∧ ((after (.semadd { lit := some 0xFFFFFFFF#32, a := 3#8, aS := true }) (rig.setSem 0 2)).sem 0) = 1 := by
  decide +kernel

/-- R113: EXIT under k1 ends the lanes of k1 alone. -/
theorem test_exit :
    let s := rig.modWave 0 fun x => x.kwrite 1 0x0000FFFF#32
    (wave0 (after (.exit { gk := 1#3 }) s)).lanesIn .exited = 0x0000FFFF#32
    ∧ (wave0 (after (.exit { gk := 1#3, gn := true }) s)).lanesIn .exited = 0xFFFF0000#32 := by
  decide +kernel

/-- R260's example: the load of v5 misses at lanes 4 to 7, and traps with PAGE_FAULT at the lowest one's address. -/
theorem test_page_fault :
    ((wave0 (after (.ld { d := 5#8, a := 8#8, aW := 1#2, set := 1#3, md := 4#5 })
        (vset rig 9 fun l => if l / 4 = 1 then 1 else 0))).frame.map fun f => (f.trap.cause, f.trap.addr, f.trap.mask))
      = some (.pageFault, 2 ^ 32, 0xF0#32) := by
  decide +kernel
/-! ## Witnesses

One theorem for each obligation that has hypotheses: states and operands that meet all of them, one for each clause, at a
boundary of its range where it has one. -/

/-- The instruction is well formed, and an issue of it starts and meets a condition. -/
def Meets (i : Instr) (s : State) (p : Issue → Bool) : Prop := i.wellFormed = true ∧ ∃ c, Starts i s c ∧ p c = true

/-- The check of `Meets`. -/
def meets (i : Instr) (s : State) (p : Issue → Bool) : Bool :=
  i.wellFormed && match s.issuer i.core i.span with
  | some c => (s.precheck c).isNone && c.con != 0#32 && p c
  | none => false

theorem meets_of {i : Instr} {s : State} {p : Issue → Bool} (h : meets i s p = true) : Meets i s p := by
  unfold meets at h
  rw [Bool.and_eq_true] at h
  refine ⟨h.1, ?_⟩
  have h := h.2
  split at h
  · rename_i c hc
    simp only [Bool.and_eq_true, Option.isNone_iff_eq_none, bne_iff_ne] at h
    exact ⟨c, ⟨hc, h.1.1, h.1.2⟩, h.2⟩
  · cases h

/-- A list of instructions, states and conditions, each of which some issue meets. -/
abbrev Cases := List (Instr × State × (Issue → Bool))

def AllMeet (l : Cases) : Prop := ∀ q ∈ l, Meets q.1 q.2.1 q.2.2

theorem allMeet_of {l : Cases} (h : (l.all fun q => meets q.1 q.2.1 q.2.2) = true) : AllMeet l :=
  fun q hq => meets_of (List.all_eq_true.mp h q hq)

/-- No further condition. -/
def any' : Issue → Bool := fun _ => true

/-- A check that answered. -/
def answered {α β ε : Type} (r : α × Except ε β) : Bool := match r.2 with | .ok _ => true | .error _ => false

/-- The wave changed. -/
def onWave (s : State) (f : Wave → Wave) : State := s.modWave 0 f

/-- Its block changed. -/
def onBlock (s : State) (f : Block → Block) : State := { s with wk := { s.wk with blocks := mmod s.wk.blocks 0 f } }

/-- A pending instruction of stamp 0 that is due. -/
def pendOf (k : Work) (dst : List RegRef := []) : Pend :=
  { stamp := 0, slot := 0, due := 0, hold := false, pc := 0x1000, act := 1#32, con := 1#32, iwords := [], dst := dst, src := [], work := k }

/-- The wave with it. -/
def pends (s : State) (k : Work) : State := onWave s fun x => { x with pend := [pendOf k] }

/-- Memory with some bytes listed. -/
def withMem (s : State) (cs : List Host.Cell) : State := { s with m := { s.m with mem := cs } }

/-- Line 5 in core 0's L1 with one byte written. -/
def dirtyLine : State := { rig with m := { rig.m with l1 := [(128 * 5, { full := false, snap := [], dirty := [(127, 7#8)], tagged := false })], own := [(5, 0)] } }

/-! ### Encoding, the step and the issue -/

theorem witness_DecodeUndoesEncode :
    ([.iadd { d := 255#8, a := 1#8, b := 2#8 }, .callx { d := 2#8, dW := 1#2, a := 4#8, aW := 1#2 } [0xFFFFFFFE#32], .cShl { d := 31#5, b := 31#5 },
      .i32Ffma { d := 127#7, a := 1#7, b := 2#7, stall := 7#3 }] : List Instr).all (fun i => i.isInstruction && i.wellFormed) = true := by
  decide +kernel

theorem witness_DecodedIsWellFormed : decode [0xC4#8, 0x38#8] = .ok (.cIadd { d := 3#5, b := 7#5 }) := by decide +kernel

/-- The wave is ready to issue from code, and its bytes decode as the test says. -/
noncomputable def readyWith (s : State) (p : Except DecodeError Instr → Bool) : Bool :=
  s.agenda == [] && s.due.isNone && s.overdue.isNone && (s.readyWave fun v => s.asksQuota v && s.poolBusy) == some 0 && (s.wave 0).any fun x =>
    x.replay.isNone && x.hit.isNone && (x.pend.all fun p => !p.work.isCheck) && x.issuePc == some 0x1000 && (s.breakAt 0 x 0x1000).isNone &&
      match s.fetch 0 x 0x1000 with
      | .ok bs => p (decode bs)
      | .error _ => false

theorem witness_StepRunsDecoded :
    readyWith (State.reset.withFetchWord 64 0x0404852140A0D20A) (fun r => match r with | .ok _ => true | .error _ => false) = true
    ∧ ({ base with agenda := [.event (.clockStep 1975)] } : State).agenda = [.event (.clockStep 1975)] ∧ isEvent (.clockStep 1975) = true := by
  decide +kernel

/-- Two ready waves of row 0: before any issue the one of slot 0 is the first from the slot after 15, and after an issue of slot 0 the other one
(R83). -/
theorem witness_StepRunsDecoded_turns :
    let s := State.reset.withFetchWord 64 0x0404852140A0D20A
    let two : State := { s with waves := s.waves ++ [(1, { wave0 s with uid := 1, widx := 1 })] }
    let next : State := { two with co := { two.co with rr := [(0, 0)] } }
    (two.readyWave (fun _ => false) = some 0 ∧ two.readyIn 0 = some 0) ∧ next.readyIn 0 = some 1 ∧ two.waves.all (fun p => two.ready p.1 p.2) = true := by
  decide +kernel

/-- A step that answers a next state. -/
def isNext (o : Out) : Bool := match o with | .next _ => true | _ => false

theorem next_of {o : Out} (h : isNext o = true) : ∃ t, o = .next t := by
  cases o with
  | next t => exact ⟨t, rfl⟩
  | fault _ => cases h
  | refused _ => cases h

theorem witness_StepKeepsMemory : MemOk rig ∧ ∃ t, step { rig with agenda := [.event (.clockStep 1975)] } = .next t :=
  ⟨by unfold MemOk; decide +kernel, next_of (by decide +kernel)⟩

theorem witness_NothingStops :
    mrising rig.waves = true ∧ isEvent (.waveRetire 0) = true ∧ Meets (.nop {}) rig any'
    ∧ Instr.isInstruction (.nop {}) = true ∧ State.reset.issuer (.nop {}) 8 = none :=
  ⟨by decide +kernel, by decide +kernel, meets_of (by decide +kernel), by decide +kernel, by decide +kernel⟩

/-- An issue whose checks come to the result given. -/
def checked (i : Instr) (s : State) (p : Issue → Option Trap → Bool) : Bool :=
  match s.issuer i.core i.span with
  | some c => p c (s.precheck c)
  | none => false

theorem witness_GuardedOff :
    ([.iadd { d := 1#8, gn := true }, .trap { lit := some 1#32, gn := true }, .hrel { gn := true }] : List Instr).all (fun i =>
      i.isInstruction && checked i rig fun c t => t.isNone && c.con == 0#32) = true
    ∧ (0 < 32 ∧ 31 < 32) := by
  decide +kernel

/-- A register beyond the allocation of one granule, and bytes that decode to nothing, to an unknown OP and to an ill-formed pair. -/
theorem witness_FailedCheckTraps :
    checked (.iadd { d := 8#8, a := 1#8, b := 2#8 }) (onWave rig fun x => { x with gmap := [0] }) (fun _ t => t.isSome) = true
    ∧ [(16, 0), (64, 0x1F8 * 4 + 2), (64, 0x144 * 4 + 2 + 2 ^ 37)].all (fun q =>
        readyWith (State.reset.withFetchWord q.1 q.2) fun r => match r with | .ok _ => false | .error _ => true) = true := by
  decide +kernel

theorem witness_TrapSavesTheWave : Meets (.nop {}) rig fun c => c.x.hit.isNone && c.x.pend.all fun p => !p.work.isCheck :=
  meets_of (by decide +kernel)

theorem witness_IssueAdvances :
    Meets (.nop { set := 6#3, stall := 7#3 }) rig fun c => decide (rig.wave c.w = some c.x) && !c.replay && decide (31 < c.x.lanes.length) :=
  meets_of (by decide +kernel)

/-- Every live lane has an epoch of at least 1; an effect that stays where it is. -/
theorem witness_IssueAdvances_epochs :
    (Meets (.nop {}) (onWave rig fun x => x.mapLanes fun l y => { y with ep := l + 1 }) fun c =>
      c.x.lanes.all fun y => y.st == .live && decide (1 ≤ y.ep))
    ∧ ({ s := rig, stay := true } : Fx).stay = true :=
  ⟨meets_of (by decide +kernel), rfl⟩

/-! ### Registers -/

theorem witness_IntegerOperations :
    AllMeet [(.iadd { d := 1#8, a := 2#8, b := 3#8 }, rig, any'), (.shr { lit := some 32#32, d := 1#8, a := 2#8, md := 4#5 }, rig, any'),
      (.cImul { d := 1#5, b := 2#5 }, rig, any'), (.i32Clz { d := 1#7, a := 2#7, b := 0#7, stall := 0#3 }, rig, any'),
      (.selU { d := 1#8, a := 2#8, b := 3#8, aS := true, bS := true }, rig, any')] :=
  allMeet_of (by decide +kernel)

theorem witness_CarryAndCompare :
    AllMeet [(.iaddc { d := 1#8, a := 2#8, b := 3#8, md := 4#5 }, rig, any'), (.iaddcU { d := 1#8, a := 2#8, b := 3#8, aS := true, bS := true, md := 4#5 }, rig, any'),
      (.icmp { d := 1#8, a := 2#8, b := 3#8, md := 0x14#5 }, rig, any'), (.icmpU { d := 1#8, a := 2#8, b := 3#8, aS := true, bS := true }, rig, any')] :=
  allMeet_of (by decide +kernel)

/-- The lowest and highest bit, the numbers 0 and 2^32 − 1, and IADD without .sat. -/
theorem witness_IntegerBitLaws :
    0 < 32 ∧ 31 < 32 ∧ 0 < 2 ^ 32 ∧ 2 ^ 32 - 1 < 2 ^ 32 ∧ ({ d := 1#8 } : Body).hi % 2 = 0 ∧ 2 ^ 32 - 1 < 2 ^ ({ d := 1#8 } : Body).bitsT := by
  decide +kernel

theorem witness_PredicateOperations :
    AllMeet [(.kand { d := 1#8, a := 2#8, b := 3#8 }, rig, any'), (.kor { d := 1#8 }, rig, any'), (.kxor { d := 7#8 }, rig, any'),
      (.knot { d := 1#8 }, rig, any'), (.kmov { d := 1#8, a := 7#8 }, rig, any'), (.kmovKS { d := 1#8, a := 63#8, aS := true, md := 1#5 }, rig, any'),
      (.kmovSK { d := 63#8, a := 1#8, md := 2#5 }, rig, any')] :=
  allMeet_of (by decide +kernel)

theorem witness_LaneOperations :
    AllMeet [(.fclass { d := 1#8, a := 2#8 }, rig, any'), (.matchLanes { d := 1#8, a := 2#8 }, rig, any'), (.bcast { lit := some 31#32, d := 1#8, a := 2#8 }, rig, any'),
      (.idot4 { d := 1#8, a := 2#8, b := 3#8 }, rig, any'), (.rngx { d := 8#8, dW := 2#2, a := 2#8, aW := 1#2, b := 12#8, bW := 2#2, aS := true }, rig, any'),
      (.shfl { lit := some 1#32, d := 3#8, a := 4#8, md := 3#5 }, rig, any'), (.vote { d := 1#8, a := 2#8 }, rig, fun c => c.b.mdN == 0),
      (.vote { d := 1#8, a := 2#8, md := 1#5 }, rig, fun c => c.b.mdN == 1), (.vote { d := 1#8, a := 2#8, md := 2#5 }, rig, fun c => c.b.mdN == 2),
      (.vote { d := 1#8, a := 2#8, md := 3#5 }, rig, fun c => decide (3 ≤ c.b.mdN)), (.lpart { md := 4#5 }, rig, any')] :=
  allMeet_of (by decide +kernel)

/-- The rule of a row of the float family at an issue, when it has one. -/
def fpOf (i : Instr) (c : Issue) (s : State) : List (Nat × Nat × Cond) :=
  match fpRule i.core with
  | some (_, v) => fpLaneResults c (v c s)
  | none => []

/-- An overflow in every lane, with its enable at 0. -/
def overflow : State := vset (vset rig 2 fun _ => 0x7F7FFFFF) 3 fun _ => 0x7F7FFFFF

theorem witness_FloatResults :
    AllMeet [(.fadd { d := 1#8, a := 2#8, b := 3#8 }, overflow, fun c => (c.x.fpTrap (fpOf (.fadd { d := 1#8, a := 2#8, b := 3#8 }) c overflow)).isNone),
      (.cFmul { d := 2#5, b := 3#5 }, overflow, fun c => (c.x.fpTrap (fpOf (.cFmul { d := 2#5, b := 3#5 }) c overflow)).isNone)] :=
  allMeet_of (by decide +kernel)

theorem witness_FloatTraps :
    let s := onWave overflow fun x => { x with wcw := 0x400#32 }
    Meets (.fadd { d := 1#8, a := 2#8, b := 3#8 }) s fun c => c.x.enabled (condsOf (fpOf (.fadd { d := 1#8, a := 2#8, b := 3#8 }) c s)) != 0#5 :=
  meets_of (by decide +kernel)

/-- With every enable at 0 no condition traps, whatever the results are. -/
theorem fpTrap_none {x : Wave} (h : x.enables = 0#5) (rs : List (Nat × Nat × Cond)) : x.fpTrap rs = none := by
  simp [Wave.fpTrap, Wave.enabled, h]

theorem witness_CompareReduceScan :
    AllMeet [(.fcmp { d := 2#8, a := 9#8, b := 8#8, md := 2#5 }, rig, fun c => c.x.enables == 0#5),
      (.redux { d := 7#8, a := 6#8, md := 8#5 }, rig, fun c => c.x.enables == 0#5),
      (.scan { d := 7#8, a := 6#8, md := 0x18#5 }, rig, fun c => c.x.enables == 0#5)] :=
  allMeet_of (by decide +kernel)

theorem witness_SpecialFunctions : AllMeet [(.frcp { d := 7#8, a := 9#8 }, rig, any'), (.ferf { d := 7#8, a := 9#8 }, rig, any')] :=
  allMeet_of (by decide +kernel)

/-- A reciprocal of 0 behind a pending translation check, with its condition enabled and not. -/
theorem witness_SpecialFunctions_held :
    let s := onWave (pends rig (.check none 0 none)) fun x => { x with wcw := 0x1F00#32 }
    let u := pends rig (.check none 0 none)
    let traps := fun (c : Issue) (s : State) => c.x.pend.any (fun p => p.work.isCheck) && (c.x.fpTrap (fpLaneResults c fun l => sfuLane .rcp (c.regA s l))).isSome
    AllMeet [(.frcp { d := 7#8, a := 9#8 }, s, fun c => traps c s),
      (.frcp { d := 7#8, a := 9#8 }, u, fun c => c.x.pend.any (fun p => p.work.isCheck) && !traps c u)] :=
  allMeet_of (by decide +kernel)

theorem witness_RegisterRowsFrame :
    registerOnly (.rcsr { d := 1#8 }) = true ∧ registerOnly (.cIadd { d := 1#5, b := 2#5 }) = true
    ∧ ∃ t, exec (.cIadd { d := 1#5, b := 2#5 }) rig = .next t :=
  ⟨by decide +kernel, by decide +kernel, next_of (by decide +kernel)⟩

/-- A result of v1 at lane 31, of s0 and of k7 at lane 31; v1's register is within the allocation. -/
theorem witness_ResultsLand :
    [RegWrite.v 1 31 5#32 0, .s 0 5#32, .k 7 31 true].all (fun r =>
      ((pends rig (.regs [r])).wave 0).any fun x => (x.pending 0).any fun p =>
        p.work == .regs [r] && decide (p.due ≤ rig.clock) && x.inOrder p && mrising x.s && mrising x.k && decide (1 < 8 * x.alloc)) = true
    ∧ mrising rig.co.rf = true ∧ mrising rig.co.rfBad = true
    ∧ (((pends rig (.bound [])).wave 0).any fun x => (x.pending 0).any fun p => p.work == .bound [] && x.inOrder p) = true := by
  decide +kernel
/-! ### Control and the system -/

/-- Every contributor's A is even, and one of the declared targets. -/
def evenA (s : State) (c : Issue) : Bool := (lanesOf c.con).all fun l => c.regA s l % 2 == 0
def listedA (s : State) (ts : List Word) (c : Issue) : Bool :=
  (lanesOf c.con).all fun l => ts.any fun e => (c.pc + litExt true 64 e) % 2 ^ 64 == c.regA s l

/-- Every lane's v8p: an address below 4 GiB. -/
def atA (a : Nat) : State := vset rig 8 fun _ => a

theorem witness_ControlTransfers :
    AllMeet [(.bra { lit := some 0xFFFFF000#32 }, rig, any'), (.call { lit := some 0x7FFFFFFE#32, d := 2#8, dW := 1#2 }, rig, any'),
      (.brx { a := 8#8, aW := 1#2 } [0x400#32], atA 0x1400, fun c => evenA (atA 0x1400) c && listedA (atA 0x1400) [0x400#32] c),
      (.callx { d := 8#8, dW := 1#2, a := 8#8, aW := 1#2 } [2#32, 0x400#32], atA 0x1400, fun c => evenA (atA 0x1400) c && listedA (atA 0x1400) [2#32, 0x400#32] c),
      (.ret { a := 8#8, aW := 1#2 }, atA 0x1400, evenA (atA 0x1400)),
      (.ret { a := 8#8, aW := 1#2 }, atA 0x1401, fun c => !evenA (atA 0x1401) c),
      (.brx { a := 8#8, aW := 1#2 } [0x400#32], atA 0x1401, fun c => !evenA (atA 0x1401) c),
      (.callx { d := 8#8, dW := 1#2, a := 8#8, aW := 1#2 } [0x400#32], atA 0x1402, fun c => evenA (atA 0x1402) c && !listedA (atA 0x1402) [0x400#32] c)] :=
  allMeet_of (by decide +kernel)

theorem witness_YieldRaisesEpochs :
    Meets (.yield {}) (onWave rig fun x => x.mapLanes fun l y => { y with ep := l / 2 }) fun c => decide ((c.x.lane 31).ep = 15) :=
  meets_of (by decide +kernel)

theorem witness_LanesEnd :
    AllMeet [(.exit {}, rig, fun c => c.x.enrol == []), (.kill {}, onWave rig fun x => { x with enrol := [0] }, fun c => c.x.enrol != [] && c.x.settled),
      (.nop { lit := some 1#32 }, rig, any'), (.waitd { wait := 0x3F#6 }, rig, any')]
    ∧ (wave0 rig).enrol = [] ∧ 31 < (wave0 rig).lanes.length :=
  ⟨allMeet_of (by decide +kernel), by decide +kernel, by decide +kernel⟩

theorem witness_SystemRegisters :
    AllMeet [(.trap { lit := some 5#32 }, rig, any'), (.bkpt { b := 3#8, bS := true }, rig, fun c => !(rig.dbg (clusterOfWave c.w)).den),
      (.rcsr { lit := some 0#32, d := 4#8 }, rig, any'), (.rcsr { lit := some 5#32, d := 4#8 }, rig, any'),
      (.wcsr { lit := some 0#32, a := 2#8, aS := true }, rig, any'), (.srd { lit := some 10#32, d := 4#8 }, rig, fun c => c.b.md != 1#5),
      (.srd { lit := some 9#32, d := 4#8, dW := 1#2, md := 1#5 }, rig, fun c => c.b.md == 1#5)] :=
  allMeet_of (by decide +kernel)

/-- Two waves of one row, of n and one granules. -/
def pair (n : Nat) : State :=
  let s := onWave rig fun x => { x with gmap := List.range n }
  { s with waves := s.waves ++ [(1, { wave0 rig with uid := 1, widx := 1, gmap := [127] })] }

/-- 32 granules or 1 held and all, all but one or none given up; a wave that would hold 33, one that would hold 32, and a gift to
the row's other wave. -/
theorem witness_QuotaMoves :
    let finds := fun (s : State) (c : Issue) =>
      (s.waves.find? fun p => p.2.blk == c.x.blk && p.2.widx == (c.s s c.b.a.toNat).toNat && deviceRow p.1 == deviceRow c.w).map Prod.fst
    AllMeet [(.quotaGive { lit := some 0#32, d := 4#8, a := 2#8, aS := true }, rig, fun c => c.sB rig == 0),
      (.quotaTake { lit := some 0#32, d := 4#8, md := 2#5 }, rig, fun c => c.sB rig == 0),
      (.quotaGive { lit := some 1#32, d := 4#8, a := 2#8, aS := true }, rig, fun c => finds rig c == some c.w),
      (.quotaGive { lit := some 1#32, d := 4#8, a := 2#8, aS := true }, sset rig 2 9, fun c => finds (sset rig 2 9) c == none),
      (.quotaTake { lit := some 32#32, d := 4#8, md := 2#5 }, onWave rig fun x => { x with gmap := [] }, fun c =>
        decide (((onWave rig fun x => { x with gmap := [] }).freeGranules (deviceRow c.w)).length < c.sB rig)
          || decide (c.x.gmap.length + rig.onWay c.x.uid + c.sB rig ≤ 32)),
      (.quotaRel { lit := some 0#32, d := 4#8, md := 1#5 }, rig, fun c => c.sB rig == 0),
      (.quotaRel { lit := some 32#32, d := 4#8, md := 1#5 }, rig, fun c => decide (c.x.gmap.length < c.sB rig + 1)),
      (.quotaRel { lit := some 31#32, d := 4#8, md := 1#5 }, rig, fun c => decide (c.sB rig + 1 ≤ c.x.gmap.length)),
      (.quotaTake { lit := some 1#32, d := 4#8, md := 2#5 }, rig, fun c => decide (32 < c.x.gmap.length + rig.onWay c.x.uid + c.sB rig)),
      (.quotaTake { lit := some 31#32, d := 4#8, md := 2#5 }, pair 1, fun c =>
        decide (c.x.gmap.length + (pair 1).onWay c.x.uid + c.sB (pair 1) ≤ 32) && decide (c.sB (pair 1) ≤ ((pair 1).freeGranules (deviceRow c.w)).length)),
      (.quotaGive { lit := some 31#32, d := 4#8, a := 2#8, aS := true }, sset (pair 32) 2 1, fun c => let s := sset (pair 32) 2 1
        (s.waves.find? fun p => p.2.blk == c.x.blk && p.2.widx == (c.s s c.b.a.toNat).toNat && deviceRow p.1 == deviceRow c.w).any fun p =>
          p.1 != c.w && (s.gridOfWave p.1).isNone && p.2.run != .saving && decide (c.sB s + 1 ≤ c.x.gmap.length)
            && decide (p.2.gmap.length + s.onWay p.2.uid + c.sB s ≤ 32))] :=
  allMeet_of (by decide +kernel)

/-- A range that ends at the top of the address space, and one that ends a byte beyond it. -/
theorem witness_InstructionCacheInvalidation :
    let s := fun (n : Nat) => sset (sset (sset rig 2 0xFFFFFFFF) 3 0xFFFFFFFF) 4 n
    let lo := fun (s : State) (c : Issue) => c.sGroup s c.b.a.toNat 2 + (c.s s c.b.b.toNat).toNat
    AllMeet [(.icinv { a := 2#8, aW := 1#2, aS := true, b := 4#8, bS := true }, s 2, fun c => decide (2 ^ 64 < lo (s 2) c)),
      (.icinv { a := 2#8, aW := 1#2, aS := true, b := 4#8, bS := true }, s 1, fun c => decide (lo (s 1) c = 2 ^ 64)),
      (.icinvAll { md := 1#5 }, rig, any')]
    ∧ ((wave0 (pends rig (.icinv false 0x1000 1))).pending 0).any (fun p => p.work == .icinv false 0x1000 1) = true
    ∧ (wave0 rig).sq = [] :=
  ⟨allMeet_of (by decide +kernel), by decide +kernel, by decide +kernel⟩

/-! ### Memory -/

/-- A global or window access whose addresses pass, or fail with a cause. -/
def passes (i : Instr) (s : State) (c : Issue) : Bool :=
  match accessRule i c with
  | some (a, _, n, _, _) => answered (s.checkGlobal (coreOf c.w) (s.ctxNo c.x) c.x.blk a (accesses s c n))
  | none => false
def fails (i : Instr) (s : State) (t : Cause) (c : Issue) : Bool :=
  match accessRule i c with
  | some (a, _, n, _, _) =>
    match (s.checkGlobal (coreOf c.w) (s.ctxNo c.x) c.x.blk a (accesses s c n)).2 with
    | .error e => e.cause == t
    | .ok _ => false
  | none => false

/-- The last word of the region as the window shows it, in every lane's v8p; and 4 GiB, where nothing is mapped. -/
def atWindow : State := vset (vset rig 8 fun _ => 0x180FFC) 9 fun _ => 0xE0000
def unmapped : State := vset rig 9 fun _ => 1
def inSkid : State := { unmapped with wk := { unmapped.wk with ctxs := [(0, { valid := true, skid := true })] } }

def ldN : Instr := .ld { d := 5#8, a := 8#8, aW := 1#2, md := 4#5 }
def stN : Instr := .st { b := 5#8, a := 8#8, aW := 1#2, md := 4#5 }
def ldwN : Instr := .ldw { d := 5#8, a := 8#8, aW := 1#2, md := 4#5 }
def stwN : Instr := .stw { b := 5#8, a := 8#8, aW := 1#2, md := 4#5 }
def ldaN : Instr := .lda { d := 5#8, a := 8#8, aW := 1#2, md := 4#5 }
def stlN : Instr := .stl { b := 5#8, a := 8#8, aW := 1#2, md := 0x18#5 }

theorem witness_GlobalAccesses :
    AllMeet [(ldN, rig, passes ldN rig), (stN, rig, passes stN rig), (ldaN, rig, passes ldaN rig), (stlN, rig, passes stlN rig),
      (ldwN, atWindow, passes ldwN atWindow), (stwN, atWindow, passes stwN atWindow), (ldN, atWindow, passes ldN atWindow)] :=
  allMeet_of (by decide +kernel)

theorem witness_AccessFailures :
    AllMeet [(ldN, unmapped, fun c => fails ldN unmapped .pageFault c && !(unmapped.ctxRec c.x).skid), (ldwN, rig, fails ldwN rig .windowPerm),
      (stN, inSkid, fun c => fails stN inSkid .pageFault c && (inSkid.ctxRec c.x).skid && c.x.pend.all fun p => !p.work.isCheck)] :=
  allMeet_of (by decide +kernel)

/-- A misaligned window address, the last address below the window, and one that shows nothing to the block, for a quarter of a
word and for 8 bytes. -/
theorem witness_WindowChecks :
    let a : Ask := { kind := .load, align := 1, win := true, only := true }
    (a.win ∧ a.w2 = false ∧ a.only ∧ a.align = 1) ∧ (inWindow (windowBase + 1) ∧ (windowBase + 1) % 2 ≠ 0)
    ∧ (onWindow (windowBase - 1) 1 = false ∧ onWindow (windowBase - 8) 8 = false)
    ∧ [1, 8].all (fun n => inWindow windowBase && windowBase % n == 0 && (rig.windowLoc 0 windowBase n).isNone) = true ∧ 31 < 32 := by
  decide +kernel

/-- What a check of accesses blames: a cause, the lanes and an address. -/
def blamed (s : State) (a : Ask) (qs : List (Nat × Nat × Nat)) : Option (Cause × Word × Nat) :=
  match (s.checkGlobal 0 0 0 a (qs.map fun q => { lane := q.1, va := q.2.1, n := q.2.2 })).2 with
  | .error t => some (t.cause, t.mask, t.addr)
  | .ok _ => none
def blamedSp (align : Nat) (qs : List (Nat × Nat)) : Option (Cause × Word × Nat) :=
  match rig.checkSp 0 0 align false (qs.map fun q => { lane := q.1, va := q.2, n := 4 }) with
  | .error t => some (t.cause, t.mask, t.addr)
  | .ok _ => none

/-- Each failure with lanes that have it and one that has not, in the order of the checks: 9 bytes in the window; an address that is not
aligned; an access outside the window that must be in it, one inside that must not, and a part that shows nothing; a page that is not
mapped, and one that lies outside memory; and accesses without a failure. -/
theorem witness_WindowChecks_lanes :
    let at' := windowBase + 0x180FFC
    let out : State := { rig with m := { rig.m with tlb := rig.m.tlb ++ [{ unit := 0, pscid := 0, page := 1, bits := 30, pte := 2 ^ 28 + 0xDF }] } }
    let load : Ask := { kind := .load, align := 1, win := true }
    [(blamed rig load [(0, 0, 16), (3, windowBase, 16), (31, windowBase + 16, 9)], some (.illegalOperand, 0x80000008#32, windowBase)),
      (blamed rig { load with align := 4 } [(0, 0, 4), (5, 6, 4), (31, 2, 4)], some (.misaligned, 0x80000020#32, 6)),
      (blamed rig load [(0, 1, 4), (4, windowBase + 2, 4)], some (.misaligned, 0x10#32, windowBase + 2)),
      (blamed rig { load with only := true } [(0, at', 4), (4, 0, 4), (30, 8, 4)], some (.windowPerm, 0x40000010#32, 0)),
      (blamed rig { load with win := false } [(0, 0, 4), (4, at', 4)], some (.windowPerm, 0x10#32, at')),
      (blamed rig load [(0, at', 4), (4, windowBase, 4)], some (.windowPerm, 0x10#32, windowBase)),
      (blamed out load [(0, 0, 4), (1, 2 ^ 30, 4), (4, 2 ^ 32, 4), (31, 2 ^ 32 + 4, 4)], some (.pageFault, 0x80000010#32, 2 ^ 32)),
      (blamed out load [(0, 0, 4), (1, 2 ^ 30, 4), (31, 2 ^ 30 + 8, 4)], some (.accessFault, 0x80000002#32, 2 ^ 30)),
      (blamed rig load [(0, at', 4), (31, 0, 4)], none),
      (blamedSp 4 [(0, 0), (1, 4098), (31, 4096)], some (.misaligned, 2#32, 4098)),
      (blamedSp 4 [(0, 4092), (1, 4096), (31, 2 ^ 18 - 4)], some (.scratchRange, 0x80000002#32, 4096)),
      (blamedSp 4 [(0, 4092)], none)].all (fun r => r.1 == r.2) = true := by
  decide +kernel

/-- The result of the checks of a scratchpad form of 4 bytes, aligned to 4. -/
def spOk (s : State) (c : Issue) : Bool :=
  memBytes c.b.mdN == 4 && match s.checkSp (coreOf c.w) c.x.blk 4 false (spAccesses s c 4) with | .ok _ => true | .error _ => false
def spWhole (s : State) (c : Issue) : Bool :=
  decide (c.b.mdN % 4 = 0) && match s.checkSp (coreOf c.w) c.x.blk 4 true (spAccesses s c 4) with | .ok _ => true | .error _ => false

def ldsN : Instr := .lds { d := 5#8, a := 8#8, md := 4#5 }
def stsN : Instr := .sts { b := 5#8, a := 8#8, md := 4#5 }

/-- The last word of the region, a misaligned address, and the first beyond it. -/
theorem witness_ScratchpadAccesses :
    AllMeet [(ldsN, atA 4092, spOk (atA 4092)), (stsN, atA 4092, spOk (atA 4092)), (ldsN, atA 4093, fun c => !spOk (atA 4093) c), (stsN, atA 4096, fun c => !spOk (atA 4096) c),
      (.lda { d := 5#8, a := 8#8, md := 4#5 }, atA 4092, fun c => c.b.aW == 0#2 && spWhole (atA 4092) c),
      (.stl { b := 5#8, a := 8#8, md := 4#5 }, atA 4096, fun c => c.b.aW == 0#2 && !spWhole (atA 4096) c)] :=
  allMeet_of (by decide +kernel)

/-- The check of an atomic form. -/
def atomOk (s : State) (n : Nat) (win two : Bool) (c : Issue) : Bool :=
  answered (s.checkGlobal (coreOf c.w) (s.ctxNo c.x) c.x.blk { kind := .rmw, align := n, win := win, spOnly := true, w2 := two } (accesses s c n))

theorem witness_Atomics :
    AllMeet [(.atom { d := 5#8, a := 8#8, aW := 1#2, b := 6#8 }, atWindow, fun c => c.b.aW != 0#2 && atomOk atWindow 4 true false c),
      (.atom { d := 6#8, dW := 1#2, a := 8#8, aW := 1#2, b := 10#8, bW := 1#2, md := 0x1C#5 }, rig, fun c => decide (12 ≤ c.b.mdN % 16) && atomOk rig 8 true true c),
      (.atom { d := 5#8, a := 8#8, b := 6#8 }, atA 4092, fun c => c.b.aW == 0#2 && match (atA 4092).checkSp (coreOf c.w) c.x.blk 4 false (spAccesses (atA 4092) c 4) with | .ok _ => true | .error _ => false),
      (.atomf { d := 5#8, a := 8#8, aW := 1#2, b := 6#8 }, rig, atomOk rig 4 false false), (.red { a := 8#8, aW := 1#2, b := 6#8 }, rig, atomOk rig 4 false false)] :=
  allMeet_of (by decide +kernel)

/-- An address that fails its check in each form; a word at the end of a line that the core owns, for an operation and for the next one. -/
theorem witness_Atomics_laws :
    let spBad := fun (s : State) (c : Issue) => c.b.aW == 0#2 && match s.checkSp (coreOf c.w) c.x.blk 4 false (spAccesses s c 4) with | .ok _ => false | .error _ => true
    let own : State := { rig with m := { rig.m with own := [(0, 0)] } }
    let o : WordOp := { lane := 31, half := 1, len := 4, va := 124, loc := .mem 124, b := 2 ^ 32 - 1, bHigh := 0 }
    let fits := fun (s : State) => decide (124 % 128 + o.len ≤ 128) && !s.locBad 0 (.mem 124) o.len && mget s.m.own (124 / 128) == some 0
    AllMeet [(.atom { d := 5#8, a := 8#8, aW := 1#2, b := 6#8 }, unmapped, fun c => c.b.aW != 0#2 && !atomOk unmapped 4 true false c && !(unmapped.ctxRec c.x).skid),
      (.atom { d := 5#8, a := 8#8, b := 6#8 }, atA 4096, spBad (atA 4096)),
      (.atomf { d := 5#8, a := 8#8, aW := 1#2, b := 6#8 }, inSkid, fun c => !atomOk inSkid 4 false false c && (inSkid.ctxRec c.x).skid && c.x.pend.all fun p => !p.work.isCheck),
      (.red { a := 8#8, aW := 1#2, b := 6#8 }, unmapped, fun c => !atomOk unmapped 4 false false c)]
    ∧ fits own = true ∧ fits (own.doWordOp 0 (.l1 0) 0 o [] []).1 = true :=
  ⟨allMeet_of (by decide +kernel), by decide +kernel, by decide +kernel⟩

/-- CLEAN's range in s2p and s4. -/
def ranged (lo n : Nat) : State := sset (sset (sset rig 2 lo) 3 (lo / 2 ^ 32)) 4 n
def rangeOf (s : State) (c : Issue) : Nat × Nat := ((c.regA s 0 + litExt true 64 (c.b.lit.getD 0#32)) % 2 ^ 64, (c.s s c.b.b.toNat).toNat)
def cleanI (md : BitVec 5) : Instr := .clean { a := 2#8, aW := 1#2, aS := true, b := 4#8, bS := true, md := md }
def invalI (md : BitVec 5) : Instr := .inval { a := 2#8, aW := 1#2, aS := true, b := 4#8, bS := true, md := md }

/-- Ranges that end at the top of the address space and just before the window, one that ends beyond the top, and one whose last byte is the window's first; core
and cluster scope. -/
theorem witness_FencesAndMaintenance :
    let top := 2 ^ 64 - 1
    AllMeet [(.pf { a := 8#8, aW := 1#2 }, rig, any'), (.fence { md := 0x16#5 }, rig, any'),
      (cleanI 6#5, ranged top 2, fun c => rangeOf (ranged top 2) c == (top, 2)),
      (invalI 6#5, ranged 0xDFFFFFFFFFFFF 2, fun c => rangeOf (ranged 0xDFFFFFFFFFFFF 2) c == (0xDFFFFFFFFFFFF, 2)),
      (cleanI 1#5, ranged top 1, fun c => rangeOf (ranged top 1) c == (top, 1) && decide (c.b.mdN < 2)),
      (invalI 2#5, ranged 0xDFFFFFFFFFFFF 1, fun c => rangeOf (ranged 0xDFFFFFFFFFFFF 1) c == (0xDFFFFFFFFFFFF, 1) && decide (2 ≤ c.b.mdN))] :=
  allMeet_of (by decide +kernel)

/-- A transaction: its lines, its buffered stores, and whether it is lost. -/
def txn (lines : List (Nat × Nat)) (buf : List Put) (lost : Bool) : State :=
  onWave rig fun x => { x with txn := { lines := lines, disturbed := [], buf := buf, lost := lost } }

/-- The check of a multi-line access of 4 bytes at 0, and whether its line is reserved. -/
def mlOk (s : State) (k : AccKind) (reserved : Bool) (c : Issue) : Bool :=
  match (s.checkGlobal (coreOf c.w) (s.ctxNo c.x) c.x.blk { kind := k, align := 4 * 2 ^ c.b.mdN, win := false }
      [{ lane := (lanesOf c.con).headD 0, va := (c.regA s ((lanesOf c.con).headD 0) + litExt true 64 (c.b.lit.getD 0#32)) % 2 ^ 64, n := 4 * 2 ^ c.b.mdN }]).2 with
  | .ok ps => !ps.isEmpty && !c.x.txn.lost && ((c.x.txn.lines.any fun p => p.1 == lineOf (firstPa ps)) == reserved)
  | .error _ => false

def resI : Instr := .mlres { d := 6#8, a := 2#8, aW := 1#2, aS := true }
def mstI : Instr := .mlst { a := 2#8, aW := 1#2, aS := true, b := 6#8, bS := true }
def comI : Instr := .mlcommit { d := 6#8, md := 4#5 }

/-- Line 0 reserved, one byte stored to it in the buffer. -/
def reserved1 : State := txn [(0, 0)] [{ at' := { lane := 0, off := 0, len := 1, va := 0, loc := .mem 0 }, bytes := [7#8] }] false
def lines4 : State := txn [(1, 0), (2, 0), (3, 0), (4, 0)] [] false

theorem witness_MultiLineStores :
    AllMeet [(resI, reserved1, fun c => mlOk reserved1 .load true c && c.x.settled && c.x.txn.disturbed == []), (resI, lines4, fun c => mlOk lines4 .load false c && decide (4 ≤ c.x.txn.lines.length)),
      (mstI, reserved1, fun c => mlOk reserved1 .store true c && decide (c.x.txn.buf.length < 16)), (mstI, lines4, mlOk lines4 .store false),
      (comI, txn [] [] true, fun c => decide ((txn [] [] true).wave c.w = some c.x) && c.x.txn.lost), (comI, rig, fun c => c.x.txn.lines == []),
      (resI, txn [(1, 0), (2, 0), (3, 0)] [] false, fun c => mlOk (txn [(1, 0), (2, 0), (3, 0)] [] false) .load false c && decide (c.x.txn.lines.length < 4)
        && c.x.settled && c.x.txn.disturbed == [] && decide (((txn [(1, 0), (2, 0), (3, 0)] [] false).reservedOn 0).length < 64)),
      (resI, txn [] [] true, fun c => c.x.settled && c.x.txn.lost),
      (comI, reserved1, fun c => c.x.settled && !c.x.txn.lost && c.x.txn.lines != [] && c.x.txn.disturbed == []),
      (comI, onWave reserved1 fun x => { x with txn := { x.txn with disturbed := [0] } }, fun c => !c.x.txn.lost && c.x.txn.lines != [] && c.x.txn.disturbed != []),
      (.mlabort {}, rig, any')] :=
  allMeet_of (by decide +kernel)

/-- A lost transaction that stores; a seventeenth store; a reserved line and another one after a disturbance. -/
theorem witness_MultiLineStores_ends :
    let puts : List Put := List.replicate 16 { at' := { lane := 0, off := 0, len := 4, va := 0, loc := .mem 0 }, bytes := [0#8, 0#8, 0#8, 0#8] }
    let hurt := fun (l : Nat) => onWave rig fun x => { x with txn := { lines := [(l, 0)], disturbed := [l], buf := [], lost := false } }
    let answers := fun (s : State) (k : AccKind) (c : Issue) => answered (s.checkGlobal (coreOf c.w) (s.ctxNo c.x) c.x.blk { kind := k, align := 4, win := false }
      [{ lane := (lanesOf c.con).headD 0, va := (c.regA s ((lanesOf c.con).headD 0) + litExt true 64 (c.b.lit.getD 0#32)) % 2 ^ 64, n := 4 }])
    AllMeet [(mstI, txn [] [] true, fun c => answers (txn [] [] true) .store c && c.x.txn.lost),
      (mstI, txn [(0, 0)] puts false, fun c => mlOk (txn [(0, 0)] puts false) .store true c && decide (16 ≤ c.x.txn.buf.length)),
      (resI, hurt 0, fun c => mlOk (hurt 0) .load true c && c.x.settled && c.x.txn.disturbed != []),
      (resI, hurt 1, fun c => mlOk (hurt 1) .load false c && c.x.settled && c.x.txn.disturbed != [] && decide (c.x.txn.lines.length < 4)
        && decide (((hurt 1).reservedOn 0).length < 64))] :=
  allMeet_of (by decide +kernel)

/-! ### Synchronisation -/

/-- Enrolled in eight barriers, of which barrier 0 is not one. -/
def full8 : State := onWave rig fun x => { x with enrol := List.replicate 8 1 }

theorem witness_Barriers :
    let named := fun (s : State) (c : Issue) => s.barKey (coreOf c.w) c.x.blk (c.s s c.b.a.toNat).toNat
    let namedA := fun (s : State) (c : Issue) => s.barKey (coreOf c.w) c.x.blk (c.sA s)
    let init := fun (t : Nat) => Instr.barinit { lit := some (BitVec.ofNat 32 t), a := 2#8, aS := true }
    let parked := onWave rig fun x => x.park 1#32 0 (.bar 0 0)
    AllMeet [(init 1, rig, fun c => (named rig c).isSome && c.sB rig == 1 && (named rig c).all fun k => !rig.barParked k),
      (init 8192, sset rig 2 0x400, fun c => (named (sset rig 2 0x400) c).isSome && c.sB rig == 8192),
      (init 1, sset rig 2 2, fun c => (named (sset rig 2 2) c).isNone), (init 1, sset rig 2 0x401, fun c => (named (sset rig 2 0x401) c).isNone),
      (init 0, rig, fun c => (named rig c).isSome && c.sB rig == 0), (init 8193, rig, fun c => (named rig c).isSome && c.sB rig == 8193),
      (init 1, parked, fun c => c.sB parked == 1 && (named parked c).any parked.barParked),
      (.barenrol { lit := some 1#32 }, rig, fun c => (namedA rig c).isSome && (enrolledState rig c (c.sA rig)).isSome),
      (.barenrol { lit := some 0#32 }, full8, fun c => (namedA full8 c).isSome && (enrolledState full8 c (c.sA full8)).isNone),
      (.bararv { lit := some 0x400#32 }, rig, fun c => c.x.settled && (namedA rig c).isSome && (enrolledState rig c (c.sA rig)).isSome),
      (.barq { lit := some 0#32, d := 4#8 }, rig, fun c => (namedA rig c).isSome)] :=
  allMeet_of (by decide +kernel)

/-- The lane laws: an arrival again, one below the target and the last one. -/
theorem witness_Barriers_lanes :
    let b : Bar := { target := 2, phase := 3, arr := 0, dep := 0, full := false, startClk := 0 }
    mget [(arrKey 0 31, b.phase)] (arrKey 0 31) = some b.phase ∧ (mget [] (arrKey 0 31) ≠ some b.phase ∧ b.arr + 1 < b.target)
    ∧ ({ b with arr := 1 } : Bar).arr + 1 = b.target := by
  decide +kernel

/-- Identifiers that name no barrier, in the other three instructions; a BARQ that is due, and one that is not yet. -/
theorem witness_Barriers_queries :
    let bad := fun (c : Issue) => (rig.barKey (coreOf c.w) c.x.blk (c.sA rig)).isNone
    let d : Dst := { cls := 1, base := 4, cnt := 1 }
    let later := onWave rig fun x => { x with pend := [{ pendOf (.barq 0 d) with due := 1 }] }
    AllMeet [(.barenrol { lit := some 2#32 }, rig, bad), (.bararv { lit := some 2#32 }, rig, bad), (.barq { lit := some 0x401#32, d := 4#8 }, rig, bad)]
    ∧ (((pends rig (.barq 0 d)).wave 0).any fun x => (x.pending 0).any fun p => p.work == .barq 0 d && decide (p.due ≤ rig.clock)) = true
    ∧ ((later.wave 0).any fun x => (x.pending 0).any fun p => p.work == .barq 0 d && decide (later.clock < p.due)) = true :=
  ⟨allMeet_of (by decide +kernel), by decide +kernel, by decide +kernel⟩

/-- Lanes that wait for phase 0: it is over, or it is the current one. -/
theorem witness_BarrierWaits :
    let s0 := onWave rig fun x => { x with enrol := [0], arrivals := (List.range 32).map fun l => (arrKey 0 l, 0) }
    let s1 : State := { s0 with co := { s0.co with bars := [(0, { target := 32, phase := 1, arr := 0, dep := 0, full := false, startClk := 0 })] } }
    let waits := fun (s : State) (c : Issue) => (lanesOf c.con).map fun l =>
      decide ((s.bar 0 (((s.block c.x.blk).map Block.threads).getD 1)).phase ≤ (mget c.x.arrivals (arrKey 0 l)).getD 0)
    AllMeet [(.barwait { lit := some 0#32 }, s1, fun c => s1.barKey (coreOf c.w) c.x.blk (c.sA s1) == some 0 && (enrolledState s1 c (c.sA s1)).isSome && !(waits s1 c).any id),
      (.barwait { lit := some 0#32 }, s0, fun c => (enrolledState s0 c (c.sA s0)).isSome && (waits s0 c).all id),
      (.barsync { lit := some 0#32 }, s1, fun c => c.x.settled && s1.barKey (coreOf c.w) c.x.blk (c.sA s1) == some 0 && ((enrolledState s1 c (c.sA s1)).any fun t =>
        ((t.arriveAll c.w 0 (lanesOf c.con) false).wave c.w).isSome && !t.barHeld c.w c.x))] :=
  allMeet_of (by decide +kernel)

/-- Lane 31 parked for phase 0 of barrier 0, with no debug stop. -/
theorem witness_BarrierWaits_release :
    let s := onWave rig fun x => x.park 0x80000000#32 0 (.bar 0 0)
    ((s.wave 0).any fun x => x.parks.all (fun r => r.kind == .bar 0 0 && r.wake.isNone && r.mask.getLsbD 31) && x.parks.length == 1
      && (x.lane 31).st == .parked && !s.barHeld 0 x) = true
    ∧ s.barDelay 0 (some 0) (coreOf 0) = 0 := by
  decide +kernel

/-- Thresholds 2^31 − 1 and 2^31 behind the value, the last and the first identifier that names none. -/
theorem witness_Semaphores :
    let named := fun (s : State) (c : Issue) => s.semKey (coreOf c.w) c.x.blk (c.s s c.b.a.toNat).toNat
    let i := fun (f : Body → Instr) (n : Nat) => f { lit := some (BitVec.ofNat 32 n), a := 2#8, aS := true }
    let last := sset rig 2 3
    AllMeet [(i .semset 5, last, fun c => (named last c).isSome), (i .semadd 5, last, fun c => c.x.settled && (named last c).isSome),
      (i .semwait (2 ^ 31 + 1), rig, fun c => (named rig c).any fun k => decide ((rig.sem k + 2 ^ 32 - c.sB rig) % 2 ^ 32 = 2 ^ 31 - 1)),
      (i .semwait (2 ^ 31), rig, fun c => (named rig c).any fun k => decide ((rig.sem k + 2 ^ 32 - c.sB rig) % 2 ^ 32 = 2 ^ 31)),
      (i .semset 5, sset rig 2 4, fun c => (named (sset rig 2 4) c).isNone)]
    ∧ 2 ^ 32 - 1 < 2 ^ 32 ∧ mrising rig.co.sems = true :=
  ⟨allMeet_of (by decide +kernel), by decide +kernel, by decide +kernel⟩

/-- Lanes parked on semaphore 0 until it reaches 5: the values 5 and 2^31 + 4 reach it, and 4 does not. -/
theorem witness_Semaphores_wake :
    let s := onWave rig fun x => { x.park 0x80000000#32 0 (.sem 0 5) with pend := [pendOf (.park none)] }
    ((s.wave 0).any fun x => x.parks.length == 1 && x.parks.all fun r => r.kind == .sem 0 5 && (x.pending r.stamp).map Pend.work == some (.park none)) = true
    ∧ (5 + 2 ^ 32 - 5) % 2 ^ 32 < 2 ^ 31 ∧ (2 ^ 31 + 4 + 2 ^ 32 - 5) % 2 ^ 32 < 2 ^ 31 ∧ 2 ^ 31 ≤ (4 + 2 ^ 32 - 5) % 2 ^ 32 := by
  decide +kernel

theorem witness_Monitor :
    let mon := fun (m : Monitor) => onWave rig fun x => { x with mon := m }
    let wait : Instr := .monwait { d := 4#8, b := 2#8, bS := true }
    AllMeet [(.monarm { a := 2#8, aW := 1#2, aS := true }, rig, fun c =>
        match (rig.checkGlobal (coreOf c.w) (rig.ctxNo c.x) c.x.blk { kind := .load, align := 1, win := false }
          [{ lane := (lanesOf c.con).headD 0, va := (c.regA rig ((lanesOf c.con).headD 0) + litExt true 64 (c.b.lit.getD 0#32)) % 2 ^ 64, n := 1 }]).2 with
        | .ok (p :: _) => p.loc == .mem 0
        | _ => false),
      (wait, mon { resumed := true }, fun c => c.x.mon.resumed), (wait, mon {}, fun c => !c.x.mon.resumed && c.x.mon.line.isNone),
      (wait, mon { line := some 0, event := true }, fun c => !c.x.mon.resumed && c.x.mon.line.isSome && c.x.mon.event),
      (wait, mon { line := some 0 }, fun c => !c.x.mon.resumed && c.x.mon.line.isSome && !c.x.mon.event)] :=
  allMeet_of (by decide +kernel)

theorem witness_CopyWaitsAndTables :
    let va := fun (s : State) (c : Issue) => (c.regA s ((lanesOf c.con).headD 0) + litExt true 64 (c.b.lit.getD 0#32)) % 2 ^ 64
    let none' : State := { rig with co := { rig.co with tbls := [] } }
    AllMeet [(.cpseal { d := 4#8 }, rig, any'), (.cpwait { lit := some 0#32 }, rig, any'),
      (.tblset { a := 2#8, aW := 1#2, aS := true }, rig, fun c => (rig.tblOf (coreOf c.w) c.x.blk).isSome
        && answered (rig.checkGlobal (coreOf c.w) (rig.ctxNo c.x) c.x.blk { kind := .load, align := 1, win := false }
          ((List.range 256).map fun i => { lane := (lanesOf c.con).headD 0, va := (va rig c + 4 * i) % 2 ^ 64, n := 4 }))),
      (.tblcommit {}, rig, fun c => (rig.tblOf (coreOf c.w) c.x.blk).isSome), (.tbleval { d := 1#8, a := 2#8 }, rig, fun c => (rig.tblOf (coreOf c.w) c.x.blk).isSome),
      (.tblcommit {}, none', fun c => (none'.tblOf (coreOf c.w) c.x.blk).isNone)] :=
  allMeet_of (by decide +kernel)

/-- CPSEAL with nothing before it, behind a store and with 16 unfinished batches; CPWAIT for at most 0 and 15 of 0 and 16. -/
theorem witness_CopyWaitsAndTables_ends :
    let batches := fun (s : State) (n : Nat) => onWave s fun x => { x with sealed := (List.range n).map fun i => (i, [(i, i + 1, 1)]) }
    let unfinished := fun (x : Wave) => (x.sealed.filter fun q => q.2.any fun r => r.2.2 != 0).length
    let d : Dst := { cls := 1, base := 4, cnt := 1 }
    let sealing := pends rig (.cpseal d)
    let stored := onWave rig fun x => { x with pend := [pendOf .store, { pendOf (.cpseal d) with stamp := 1 }], sq := [{ stamp := 0, puts := [], scope := none }] }
    let is := fun (s : State) (p : Wave → Pend → Bool) => (s.wave 0).any fun x => (x.pending 0).any fun q => p x q
    is sealing (fun x q => q.work == .cpseal d && x.settledBefore 0 && decide (unfinished x < 16))
    ∧ ((stored.wave 0).any fun x => (x.pending 1).any fun q => q.work == .cpseal d && !x.settledBefore 1)
    ∧ is (batches sealing 16) (fun x _ => decide (16 ≤ unfinished x))
    ∧ is (pends rig (.cpwait 0)) (fun x q => q.work == .cpwait 0 && decide (unfinished x ≤ 0))
    ∧ is (batches (pends rig (.cpwait 16)) 16) (fun _ q => q.work == .cpwait 16)
    ∧ is (batches (pends rig (.cpwait 15)) 16) (fun x q => q.work == .cpwait 15 && decide (15 < unfinished x)) := by
  decide +kernel

/-! ### Reins -/

/-- The block handles vectors 16 to 31, whose entries lie at 0x10000; the bits are those of vector 31's CTRL. -/
def handler (bits : Nat) : State :=
  let s := onBlock rig fun b => { b with rein := some 16 }
  { s with
    wk := { s.wk with ctxs := [(0, { valid := true, reinblk := 0x10000 })] }
    m := { s.m with mem := if bits = 0 then [] else [(0x101FA, BitVec.ofNat 8 bits)] } }

/-- The wave's block is the handler of vectors from 16 on. -/
def handles16 (s : State) (c : Issue) : Bool := (s.block c.x.blk).any fun b => b.rein == some 16

/-- The routes: the router, the twin with its link up and down, and two that nothing lies on; a pending vector, a masked one, and none; the
first and last vector of the range and the two beside it. -/
theorem witness_Reins :
    let send := fun (t : Nat) => Instr.rsend { lit := some (BitVec.ofNat 32 t), d := 1#8, a := 2#8, aW := 1#2, aS := true }
    let twin := rig.modTwin fun t => { t with state := 2 }
    let route := fun (s : State) (n : Nat) (c : Issue) => c.x.settled && bitsOf (c.sB s) 15 14 == n
    let take : Instr := .rtake { d := 8#8, dW := 2#2, a := 2#8, aS := true }
    let asks := fun (n : Nat) => sset (handler 0) 2 n
    AllMeet [(send 0, rig, route rig 0), (send 0x4000, twin, fun c => route twin 1 c && twin.pk.twin.state == 2),
      (send 0x4000, rig, fun c => route rig 1 c && rig.pk.twin.state != 2), (send 0x8000, twin, route twin 2), (send 0xC000, twin, route twin 3),
      (.rwait { d := 4#8 }, handler 1, fun c => handles16 (handler 1) c && ((handler 1).lowestVec 0 16 true).2 == some 31),
      (.rwait { d := 4#8 }, handler 3, fun c => handles16 (handler 3) c && ((handler 3).lowestVec 0 16 true).2.isNone),
      (take, asks 16, handles16 (asks 16)), (take, asks 31, handles16 (asks 31)), (take, asks 15, handles16 (asks 15)), (take, asks 32, handles16 (asks 32)),
      (.rtakeAny { d := 8#8, dW := 2#2, md := 1#5 }, handler 3, fun c => handles16 (handler 3) c && ((handler 3).lowestVec 0 16 false).2 == some 31),
      (.rtakeAny { d := 8#8, dW := 2#2, md := 1#5 }, handler 2, fun c => handles16 (handler 2) c && ((handler 2).lowestVec 0 16 false).2.isNone),
      (.rmaskSet { lit := some 0xFFFF#32 }, handler 1, handles16 (handler 1)), (.rmaskClr { lit := some 0x8000#32, md := 1#5 }, handler 3, handles16 (handler 3)),
      (.rmaskWr { lit := some 0#32, md := 2#5 }, handler 3, handles16 (handler 3))] :=
  allMeet_of (by decide +kernel)

/-- A handler's wave waits while vector 31 of its range is pending and unmasked. -/
theorem witness_Reins_wake :
    let d : Dst := { cls := 1, base := 4, cnt := 1 }
    let s := onWave (handler 1) fun x => { x.park 1#32 0 .rein with pend := [pendOf (.park (some d))] }
    let s1 := (s.lowestVec 0 16 true).1
    (s.lowestVec 0 16 true).2 = some 31 ∧ s.waves.any (fun p => s.handles 0 16 p.2) = true
    ∧ ((s1.wave 0).any fun x => s1.handles 0 16 x && x.parks.length == 1 && x.parks.all (fun r => r.kind == .rein && r.stamp == 0)
        && (x.pending 0).map Pend.work == some (.park (some d))) = true := by
  decide +kernel

theorem witness_OnlyHandlersTakeReins :
    AllMeet [(.rwait { d := 4#8 }, rig, fun c => (rig.block c.x.blk).all fun b => b.rein.isNone),
      (.rmaskWr { lit := some 0#32, md := 2#5 }, rig, fun c => (rig.block c.x.blk).all fun b => b.rein.isNone)] :=
  allMeet_of (by decide +kernel)

/-! ### The harnessed grids -/

/-- The wave leads grid 0, of two rows with 128 accumulator rows and a bank of 64 elements of .mx8 a column. -/
def gridRig : State :=
  { rig with wk := { rig.wk with hgrids := [(0, { state := 2, expect := 1, signed := [0], accu := 1, sw := true, lead := some 0, desc0 := 640 })] } }

def leads (s : State) (c : Issue) : Bool :=
  match s.gridOfWave c.w with
  | some (_, h) => h.lead == some c.w && h.state == 2 && h.sw && !c.x.spPending (coreOf c.w)
  | none => false

theorem witness_OnlyLeadsHarness :
    AllMeet [(.hrel {}, rig, fun c => !leads rig c), (.hstat { d := 4#8, dW := 2#2 }, rig, fun c => !leads rig c), (.hdrnReg { d := 4#8, b := 2#8, bS := true }, rig, fun c => !leads rig c)] :=
  allMeet_of (by decide +kernel)

/-- A register mustering two waves that the row's other wave has signed. -/
def half : State := { pair 1 with wk := { (pair 1).wk with hgrids := [(0, { state := 1, expect := 2, signed := [1], accu := 1 })] } }

/-- The first of two signers, the only one, the last of two, and one whose accumulators find too few granules free. -/
theorem witness_Mustering :
    let ok := fun (s : State) (last busy : Bool) (c : Issue) =>
      let m := Muster.of (c.sB s)
      let g := hKey c.w (c.b.mdN % 16)
      let h0 := s.hgrid g
      let h := if h0.state = 0 then c.freshGrid s m else h0
      let h1 := { h with signed := h.signed ++ [c.w] }
      (s.gridOfWave c.w).isNone && decide (c.sB s < 65536) && m.ok && (h0.state != 0 || !(groupRowsOf g h).any fun r => s.rowHeld r)
        && (h0.state == 0 || c.mismatch s h0 m == 0) && decide (h1.signed.length < m.expect) == !last && (!last || (s.takeGroup g h1).isNone == busy)
    let must := fun (n : Nat) => Instr.hmust { lit := some (BitVec.ofNat 32 n) }
    AllMeet [(must 260, rig, ok rig false false), (must 132, rig, ok rig true false), (must 260, half, ok half true false), (must 160, rig, ok rig true true)] :=
  allMeet_of (by decide +kernel)

/-- A member; 65536; no wave expected; a free register whose row another grid holds; and each clause of a signature that matches no register. -/
theorem witness_Mustering_stops :
    let must := fun (n : Nat) => Instr.hmust { lit := some (BitVec.ofNat 32 n) }
    let free := fun (s : State) (c : Issue) => (s.gridOfWave c.w).isNone && decide (c.sB s < 65536)
    let h : HGrid := { state := 1, expect := 2, signed := [1], accu := 1 }
    let other := fun (h : HGrid) => ({ rig with wk := { rig.wk with hgrids := [(0, h)] } } : State)
    let clause := fun (h : HGrid) (n : Nat) (c : Issue) => let s := other h
      free s c && (Muster.of (c.sB s)).ok && (s.hgrid (hKey c.w (c.b.mdN % 16))).state != 0
        && c.mismatch s (s.hgrid (hKey c.w (c.b.mdN % 16))) (Muster.of (c.sB s)) == n
    AllMeet [(must 132, gridRig, fun c => (gridRig.gridOfWave c.w).isSome), (must 65536, rig, fun c => decide (65536 ≤ c.sB rig)),
      (must 0, rig, fun c => free rig c && !(Muster.of (c.sB rig)).ok),
      (.hmust { lit := some 132#32, md := 1#5 }, other h, fun c => let s := other h
        free s c && (Muster.of (c.sB s)).ok && (s.hgrid (hKey c.w (c.b.mdN % 16))).state == 0
          && (groupRowsOf (hKey c.w (c.b.mdN % 16)) (c.freshGrid s (Muster.of (c.sB s)))).any fun r => s.rowHeld r),
      (must 260, other { h with ctx := 1 }, clause { h with ctx := 1 } 1), (must 132, other h, clause h 2),
      (must 260, other { h with base := 1 }, clause { h with base := 1 } 3),
      (must 260, other { h with state := 2, expect := 2, signed := [1, 2] }, clause { h with state := 2, expect := 2, signed := [1, 2] } 6)] :=
  allMeet_of (by decide +kernel)

/-- The lead and the offsets of the words that the conditions below ask for. -/
def region (c : Issue) (s : State) (rs : List (Nat × Nat)) : Bool :=
  rs.all fun r => decide (r.1 + r.2 ≤ (((s.block c.x.blk).bind fun b => b.region (coreOf c.w)).getD (0, 0)).2)

/-- One and 64 index entries, the last row, and operands at the end of the region. -/
theorem witness_HarnessControl :
    let b := fun (s : State) (c : Issue) => (c.s s c.b.b.toNat).toNat
    let at' := fun (s : State) (c : Issue) => (c.regA s 0 + litExt true 64 (c.b.lit.getD 0#32)) % 2 ^ 18
    let es := fun (s : State) (c : Issue) => (List.range (b s c)).map fun i => s.spNum (coreOf c.w) c.x.blk (at' s c) (2 * b s c) / 65536 ^ i % 65536
    let s := fun (x y : Nat) => sset (sset gridRig 2 x) 3 y
    let hlda : Instr := .hlda { a := 2#8, aS := true, b := 3#8, bS := true }
    let box : Instr := .hboxt { d := 1#8, a := 2#8, aS := true, b := 3#8, bS := true, md := 7#5 }
    let ix := fun (t : State) (n : Nat) (c : Issue) => leads t c && b t c == n && at' t c % 2 == 0 && region c t [(at' t c, 2 * n)] && (es t c).all fun e => decide (e ≤ 511)
    AllMeet [(.hrel {}, gridRig, leads gridRig), (.hstat { d := 4#8, dW := 2#2 }, gridRig, leads gridRig), (.hswap {}, gridRig, leads gridRig),
      (.hldaNone { md := 1#5 }, gridRig, leads gridRig), (hlda, s 4094 1, ix (s 4094 1) 1), (hlda, s 3968 64, ix (s 3968 64) 64),
      (.hzero { b := 3#8, bS := true }, s 0 127, fun c => leads (s 0 127) c && decide (b (s 0 127) c < 2 ^ 22 ∧
        b (s 0 127) c % 2048 + b (s 0 127) c / 2048 < ((s 0 127).hgrid 0).accRows)),
      (.hrowsc { a := 8#8, aW := 2#2, b := 3#8, bS := true }, gridRig, fun c => leads gridRig c && decide (b gridRig c < 2 ^ 11 ∧
        b gridRig c + 32 * Body.regs c.b.aW = (gridRig.hgrid 0).accRows)),
      (box, s 2560 3968, fun c => leads (s 2560 3968) c && region c (s 2560 3968) (((lanesOf c.con).map fun l => (2560 + 24 * l, 24))
        ++ ((lanesOf c.con).map fun l => (2560 + 24 * (l + 32), 24)) ++ [(3968, 16 * (c.b.mdN % 8 + 1))]))] :=
  allMeet_of (by decide +kernel)

/-- The quad of zeros in s4 to s7 is a record of .mx8 rows at 0 with no pitch. -/
theorem witness_HarnessStreams :
    let q := fun (s : State) (c : Issue) => c.sGroup s c.b.a.toNat 4
    let cw := fun (s : State) (c : Issue) => (c.s s c.b.b.toNat).toNat
    let s := fun (x : Nat) => sset gridRig 3 x
    let h := (gridRig.hgrid 0).ahead
    AllMeet [(.hldb { a := 4#8, aW := 2#2, aS := true, md := 2#5 }, gridRig, fun c => leads gridRig c && q gridRig c == 0 && recordOk 0 false
        && c.b.mdN / 2 % 4 == 1 && region c gridRig [(0, 4 * 2 * gridRows h.shape * fmtBits 0 / 8)]),
      (.hlds { a := 4#8, aW := 2#2, aS := true, b := 3#8, bS := true }, s 511, fun c => leads (s 511) c && q (s 511) c == 0 && cw (s 511) c == 511
        && c.b.mdN % 4 == 0 && region c gridRig [(0, 16)]),
      (.hmma { lit := some 127#32, a := 4#8, aW := 2#2, aS := true }, gridRig, fun c => leads gridRig c && q gridRig c == 0
        && pairKc 0 (h.desc h.curb % 16) == some (bitsOf (h.desc h.curb) 8 7) && decide (512 ≤ h.desc h.curb) && c.sB gridRig == 127 && decide (127 < h.accRows)
        && !h.idxv && region c gridRig [(0, ceilDiv (h.fullK (h.desc h.curb) * fmtBits 0) 8)]),
      (.hdrnSp { a := 4#8, aW := 2#2, aS := true, b := 3#8, bS := true }, s 127, fun c => leads (s 127) c && q (s 127) c == 0 && recordOk 0 true && cw (s 127) c == 127
        && decide (127 < h.accRows) && region c gridRig [(0, gridN h.shape * drainBits 0 / 8)]),
      (.hdrnReg { d := 4#8, dW := 2#2, b := 3#8, bS := true }, s (60 * 2048 + 96), fun c => leads (s 0) c && cw (s (60 * 2048 + 96)) c == 60 * 2048 + 96
        && decide (96 + 31 < h.accRows) && decide (60 + 32 * Body.regs c.b.dW / drainBits 0 ≤ gridN h.shape))] :=
  allMeet_of (by decide +kernel)

/-! ### Work records and the beam -/

/-- The records that an offer reads, and whether each passes a test. -/
def recordsAll (s : State) (i : Instr) (p : Bool) (c : Issue) : Bool :=
  let sp := decide (2 ≤ c.b.mdN)
  let lanes := if c.b.mdN % 2 = 1 then [(lanesOf c.con).headD 0] else lanesOf c.con
  let r : State × Except Trap (List Piece) :=
    if sp then (s, s.checkSp (coreOf c.w) c.x.blk 8 false (c.recordWants s true))
    else s.checkGlobal (coreOf c.w) (s.ctxNo c.x) c.x.blk { kind := .load, align := 8, win := false } (c.recordWants s false)
  match offerRule i c, r with
  | some (bad, _), (s1, .ok ps) =>
    let t := s1.allRecords c sp ps lanes
    c.x.settled && !t.2.isEmpty && (t.2.all fun r => (bad t.1 r.2).isNone) == p
  | _, _ => false

def pushI (md : BitVec 5) : Instr := .tqpush { d := 4#8, a := 8#8, aW := 1#2, b := 2#8, bS := true, md := md }
def nrecI : Instr := .nrec { d := 4#8, a := 2#8, aS := true, b := 2#8, bS := true, md := 3#5 }
def launchI : Instr := .launch { d := 4#8, a := 2#8, aW := 1#2, aS := true, md := 1#5 }

/-- A task record whose trailer is well formed, from each lane; a node record once from the scratchpad; a launch record of zeros, which is ill-formed. -/
theorem witness_WorkRecords :
    AllMeet [(pushI 0#5, withMem rig [(58, 3#8)], recordsAll (withMem rig [(58, 3#8)]) (pushI 0#5) true), (nrecI, rig, recordsAll rig nrecI true),
      (launchI, rig, recordsAll rig launchI false)] :=
  allMeet_of (by decide +kernel)

/-- A ray along x of length 1 at 0; a frustum at 64 whose corners are all along x; DMAX of 1 in s7. -/
def beams : State :=
  sset (sset (withMem rig [(14, 0x80#8), (15, 0x3F#8), (26, 0x80#8), (27, 0x3F#8), (64, 1#8), (82, 0x80#8), (83, 0x3F#8), (94, 0x80#8), (95, 0x3F#8), (106, 0x80#8)
    , (107, 0x3F#8), (118, 0x80#8), (119, 0x3F#8)]) 7 0x3F800000) 2 64

/-- The control of a query, and that every item parses. -/
def itemsOk (s : State) (ray : Bool) (p : Option Nat) (c : Issue) : Bool :=
  let lanes := if ray then lanesOf c.con else [(lanesOf c.con).headD 0]
  let n := if ray then 32 else 64
  let addr := fun (s : State) (l : Nat) => (c.regA s l + litExt true 64 (c.b.lit.getD 0#32)) % 2 ^ 64
  match s.checkGlobal (coreOf c.w) (s.ctxNo c.x) c.x.blk { kind := .load, align := if ray then 16 else 64, win := false }
      (lanes.map fun l => { lane := l, va := addr s l, n := n }) with
  | (s1, .ok ps) =>
    let ctl := wordsOf 4 (c.sGroup s1 c.b.b.toNat 4)
    c.x.settled && badControl ctl ray == p && (p.isSome || lanes.all fun l => match itemOf ray (s1.itemWords c n l ps).2 ctl with | .ok _ => true | .error _ => false)
  | _ => false

def bqryI : Instr := .bqry { d := 8#8, a := 2#8, aW := 1#2, aS := true, b := 4#8, bW := 2#2, bS := true }
def brayI : Instr := .bray { d := 4#8, a := 8#8, aW := 1#2, b := 4#8, bW := 2#2, bS := true }
def bstatI (md : BitVec 5) : Instr := .bstat { d := 8#8, dW := 2#2, a := 3#8, aS := true, md := md }

/-- A slot whose query is accepted and not over. -/
def asked : State :=
  let q : Query :=
    { gen := 0, blk := 0, ctx := 0, grid := 0, wave := 0, state := 1, sub := 0, count := 0, nodeAt := 0, kind := 1, item := 64
      words := [], ctl := [], bcl := 0, hgrid := 0, todo := [], units := [] }
  sset { rig with wk := { rig.wk with queries := [(0, q)] } } 3 (2 ^ 31)

theorem witness_BeamQueries :
    let misaligned := sset beams 4 1
    AllMeet [(bqryI, beams, itemsOk beams false none), (brayI, beams, itemsOk beams true none), (brayI, misaligned, itemsOk misaligned true (some 0x100)),
      (bqryI, sset beams 7 0, itemsOk (sset beams 7 0) false (some 0x10C)), (bstatI 2#5, asked, fun c => c.b.mdN % 2 == 0),
      (bstatI 1#5, rig, fun c => rig.queryOver (clusterOfWave c.w) c.x.blk (c.s rig c.b.a.toNat).toNat),
      (bstatI 1#5, asked, fun c => c.b.mdN % 2 == 1 && !asked.queryOver (clusterOfWave c.w) c.x.blk (c.s asked c.b.a.toNat).toNat)] :=
  allMeet_of (by decide +kernel)

/-- Records from each lane of which none is well formed; a ray of zeros; a query that is pending, over and not over. -/
theorem witness_BeamQueries_items :
    let held := fun (st : Nat) => sset (onWave asked fun x => { x with pend := [pendOf (.bstat true false (2 ^ 31) { cls := 1, base := 8, cnt := 4 })] }) 7 st
    let ended : State := { held 0 with wk := { (held 0).wk with queries := [] } }
    let zeros := sset rig 7 0x3F800000
    AllMeet [(pushI 0#5, rig, recordsAll rig (pushI 0#5) false),
      (brayI, zeros, fun c => itemsOk zeros true none c == false && badControl (wordsOf 4 (c.sGroup zeros c.b.b.toNat 4)) true == none)]
    ∧ (((held 0).wave 0).any fun x => !(held 0).queryOver 0 x.blk (2 ^ 31)) = true ∧ ((ended.wave 0).any fun x => ended.queryOver 0 x.blk (2 ^ 31)) = true :=
  ⟨allMeet_of (by decide +kernel), by decide +kernel, by decide +kernel⟩

/-! ### Memory laws -/

theorem witness_StoredBytes :
    (255 % 128 + [7#8].length ≤ 128 ∧ 0 < [7#8].length) ∧ (mget rig.m.own (255 / 128) = none ∧ mget dirtyLine.m.own 5 = some 0)
    ∧ (0 < 128 ∧ 127 < 128 ∧ 254 < 255) ∧ (dirtyLine.m.l1Line 0 5).any (fun x => mrising x.dirty && x.dirty.all fun k => decide (k.1 < 128)) = true := by
  decide +kernel

/-- A store of the last byte of line 0 at the head of the queue. -/
theorem witness_StoreLeavesQueue :
    let q : Put := { at' := { lane := 31, off := 0, len := 1, va := 127, loc := .mem 127 }, bytes := [7#8] }
    let s := onWave rig fun x => { x with sq := [{ stamp := 0, puts := [q], scope := none }] }
    (s.wave 0).any (fun x => x.mayLeave (coreOf 0)) = true ∧ s.wk.dbgs = [] ∧ 127 % 128 + q.bytes.length ≤ 128
    ∧ mget s.m.own (127 / 128) = none ∧ 0 < 8192 := by
  decide +kernel

theorem witness_PlacedWordRuns : decodeTableWord 16 0x38C4 = some (.cIadd { d := 3#5, b := 7#5 }) := by decide +kernel
/-! ### Events of waves, data and engines -/

/-- Instruction 0 of the wave meets a condition. -/
def pendingIs (s : State) (p : Wave → Pend → Bool) : Bool := (s.wave 0).any fun x => (x.pending 0).any fun q => p x q

/-- A part at address 0 of lane 0. -/
def part0 : Piece := { lane := 0, off := 0, len := 4, va := 0, loc := .mem 0 }
def dst0 : Dst := { cls := 0, base := 1, cnt := 1 }

/-- A trap that is settled late. -/
def late : Trap := { cause := .pageFault, mask := 1#32 }

/-- Each kind of completion has its instruction pending and its conditions met, with every time at its first clock. -/
theorem witness_WaveCompletions :
    let is := fun (k : Work) (p : Wave → Pend → Bool) => pendingIs (pends rig k) fun x q => q.work == k && p x q
    let parked := fun (k : ParkKind) (e : Bool) => wave0 (onWave rig fun x => { x.park 1#32 0 k with mon := { line := some 0, event := e } })
    is (.release 2) (fun _ _ => true) ∧ is (.fence 0 0) (fun _ q => decide (q.due ≤ rig.clock))
    ∧ is (.fence 2 4) (fun x q => decide (q.due ≤ rig.clock) && x.fenceReady 0 2) ∧ is (.maint true 4 [0]) (fun x _ => x.sq.isEmpty)
    ∧ is (.check none 0 none) (fun _ _ => true) ∧ is (.check (some late) 3 none) (fun x _ => x.pend.all fun q => decide (q.stamp ≤ 0))
    ∧ is (.quota 31 none [] { dst0 with cls := 1 }) (fun _ q => decide (q.due ≤ rig.clock)) ∧ (wave0 rig).parks = []
    ∧ (wave0 (onWave rig fun x => { x with mon := { line := some 0 } })).mon.line.isSome
    ∧ is (.sfu [.v 1 0 0#32 0] none) (fun _ q => decide (q.due ≤ rig.clock)) ∧ (pends rig (.sfu [] none)).waves.length = 1
    ∧ ((parked (.mon none) true).parks.any fun p => p.kind == .mon none) ∧ (parked (.mon none) true).mon.event = true
    ∧ ((parked (.mon (some 0)) false).parks.any fun p => p.kind == .mon (some 0)) ∧ (parked (.mon (some 0)) false).mon.event = false
    ∧ (parked (.mon none) true).mon.resumed = false := by
  decide +kernel

/-- A barrier whose phase is complete since clock 0, at clock 1. -/
def fullBar : State :=
  { rig with clock := 1, co := { rig.co with bars := [(0, { target := 1, phase := 0, arr := 1, dep := 1, full := true, startClk := 0 })] } }

/-- An acquire load at cluster scope waits for line 5, which core 0 has released. -/
def draining : State :=
  let s := pends rig (.load 0 4 (some 2) [{ part0 with va := 640, loc := .mem 640 }] [] [] dst0)
  { s with m := { s.m with relTab := [(relKey 0 5, (1, 0))] } }

theorem witness_DataMoves :
    let is := fun (k : Work) => pendingIs (pends rig k) fun x q => q.work == k && x.inTurn (coreOf 0) q
    let sp : Piece := { part0 with loc := .sp 0 0 0 }
    let op : WordOp := { lane := 0, half := 0, len := 4, va := 0, loc := .mem 0, b := 1, bHigh := 0 }
    let noCode : State := { rig with co := { rig.co with icache := [], traces := [] } }
    let code := noCode.fillLine 0 0 (noCode.genOf (wave0 noCode)) 0x1000 0x1000
    (is (.load 4 4 none [part0] [] [] dst0) ∧ (wave0 rig).partlyQueued 0 part0 = false)
    ∧ (is (.load 4 4 (some 2) [part0] [] [] dst0) ∧ rig.drained 0 [part0] = true) ∧ is (.spLoad 4 4 none [[sp]] [] [] dst0)
    ∧ is (.spStore none [[{ at' := sp, bytes := [0#8, 0#8, 0#8, 0#8] }]])
    ∧ (pendingIs (pends rig (.spStore (some 1) [[]])) fun x q => x.inTurn (coreOf 0) q && x.settledBefore q.stamp) ∧ is (.spAtom 0 4 [[{ op with loc := .sp 0 0 0 }]] [] [] dst0)
    ∧ (is (.far 0 4 [op] [] [] none) ∧ tooEarly [op] [] = false) ∧ (is (.near 0 4 [op] [] [] dst0) ∧ ∀ e ∈ rig.wk.dbgs, e.2.den = false)
    ∧ ((match noCode.fetch 0 (wave0 noCode) 0x1000 with
        | .error bs => bs.isEmpty && (wave0 noCode).fetches && (wave0 noCode).issuePc == some 0x1000
          && (match noCode.translate 0 0 0x1000 .fetch with | (_, .ok pa) => pa == 0x1000 | (_, .error _) => false) && !noCode.m.corePoisoned 0 0x1000
          && (noCode.lineByte 0 0 (noCode.genOf (wave0 noCode)) 0x1000).isNone
        | .ok _ => false) = true)
    ∧ ((match code.fetch 0 (wave0 code) 0x1000 with
        | .error bs => bs.isEmpty && (code.lineByte 0 0 (code.genOf (wave0 code)) 0x1000).isSome
        | .ok _ => false) = true)
    ∧ ((dirtyLine.m.l1Line 0 5).isSome ∧ dirtyLine.reserved 0 5 = false)
    ∧ (draining.acquireWaits 0 5 ∧ 0 ∈ draining.m.recorded 0 5 128)
    ∧ ((mget fullBar.co.bars 0).any fun b => b.full && decide (b.startClk < fullBar.clock)) ∧ (mget rig.co.tbls 0).isSome
    ∧ (pendingIs (pends rig (.tblset 0 1 [] [])) fun _ q => q.work == .tblset 0 1 [] [])
    ∧ (pendingIs (pends rig (.tbleval 0 0 [(0, 1#32)] dst0)) fun _ q => q.work == .tbleval 0 0 [(0, 1#32)] dst0)
    ∧ ((pends rig (.tblset 0 1 [] [])).tblOlder 0 0 fun _ => true) = false := by
  decide +kernel

/-- Grid 0 as given. -/
def grid (h : HGrid) : State := { rig with clock := 1000, wk := { rig.wk with hgrids := [(0, h)] } }
def led : HGrid := { state := 2, expect := 1, signed := [0], accu := 1, sw := true, lead := some 0 }
def opOf (code : Nat) (args : List Nat) : HOp := { stamp := 0, code := code, pc := 0x1000, args := args, start := 0, done := 0 }

/-- A frustum whose corners lie along x, and a ray along x of length 1, as words. -/
def frustum : List Nat := [1, 0, 0, 0, 0x3F800000, 0, 0, 0x3F800000, 0, 0, 0x3F800000, 0, 0, 0x3F800000, 0, 0]
def ray : List Nat := [0, 0, 0, 0x3F800000, 0, 0, 0x3F800000, 0]
def queryOf (st : Nat) (todo : List BTodo) : Query :=
  { gen := 0, blk := 0, ctx := 0, grid := 0, wave := 0, state := st, sub := 0, count := 4095, nodeAt := 0, kind := 3, item := 0, words := ray
    ctl := [0, 0, 0, 0], bcl := 0, hgrid := 0, todo := todo, units := [] }
def asking (q : Query) : State := { rig with wk := { rig.wk with queries := [(0, q)] } }
def rec0 : Rec := { bytes := List.replicate 64 0#8, emitter := 0, depth := 0 }

/-- A send of wave 0's instruction 0 to the router, and to the peer. -/
def send0 : Send := { id := 2 ^ 15, vec := 0, ctx := 0, payload := 0, route := 0, w := some (0, 0), page := none }

theorem witness_EngineEvents :
    let bin : NBin := { valid := true, trun := true, timer := 1, held := [rec0] }
    let tq : TQ := { slog2 := 1, sbase := 0, rlog2 := 1, rtail := 1 }
    let visit := asking (queryOf 3 [.visit 0 0 0 0 0 0 64])
    let binned : State := { asking (queryOf 2 [.emit 0 0 0 0 0 0 1 1 0 0]) with wk := { (asking (queryOf 2 [.emit 0 0 0 0 0 0 1 1 0 0])).wk with nbins := [(0, bin)] } }
    ((grid { led with sw := false }).onGroup 0 led).all (fun p => p.2.pend.all fun r => r.work.kept) = true
    ∧ (mrising (grid { led with state := 3 }).wk.hgrids ∧ mget (grid { led with state := 3 }).wk.hgrids 0 = some { led with state := 3 })
    ∧ ((opOf 0x1E6 [0]).args.getD 0 0 ≤ (opOf 0x1E6 [0]).done ∧ led.latency (opOf 0x1E6 [0]) ≤ 1000
      ∧ (grid { led with ops := [opOf 0x1E6 [0]] }).gridOfWave 0 = some (0, { led with ops := [opOf 0x1E6 [0]] }))
    ∧ (led.latency (opOf 0x1E1 []) ≤ 1000 ∧ led.queries = 0 ∧ led.lead = some 0) ∧ led.latency (opOf 0x1E7 [0, 1]) ≤ 1000
    ∧ (2 * tq.held.length < tq.slots ∧ 0 < tq.ringed)
    ∧ (bin.timerAt + 1000 * bin.timer ≤ ({ rig with timeFs := 10 ^ 9 } : State).timeNs)
    ∧ ((asking (queryOf 1 [])).queryRuns (queryOf 1 []) ∧ (match itemOf true ray [0, 0, 0, 0] with | .ok _ => true | .error _ => false) = true)
    ∧ (asking (queryOf 2 [])).query 0 = some (queryOf 2 [])
    ∧ ((visit.hgrid 0).rowsLeft = false ∧ (match visit.readNode { queryOf 3 [] with units := (List.range 16).map fun i => (i, List.replicate 8 0#8) } 0 with
        | (_, .ok us) => decide (16 ≤ us.length) && (parseNode (us.flatMap Prod.snd)).isSome
        | _ => false) = true)
    ∧ ((queryOf 2 []).count < 4096 ∧ binned.clusterUp 0 ∧ (mget binned.wk.nbins 0).any fun b => b.valid && b.ctx == 0 && decide (2 ^ b.slog2 ≤ b.held.length))
    ∧ (binned.putBin 0 { bin with held := [] }).wk.nbins.all (fun b => decide (b.2.held.length < 2 ^ b.2.slog2))
    ∧ ([send0][0]? = some send0 ∧ send0.page = none ∧ send0.w = some (0, 0))
    ∧ ({ record := true, dirty := true } : Ctx).record = true
    ∧ (rig.modTwin fun t => { t with state := 2 }).pk.twin.state = 2 ∧ ([send0].find? fun e => (e.w.map Prod.snd) == some 0) = some send0 := by
  decide +kernel

/-! ### Launches, scheduling and the host -/

/-- A copy entry that fills no bytes, with a status so far. -/
def copy0 (st : Nat) : Copy := { idx := 0, fields := [1, 0, 0, 0, 0, 0, 0, 0], status := st, cut := 0, coll := none, pub := 0 }
def ringed (notify : Nat) (busy : List Copy) : State :=
  rig.putRing 0 0 { notify := notify, taken := busy.length, done := 0, failed := 0, credits := [], busy := busy }

/-- A barrier collective of the twins. -/
def coll0 : Coll := { ctx := 0, tag := 0, core := 0, blk := 0, idx := 0, opc := 0x11, rcode := 0, rtype := 0, src := 0, dst := 4096, n := 4, peer := none }

/-- A kernel of one wave whose descriptor lies at 0x40, and a bind of cluster 1 that has one block to start. -/
def kdesc : List Host.Cell := [(0x48, 1#8), (0x4C, 1#8), (0x4E, 1#8), (0x50, 1#8)]
def bind0 : Bind := { kdesc := 0x40, gx := 1, gy := 1, gz := 1, past := 1, state := 1, cmask := 15, clus := 1, item := 9, prio := 16 }
def bound (b : Bind) (s : State) : State := { withMem s kdesc with wk := { s.wk with binds := [(0, b)] } }
def saved0 : Saved :=
  { block := { rigBlock with bind := 0, waves := 0, sp := [] }, waves := [], regs := [], sp := [], bars := [], sems := [], rings := [], tbls := [], grids := []
    queries := [] }
def gridOf : Grid :=
  { ctx := 0, die := 0, kdesc := 0x40, k := { threads := 32, alloc := 1 }, arg := 0, gx := 1, gy := 1, gz := 1, prio := 0, depth := 0, total := 1, retired := 0
    kids := 0, parents := [], reports := [], failTo := 0, status := 1, host := none, child := true }

/-- The launch that the item tag of `bind0` names. -/
def launched : State := { rig with wk := { rig.wk with grids := [(9, gridOf)] } }

/-- The start whose turn it is on cluster 1. -/
def starting (s : State) (p : Start → Bool) : Bool := (s.turn 1).any fun t => t.1 == 0 && p t.2.2.1

theorem witness_CopiesAndLaunches :
    let fresh := fun (t : Start) => match t with | .fresh _ => true | _ => false
    let work := fun (n : Nat) (f : Work' → Work') => bound { bind0 with src := n } { rig with wk := f rig.wk }
    let queue := work 1 fun k => { k with tqs := [(64, { kdesc := 0x40, held := [rec0], valid := true, slog2 := 1 })] }
    let bins := fun (f : Bool) (b : NBin) => work 2 fun k => { k with nbins := [(256, { b with kdesc := 0x40, held := [rec0], valid := true, fired := f })] }
    let g := oneBlock 0 0 0x40 0 0 0 [] [trailerOf rec0.bytes] 130
    ((ringed 1 [copy0 0x82]).ring 0 0).busy.find? (fun e => e.idx == 0) = some (copy0 0x82) ∧ (copy0 1).coll = none
    ∧ (({ saved0 with rings := [(0, { notify := 1, taken := 1, done := 0, failed := 0, credits := [], busy := [copy0 1] })] } : Saved).entry 0 0).isSome
    ∧ ((ringed 1 []).mayTake 0 0 ∧ (ringed 1 []).pk.twin.state ≠ 1) ∧ (ringed 0 []).mayTake 0 0 = false
    ∧ ((rig.modTwin fun t => { t with state := 2 }).pk.twin.state = 2 ∧ coll0.peer = none ∧ (0x11 = coll0.opc ∧ 4 = coll0.n) ∧ ¬(0x10 = coll0.opc))
    ∧ answered (rig.engineBytes coll0.core coll0.ctx coll0.blk coll0.src (collLens coll0.opc coll0.n).1)
    ∧ starting queue fresh ∧ (queue.newGrid g).2 = some 1
    ∧ (starting (bins true {}) fresh ∧ ({} : NBin).landing = some 0)
    ∧ (starting (bound { bind0 with requeue := [{ fetchBlock with alloc := 1, k := { threads := 32, alloc := 1 } }] } rig) fun t => match t with | .again _ => true | _ => false)
    ∧ starting (bound bind0 launched) fresh := by
  decide +kernel

/-- A bin none of whose landing slots is free launches nothing: its bind has no turn through it, and has one through a saved block. -/
theorem witness_CopiesAndLaunches_full :
    let b : NBin := { lused := [0], held := [rec0], valid := true, fired := true }
    let s := bound { bind0 with src := 2 } { rig with wk := { rig.wk with nbins := [(256, b)], saved := [(3, saved0)] } }
    b.landing = none ∧ starting s fun t => match t with | .saved _ _ => true | _ => false := by
  decide +kernel

/-- A bin's record goes to its landing slot, and its grid is launched. -/
theorem witness_CopiesAndLaunches_bin :
    let b : NBin := { kdesc := 0x40, lbase := 0x1000, held := [rec0], valid := true, fired := true, cntm1 := 0 }
    let s := bound { bind0 with src := 2 } { rig with wk := { rig.wk with nbins := [(256, b)] } }
    let s1 := s.putBin 256 (b.launched 1 0 s.timeNs)
    (s1.devWrite 0 0x1000 rec0.bytes).2 = true
    ∧ ((s1.devWrite 0 0x1000 rec0.bytes).1.newGrid (oneBlock 0 0 0x40 bind0.arg 0 1 [0] [(0, 0, 0)] 515)).2 = some 1 := by
  decide +kernel

/-- A copy entry of a block, and of a saved block, that has failed, with a poisoned source, and with work left; the first half of its
work is a read, and one that has been read has a write to make. -/
theorem witness_CopiesAndLaunches_entries :
    let e := { copy0 1 with fields := [1, 1, 0, 0, 0x1000, 0, 0x2000, 0] }
    let read := { e with fields := [1, 1, 4, 0, 0x1000, 0, 0x2000, 0] }
    (copy0 0x82).left = 0 ∧ (copy0 0x82).status ≠ 0x88 ∧ (copy0 0x88).status = 0x88 ∧ (copy0 1).coll = none
    ∧ answered (rig.copyRead 0 0 0 read 0) = true ∧ (rig.copyWrite 0 0 0 read 0 [7#8] [false]).2 = 1 := by
  decide +kernel

/-- All lanes exited, nothing pending. -/
def finished : State := onWave rig fun x => x.mapLanes fun _ y => { y with st := .exited }

theorem witness_SchedulingEvents :
    let old := bound { bind0 with prio := 15 } rig
    let none' : State := { rig with waves := [] }
    let saving : State := { none' with wk := { none'.wk with blocks := [(0, { rigBlock with saving := true })] } }
    let wants : Bind := { bind0 with clus := 0, cmask := 1 }
    let crowded : State := onBlock (bound wants { rig with wk := { rig.wk with grids := [(9, { gridOf with k := { gridOf.k with scratch := 2 ^ 18 } })] } }) fun b => { b with bind := 1 }
    let victim : State := { crowded with wk := { crowded.wk with binds := [(0, wants), (1, { bind0 with clus := 0, past := 0, save := 0x100000 })] } }
    (old.bind 0).isSome ∧ ((bound { bind0 with age := 1, cap := 17 } { rig with timeFs := 10 ^ 18 }).bind 0).any (fun b => b.agingDue (10 ^ 12)) = true
    ∧ (mrising finished.waves ∧ finished.waveDone 0 (wave0 finished) ∧ (wave0 finished).pend = []) ∧ rig.waveDone 0 (wave0 rig) = false
    ∧ (none'.copiesLeft 0 rigBlock = false ∧ rigBlock.saving = false)
    ∧ (saving.clusterStopped 0 = false ∧ saving.quiet 0 { rigBlock with saving := true })
    ∧ (starting (bound bind0 { rig with wk := { rig.wk with saved := [(3, saved0)] } }) fun t => match t with | .saved i _ => i == 3 | _ => false)
    ∧ ((victim.candidates 0).map Prod.fst = [0] ∧ victim.spotOf 0 (0, wants) = none ∧ (victim.victim 0 0 wants.eff).map Prod.fst = some 0
      ∧ (∀ p ∈ victim.wk.blocks, p.2.saving = false) ∧ (victim.devWrite 0 0x100000 (leBytesOf 8 (2 ^ 63))).2 = true) := by
  decide +kernel
/-- Queue 0, or another, with a command of the bytes given, by offset, at its head; and the context image of CTXCFG at 0x30000. -/
def queued (n : Nat) (cs : List (Nat × Nat)) : State :=
  let s := withMem rig (cs.map (fun c => (0x20000 + c.1, BitVec.ofNat 8 c.2)) ++ [(0x30034, 1#8)])
  { s with
    wk := { s.wk with ctxs := [(0, { valid := true, record := true })], hqs := [(n, { conf := true, valid := true, base := 0x20000, tail := 1 })] }
    pk := { s.pk with topo := { s.pk.topo with status := 3 } } }

/-- The next command is well formed, or not, and meets a test. -/
def commands (n : Nat) (cs : List (Nat × Nat)) (ok : Bool) (p : List Byte → Bool) : Bool :=
  match (queued n cs).nextCmd n with
  | (u, some (_, bs)) => (mget u.wk.hqs n).isSome && u.cmdOk bs == ok && p bs
  | _ => false

/-- Each command's bytes, from R351's table. -/
theorem witness_HostEvents :
    let op := fun (k : Nat) (bs : List Byte) => cmdOpc bs == k
    let at' := fun (k i v : Nat) (bs : List Byte) => cmdOpc bs == k && fieldOf bs i 1 == v
    ((queued 0 []).openPage 0).any (fun q => q.valid) ∧ bitsOf 0x3FFF 15 14 = 0
    ∧ commands 0 [(0, 9)] false (op 9) ∧ commands 0 [(0, 1), (32, 1), (36, 1), (38, 1)] true (op 1)
    ∧ (commands 0 [(0, 2), (16, 1)] true fun bs =>
        let e : Copy := { idx := 0, fields := (List.range 8).map fun i => fieldOf bs (16 + 4 * i) 4, status := 1, cut := 0, coll := none, pub := 0 }
        e.hostCheck == 1 && (((queued 0 []).bump.acquireAt 0 5 []).copyRest 0 0 0 e).2 == 1)
    ∧ (commands 0 [(0, 2)] true fun bs =>
        let e : Copy := { idx := 0, fields := (List.range 8).map fun i => fieldOf bs (16 + 4 * i) 4, status := 1, cut := 0, coll := none, pub := 0 }
        e.hostCheck != 1)
    ∧ commands 0 [(0, 3), (33, 5)] true (at' 3 32 0) ∧ commands 0 [(0, 3), (32, 1), (33, 6)] true (at' 3 32 1)
    ∧ ((queued 0 []).qWrite 0 0 (leBytesOf 8 7)).2 ∧ answered ((queued 0 []).qRead 0 0 8) ∧ (queued 0 []).devPoisoned 0 0 8 = false
    ∧ (commands 0 [(0, 8), (16, 5)] true (op 8) ∧ ((queued 0 [(0, 8), (16, 5)]).tryFence 0).2 = false)
    ∧ (commands 0 [(0, 6), (25, 255)] true (at' 6 25 255) ∧ answered ((queued 0 []).qRead 0 0 640)) ∧ commands 0 [(0, 5), (25, 1)] true (at' 5 25 1)
    ∧ commands 0 [(0, 5), (18, 3)] true (at' 5 25 0)
    ∧ (match ((queued 0 []).qRead 0 0x30000 640).2 with | .ok img => ctxOk img | .error _ => false) = true
    ∧ commands 0 [(0, 5), (25, 2), (26, 4)] true (at' 5 25 2) ∧ (queued 0 []).freeHostQ = some 1
    ∧ commands 0 [(0, 6), (25, 31)] true (at' 6 25 31) ∧ commands 0 [(0, 7), (24, 1)] true (at' 7 28 0)
    ∧ commands 0 [(0, 7), (24, 1), (28, 1)] true (at' 7 28 1) ∧ commands 1 [(0, 6)] true (op 6) ∧ commands 1 [(0, 7), (24, 1)] true (at' 7 28 0)
    ∧ (commands 0 [(0, 4)] true (op 4) ∧ (mgetD (queued 0 []).wk.hqs 0 {}).busy = []) := by
  decide +kernel

/-- Configured and ready, with one channel and one host link, and a twin as given. -/
def ready (f : Twin → Twin) : State :=
  let s := (queued 0 []).modTwin f
  { s with pk := { s.pk with topo := { s.pk.topo with channels := 2 ^ 95, hlinks := 2 ^ 11, memsize := 2 ^ 34 } } }

/-- A WAIT whose time has run out; the host reads and writes the last byte of memory; writes to registers of each size, and to the window. -/
theorem witness_HostEvents_accesses :
    let c : Cmd := { idx := 0, bytes := (List.range 64).map fun i => if i = 0 then 4#8 else if i = 36 then 1#8 else 0#8, at' := 0 }
    (([c].find? fun c => cmdOpc c.bytes == 4 && fieldOf c.bytes 36 4 != 0 && decide (c.at' + 1000 * fieldOf c.bytes 36 4 ≤ 1000)) = some c
      ∧ ({ rig with timeFs := 10 ^ 9 } : State).timeNs = 1000) ∧ cmdOpc ((List.range 64).map fun i => if i = 0 then 8#8 else 0#8) = 8
    ∧ ((ready id).dataLink = true ∧ (∀ i, i < 1 → (ready id).inMemory (2 ^ 34 - 1 + i) = true) ∧ (ready id).m.poisoned (2 ^ 34 - 1) 1 = false
      ∧ ({ (ready id).m with memPoison := [2 ^ 31 - 1] } : Mem).poisoned (2 ^ 34 - 1) 1 = true
      ∧ (2 ^ 34 - 1) % 128 + 1 ≤ 128)
    ∧ ((8 = 1 ∨ 8 = 2 ∨ 8 = 4 ∨ 8 = 8) ∧ 0x1008 % 8 = 0 ∧ (ready id).devReady = true ∧ inWindow (windowBase + 0x1FFFFFF8) = true) := by
  decide +kernel

/-- An address outside memory; a rein that no route takes. -/
theorem witness_HostEvents_refusals :
    ((ready id).dataLink = true ∧ (ready id).inMemory (2 ^ 34 - 1 + 1) = false ∧ 1 < 2)
    ∧ (bitsOf 0x4000 15 14 ≠ 0 ∧ ((queued 0 []).openPage 0).any (fun q => decide (q.resultOf ≤ q.sends + 1))) := by
  decide +kernel

/-! ### The supervisor, the debug unit and the package -/

def stop0 : Stop := { slot := 0, frame := 0x1000, blk := 0, ctx := 0, cause := 1, at' := 0 }
def supOf (x : Sup) : State :=
  { rig with co := { rig.co with sups := [(0, x)] }, wk := { rig.wk with ctxs := [(0, { valid := true, handler := 0x2000 })] } }
def stopping : State :=
  onWave rig fun x => x.stopWith (mkFrame rig 0 x { cause := .userTrap, mask := 1#32 } 1#32 0x1000 [] false false false none 0)

theorem witness_SupervisorEvents :
    let dbg := fun (d : Dbg) => ({ rig with wk := { rig.wk with dbgs := [(0, d)] } } : State)
    let broken := dbg { den := true, brk := [{ addr := 0x1000, ctl := 1 }, {}, {}, {}] }
    ((rig.sup 0).queue = [] ∧ (supOf { queue := [stop0] }).sup 0 = { queue := [stop0] } ∧ ((supOf {}).ctx 0).handler ≠ 0)
    ∧ ((wave0 (onWave stopping fun x => { x with run := .stopped })).trapped = true ∧ (wave0 stopping).dbg = false)
    ∧ ((supOf { handling := some stop0 }).sup 0).handling = some stop0
    ∧ (({ supOf { handling := some stop0 } with wk := { rig.wk with blocks := [] } } : State).block 0 = none)
    ∧ ((8 = 1 ∨ 8 = 2 ∨ 8 = 4 ∨ 8 = 8) ∧ (2 ^ 30 - 8) % 8 = 0 ∧ inWindow (2 ^ 30 - 8) = false ∧ answered (rig.translate 0 0 (2 ^ 30 - 8) .store))
    ∧ ((wave0 stopping).run = .stopping ∧ (wave0 stopping).atRest = true ∧ (wave0 stopping).frame.isSome)
    ∧ ((wave0 broken).issuePc = some 0x1000 ∧ broken.breakAt 0 (wave0 broken) 0x1000 = some 0 ∧ (broken.dbg 0).state = 0 ∧ (wave0 broken).run = .running)
    ∧ (((dbg { state := 1 }).dbg 0).state = 1 ∧ ∀ p ∈ (dbg { state := 1 }).waves, p.2.hit = none ∧ ¬(p.2.run = .stopping ∧ p.2.dbg = true))
    ∧ (wave0 (onWave rig fun x => { x with stepping := true, issues := 1 })).stepOver = true
    ∧ ((supOf { handling := some stop0 }).sup 0).sq = [] ∧ answered (rig.translate 0 0 (2 ^ 30 - 8) .load)
    ∧ ((match rig.translate 0 0 (2 ^ 30 - 8) .load with | (t, _) => (t.sup 0).sq) = [])
    ∧ ((windowBase + 0x300A08) % 8 = 0 ∧ inWindow (windowBase + 0x300A08) = true ∧ (windowBase + 0x300A08 - windowBase) % 0x400000 ≠ 0x300A00)
    ∧ mgetD [(0, 65534)] 0 0 % 65536 < 65535 ∧ mrising rig.co.errstat = true := by
  decide +kernel

/-- A handler that escalates: the block's grid was launched by the host, reports to nobody, or to one word; a misaligned store; a wave
that stops at the end of a step. -/
theorem witness_SupervisorEvents_handler :
    let s := supOf { handling := some stop0 }
    let launched := fun (g : Grid) => ({ s with wk := { s.wk with grids := [(0, g)] } } : State)
    let reporting := launched { gridOf with reports := [(0x3000, 5, 4)] }
    let step := onWave stopping fun x => { x with stepping := true }
    ((s.sup 0).handling = some stop0 ∧ (s.block 0).any (fun b => b.grid == 0))
    ∧ (((launched { gridOf with host := some (0, 7) }).grid 0).any fun g => g.host == some (0, 7))
    ∧ (((launched gridOf).grid 0).any fun g => g.host.isNone && g.reports.isEmpty)
    ∧ ((reporting.grid 0).any fun g => g.reports == [(0x3000, 5, 4)]) ∧ ((reporting.pushDown 5 fun _ => true).devWrite 0 0x3000 (leBytesOf 8 (3 + 5 * 2 ^ 16))).2 = true
    ∧ 4 % 8 ≠ 0 ∧ ((wave0 step).run = .stopping ∧ (wave0 step).atRest = true ∧ (wave0 step).dbg = false ∧ (wave0 step).frame.isSome ∧ (wave0 step).stepping = true) := by
  decide +kernel

theorem witness_PackageEvents :
    let s := ready id
    let up := ready fun t => { t with state := 2, run := 14 }
    rig.m.iommu.inval = [] ∧ s.devReady = true
    ∧ ((1975 + 25 = rig.pk.power.clkmhz) ∧ 800 ≤ 1975 ∧ 1975 ≤ 2000)
    ∧ (State.reset.devReady = false ∧ State.reset.pk.flash.sigOk = true ∧ State.reset.pk.flash.format = 1)
    ∧ (s.pk.svc ≠ 1 ∧ s.pk.offline = none ∧ s.pk.topo.clusters.testBit 1 = true ∧ ∀ p ∈ s.wk.binds, p.2.cluster p.1 ≠ 1)
    ∧ (s.pk.flash.clustersNow.testBit 31 = true ∧ s.pk.topo.clusters.testBit 31 = false) ∧ (s.pk.topo.channels.testBit 95 = true ∧ s.pk.retiring = none)
    ∧ ({ s.pk with retiring := some 95 } : Pack).retiring = some 95 ∧ (3 < 4 ∨ 3 = 0xFF) ∧ s.pk.flash.floors.getD 2 0 ≤ 0
    ∧ ({ s.pk.flash with floors := [0, 0, 1, 0] } : Flash).floors.getD 2 0 ≥ 1
    ∧ ({ s with pk := { s.pk with svc := 1 } } : State).devReady = true ∧ (s.pk.topo.hlinks.testBit (43 - 32) = true ∧ 32 ≤ 43 ∧ 43 < 44)
    ∧ (s.pk.twin.state = 0 ∧ s.pk.twin.en = true ∧ s.pk.twin.why = 0)
    ∧ ((ready fun t => { t with state := 1 }).pk.twin.state = 1 ∧ s.pk.flash.serial ≠ 1 ∧ 255 < 256)
    ∧ (up.pk.twin.state = 2 ∧ up.pk.colls = [] ∧ up.pk.peerSends = [] ∧ up.pk.twin.run < 15 ∧ 1 ≤ 7) := by
  decide +kernel

/-- An invalidation of every context while a transaction has buffered a store. -/
theorem witness_PackageEvents_fence : (reserved1.invalidate (.vma none none)).fenceHeld = true := by decide +kernel

end Sys2Proof.Tests
end

/-! # Numbers: the floating-point rows and their exceptions (R32, R36, R120 to R137) -/

namespace Sys2Proof.Machine

/-! ## Lane masks -/

/-- The number that `maskOf` builds of the first `n` lanes. -/
def maskBelow (p : Nat → Bool) (n : Nat) : Nat := (List.range n).foldl (fun a l => if p l then a + 2 ^ l else a) 0

theorem maskBelow_succ (p : Nat → Bool) (n : Nat) :
    maskBelow p (n + 1) = if p n then maskBelow p n + 2 ^ n else maskBelow p n := by
  simp [maskBelow, List.range_succ]

theorem maskBelow_lt (p : Nat → Bool) (n : Nat) : maskBelow p n < 2 ^ n := by
  induction n with
  | zero => simp [maskBelow]
  | succ n ih =>
    rw [maskBelow_succ]
    split <;> omega

theorem testBit_maskBelow (p : Nat → Bool) (n l : Nat) : (maskBelow p n).testBit l = (decide (l < n) && p l) := by
  induction n with
  | zero => simp [maskBelow]
  | succ n ih =>
    rw [maskBelow_succ]
    split
    next hp =>
      have hor : maskBelow p n + 2 ^ n = 2 ^ n ||| maskBelow p n := by
        rw [Nat.add_comm]
        simpa using Nat.two_pow_add_eq_or_of_lt (maskBelow_lt p n) 1
      rw [hor, Nat.testBit_or, Nat.testBit_two_pow, ih]
      grind
    next hp =>
      rw [ih]
      grind

theorem getLsbD_maskOf (p : Nat → Bool) {l : Nat} (h : l < 32) : (maskOf p).getLsbD l = p l := by
  change (BitVec.ofNat 32 (maskBelow p 32)).getLsbD l = p l
  simp [h, BitVec.getLsbD_ofNat, testBit_maskBelow, -BitVec.getLsbD_eq_getElem]

@[simp] theorem mem_lanesOf {w : Word} {l : Nat} : l ∈ lanesOf w ↔ l < 32 ∧ w.getLsbD l = true := by
  simp [lanesOf]

/-! ## From an effect to the next state -/

/-- An instruction's execution is the issue of its I64 form, with its own length and bytes, and this effect. -/
def IssuesAs (i : Instr) (eff : Issue → State → Eff) : Prop :=
  ∀ s, exec i s = issue i.core i.span (frameWords (encode i)) s eff

section
variable {i : Instr} {eff : Issue → State → Eff} {s : State} {c : Issue}

theorem IssuesAs.does {f : Fx} (hi : IssuesAs i eff) (hs : Starts i s c) (he : eff c s = .go f) : Does i s c f := by
  obtain ⟨hissuer, hcheck, hcon⟩ := hs
  exact (hi s).trans (issue_go hissuer hcheck hcon he)

theorem IssuesAs.traps {t : Trap} {fl : Cond} (hi : IssuesAs i eff) (hs : Starts i s c) (he : eff c s = .trap t fl) :
    Traps i s c t fl := by
  obtain ⟨hissuer, hcheck, hcon⟩ := hs
  exact (hi s).trans (issue_trap hissuer hcheck hcon he)

end

/-! ## Settling the lanes of a floating-point instruction (R35, R36) -/

section
variable (c : Issue) (s : State) (f : Nat → Nat × Cond)

theorem fpLanes_eq_settleFp :
    c.fpLanes s f = c.settleFp s (fpLaneResults c f) (lanesOfD c fun l => (f l).1) := by
  rw [lanesOfD, ← List.flatMap_map (fun l => (l, f l)) fun r => vWords c.b.d.toNat r.1 r.2.1 (Body.regs c.b.dW)]
  rfl

theorem fpLanes_eq_go (h : c.x.fpTrap (fpLaneResults c f) = none) :
    c.fpLanes s f = .go (results (s.modWave c.w fun y => y.orFlags (condsOf (fpLaneResults c f))) c.i.latency
      (lanesOfD c fun l => (f l).1)) := by
  rw [fpLanes_eq_settleFp, Issue.settleFp, h]
  rfl

theorem fpLanes_eq_trap {t : Trap} (h : c.x.fpTrap (fpLaneResults c f) = some t) :
    c.fpLanes s f = .trap t (condsOf (fpLaneResults c f)) := by
  rw [fpLanes_eq_settleFp, Issue.settleFp, h]

end

/-- Some result of a lane meets a predicate of its conditions exactly where that lane contributes and its own do. -/
theorem any_fpLaneResults (c : Issue) (f : Nat → Nat × Cond) (p : Cond → Bool) {l : Nat} (hl : l < 32) :
    ((fpLaneResults c f).any fun r => r.1 == l && p r.2.2) = (c.con.getLsbD l && p (f l).2) := by
  rw [Bool.eq_iff_iff]
  simp [fpLaneResults, hl]

theorem fpTrap_of_enabled {x : Wave} {rs : List (Nat × Nat × Cond)} (h : x.enabled (condsOf rs) ≠ 0#5) :
    x.fpTrap rs = some
      { cause := .fpException, sub := (condsOf rs).toNat + 256 * (x.enabled (condsOf rs)).toNat
        mask := maskOf fun l => rs.any fun r => r.1 == l && x.enabled r.2.2 != 0#5 } :=
  if_neg h

/-! ## Each row settles the values of its rule -/

/-- A conversion to the same format, in the words of R129. -/
theorem keep_eq (f : Fmt) (x : Nat) :
    f.keep x = if (f.decode x).isNan then (f.nan, if (f.decode x).isSNan then Cond.nv else 0#5) else (x, 0#5) := by
  unfold Fmt.keep
  cases f.decode x <;> rfl

theorem fcvtEff_of_fpRule {x : Body} {lat : Nat} {v : Issue → State → Nat → Nat × Cond} (h : fpRule (.fcvt x) = some (lat, v)) :
    fcvtEff = fun c s => c.fpLanes s (v c s) := by
  cases h
  funext c s
  simp only [fcvtEff, keep_eq]

theorem fdot4Eff_of_fpRule {x : Body} {lat : Nat} {v : Issue → State → Nat → Nat × Cond} (h : fpRule (.fdot4 x) = some (lat, v)) :
    fdot4Eff = fun c s => c.fpLanes s (v c s) := by
  cases h
  funext c s
  simp only [fdot4Eff, Nat.div_div_eq_div_mul, show 2 ^ 32 * 256 = 2 ^ 40 from rfl]

/-- Every row with a rule, of any width, is the issue of its I64 form with the values of the rule. FCVT and FDOT4 spell their
values in other words than the rule; the other rows have a rule that is their effect by definition, or none. -/
theorem issuesAs_of_fpRule {i : Instr} {lat : Nat} {v : Issue → State → Nat → Nat × Cond} (h : fpRule i.core = some (lat, v)) :
    IssuesAs i fun c s => c.fpLanes s (v c s) := by
  intro s
  cases i
  case fcvt | i32FcvtF32F16 | i32FcvtF32Bf16 | i32FcvtF16F32 | i32FcvtBf16F32 | i32FcvtF32E4m3 | i32FcvtF32E5m2 =>
    exact congrArg (issue _ _ _ s) (fcvtEff_of_fpRule h)
  case fdot4 | i32Fdot4E4m3 | i32Fdot4E5m2 => exact congrArg (issue _ _ _ s) (fdot4Eff_of_fpRule h)
  all_goals cases h <;> rfl

theorem latency_of_fpRule {j : Instr} {lat : Nat} {v : Issue → State → Nat → Nat × Cond} (h : fpRule j = some (lat, v)) :
    j.latency = lat := by
  unfold fpRule at h
  split at h <;> cases h <;> rfl

/-! ## O18 and O19 -/

/-- Settles O18: a row is the issue of its rule's values, which go to D when no enabled condition occurs. -/
theorem floatResults : Obligations.FloatResults := by
  unfold Obligations.FloatResults
  intro i lat v hrule s c hs hnone
  obtain ⟨-, -, -, hi, -⟩ := issuer_spec hs.1
  have hlat : c.i.latency = lat := hi ▸ latency_of_fpRule hrule
  refine (issuesAs_of_fpRule hrule).does hs ?_
  rw [fpLanes_eq_go c s _ hnone, hlat]

/-- Settles O19: an enabled condition makes the issue of the row end in the trap of `fpTrap_of_enabled`. -/
theorem floatTraps : Obligations.FloatTraps := by
  unfold Obligations.FloatTraps
  intro i lat v hrule s c hs hen
  refine ⟨_, rfl, rfl, fun l hl => ?_, (issuesAs_of_fpRule hrule).traps hs (fpLanes_eq_trap c s _ (fpTrap_of_enabled hen))⟩
  exact (getLsbD_maskOf _ hl).trans (any_fpLaneResults c (v c s) (fun e => c.x.enabled e != 0#5) hl)

end Sys2Proof.Machine

/-! # Encoding: the codec of every width (R47 to R59, R70) -/

namespace Sys2Proof.Laws.Row

/-- Every row of the table keeps its own code. -/
theorem statement (i : Instr) : Statement i := by
  cases i
  exacts [
    mov _, iadd _, isub _, iaddc _, imul _, imulh _, imad _, imin _, imax _, iabs _, shl _, shr _, rot _, and _, or _, xor _, andn _,
    bfe _, bfi _, popc _, clz _, brev _, prmt _, lea _, icmp _, sel _, movU _, iaddU _, isubU _, iaddcU _, imulU _, imulhU _, imadU _,
    iminU _, imaxU _, iabsU _, shlU _, shrU _, rotU _, andU _, orU _, xorU _, andnU _, bfeU _, bfiU _, popcU _, clzU _, brevU _, prmtU _,
    leaU _, icmpU _, selU _, fadd _, fsub _, fmul _, ffma _, ffma3 _, fmin _, fmax _, fcmp _, fclass _, frnd _, fcvt _, icvt _, hadd2 _,
    hmul2 _, hfma2 _, hmnx2 _, fdot4 _, idot4 _, mxunpk _, mxpack _, fexp2 _, flog2 _, frcp _, frsq _, fsqrt _, fsin _, fcos _, ftanh _,
    ferf _, tblset _, tblcommit _, tbleval _, rngx _, kand _, kor _, kxor _, knot _, kmov _, kmovKS _, kmovSK _, lpart _, shfl _, vote _,
    redux _, scan _, matchLanes _, bcast _, bra _, brx _ _, call _, callx _ _, ret _, yield _, exit _, kill _, nop _, waitd _, trap _,
    bkpt _, rcsr _, wcsr _, srd _, quotaGive _, quotaRel _, quotaTake _, icinv _, icinvAll _, ld _, st _, lds _, sts _, ldw _, stw _,
    pf _, lda _, stl _, fence _, clean _, inval _, atom _, atomf _, red _, mlres _, mlst _, mlcommit _, mlabort _, barinit _, barenrol _,
    bararv _, barwait _, barsync _, barq _, semadd _, semwait _, semset _, monarm _, monwait _, cpseal _, cpwait _, rsend _, rwait _,
    rtake _, rtakeAny _, rmaskSet _, rmaskClr _, rmaskWr _, hmust _, hrel _, hlda _, hldaNone _, hldb _, hswap _, hlds _, hmma _,
    hzero _, hrowsc _, hdrnReg _, hdrnSp _, hboxt _, hstat _, tqpush _, nrec _, launch _, bqry _, bray _, bstat _, sfuResultWrite _ _,
    tblsetBankWrite _ _, tblevalResult _ _, quotaSettle _ _, icinvComplete _ _, loadDataReturn _ _, storeQueueLeave _,
    translationCheckResult _ _, fenceComplete _ _, cacheMaintenanceComplete _ _, sliceWordOperation _ _ _, barrierStartComplete _,
    monitorEvent _, monwaitTimeout _, copyEntryTake _ _, copyEntryComplete _ _ _, reinRouterSend _, refusedWriteback _, gridSwitch _,
    gridReleaseEnd _, hmmaComplete _ _, queueRefill _, binTimerExpire _, queryStart _, compareBatch _, recordEmit _, queryEnd _,
    traceCacheFill _, waveRetire _, blockRetire _, waveStopReport _, saveImageWrite _, dbgStepDone _, instructionBreakpointHit _,
    clusterStopped _, drainAcknowledge _ _ _, collectiveComplete _, resultLanded _ _, scratchpadPass _ _, releaseComplete _ _,
    harnessCompletion _ _, cMov _, cIadd _, cIsub _, cAnd _, cOr _, cXor _, cShl _, cShr _, cFadd _, cFsub _, cFmul _, cFmin _, cFmax _,
    cImul _, cImax _, cImin _, i32Mov _, i32Iadd _, i32Isub _, i32Imul _, i32ImulhI32 _, i32ImulhN32 _, i32Imad _, i32IminI32 _,
    i32ImaxI32 _, i32IminN32 _, i32ImaxN32 _, i32Iabs _, i32Shl _, i32Shr _, i32ShrA _, i32Rot _, i32And _, i32Or _, i32Xor _, i32Andn _,
    i32Popc _, i32Clz _, i32Brev _, i32Fadd _, i32Fsub _, i32Fmul _, i32Ffma _, i32Fmin _, i32Fmax _, i32FaddRtz _, i32FmulRtz _,
    i32FfmaRtz _, i32FrndRne _, i32FrndRdn _, i32FrndRup _, i32FrndRtz _, i32Hadd2F16 _, i32Hmul2F16 _, i32Hfma2F16 _, i32Hadd2Bf16 _,
    i32Hmul2Bf16 _, i32Hfma2Bf16 _, i32FcvtF32F16 _, i32FcvtF32Bf16 _, i32FcvtF16F32 _, i32FcvtBf16F32 _, i32FcvtF32E4m3 _,
    i32FcvtF32E5m2 _, i32IcvtF32I32 _, i32IcvtF32N32 _, i32IcvtI32F32 _, i32IcvtN32F32 _, i32Fdot4E4m3 _, i32Fdot4E5m2 _, i32Idot4I8 _,
    i32Idot4N8 _, i32Hmnx2MinF16 _, i32Hmnx2MaxF16 _, i32Hmnx2MinBf16 _, i32Hmnx2MaxBf16 _, i32FaddRdn _, i32FaddRup _, i32FmulRdn _,
    i32FmulRup _, queueLaunch _ _, binLaunch _ _, blockStart _ _, trapqRead _ _, wcmdResume _, ecallDone _, ecallTeardown _ _,
    ecallEscalate _, supervisorException _ _, cmdRun _, cmdPause _, cmdSave _, cmdRestore _, cmdTeardown _, cmdUnassigned _ _,
    blockRestore _ _, preemption _, priorityAgingStep _, dbgResume _, dbgStep _ _ _, uncorrectableError _ _ _, correctableError _ _ _,
    errstatClear _, doorbellTail _ _, doorbellRsend _ _, doorbellIrqArm _ _, hostLaunch _, hostCopy _, hostSignalWrite _,
    hostSignalAdd _, hostWait _, hostWaitTimeout _, ctxcfgInstall _, ctxcfgTeardown _, ctxcfgCreateQueue _, reincfg _, biasflipToHost _,
    biasflipToDevice _, hostFence _, hostDataRead _ _, hostDataWrite _ _ _, iotinvalVma _ _ _, iofenceC _ _, iodirInvalDdt _,
    iodirInvalPdt _ _, powerLimitWrite _, clockStep _, perstRelease, moduleReset, functionLevelReset, attestationRequest _,
    svcClusterOffline _, svcClusterOnline _, svcRetireChannel _, svcProceedRetirement _, svcRetrainChannel _, svcFirmwareHandover _,
    ucieModuleFailure _, twinEnable _, twinRetrain, linkTrainingComplete _, linkDownEvent _, linkAutoRetrain,
    collectiveMatch _ _ _ _ _ _, peerReinArrival _, peerReinAnswer _ _, registerWrite _ _ _ _, cacheEviction _ _,
    supervisorStore _ _ _ _, badCommand _, flitReplay _]

end Sys2Proof.Laws.Row

namespace Sys2Proof.Machine

/-- A step has a form exactly where it has an encoding: the steps without one are the events. -/
theorem isInstruction_eq_not_isEvent (i : Instr) : i.isInstruction = !isEvent i := by
  cases i <;> rfl

end Sys2Proof.Machine

namespace Sys2Proof

open Machine

/-! ## Settling a row (R70, rows 3 to 5) -/

theorem settle_of_wellFormed {i : Instr} (h : i.wellFormed = true) : settle i = .ok i := by
  simp only [Instr.wellFormed, Bool.and_eq_true] at h
  simp [settle, h]

theorem eq_and_wellFormed_of_settle {i j : Instr} (h : settle i = .ok j) : j = i ∧ i.wellFormed = true := by
  unfold settle at h
  split at h
  · cases h
  · split at h
    · cases h
    · cases h
      simp_all [Instr.wellFormed]

/-! ## The bytes of a word -/

/-- Bytes laid out read back as the word. -/
theorem ofNat_leNat_leBytes {n k : Nat} (w : BitVec n) (h : 2 ^ n = 256 ^ k) : BitVec.ofNat n (leNat (leBytes k w.toNat)) = w := by
  rw [leNat_leBytes, Nat.mod_eq_of_lt (h ▸ w.isLt), BitVec.ofNat_toNat, BitVec.setWidth_eq]

/-! ## The length code (R47) -/

theorem toNat_mod_four {n : Nat} (w : BitVec n) : w.toNat % 4 = (w.extractLsb' 0 2).toNat := by
  simp [BitVec.extractLsb'_toNat]

section
variable {b0 b1 : Byte} {r : List Byte}

theorem decode_short (h0 : leNat [b0, b1] ≠ 0) (hc : leNat [b0, b1] % 4 = 0) :
    decode (b0 :: b1 :: r) = decodeC16 (BitVec.ofNat 16 (leNat [b0, b1])) := by
  simp [decode, h0, hc]

theorem decode_medium (hc : leNat [b0, b1] % 4 = 1) (hr : 2 ≤ r.length) :
    decode (b0 :: b1 :: r) = decodeI32 (BitVec.ofNat 32 (leNat ((b0 :: b1 :: r).take 4))) := by
  have h0 : leNat [b0, b1] ≠ 0 := by omega
  simp [decode, h0, hc, Nat.not_lt.mpr hr]

theorem decode_wide (hc : leNat [b0, b1] % 4 = 2) (hr : 6 ≤ r.length) :
    decode (b0 :: b1 :: r) = decodeWide (BitVec.ofNat 64 (leNat ((b0 :: b1 :: r).take 8))) none ((b0 :: b1 :: r).drop 8) := by
  have h0 : leNat [b0, b1] ≠ 0 := by omega
  simp [decode, h0, hc, Nat.not_lt.mpr hr]

theorem decode_extended (hc : leNat [b0, b1] % 4 = 3) (hr : 10 ≤ r.length) :
    decode (b0 :: b1 :: r) = decodeWide (BitVec.ofNat 64 (leNat ((b0 :: b1 :: r).take 8)))
      (some (BitVec.ofNat 32 (leNat (((b0 :: b1 :: r).drop 8).take 4)))) ((b0 :: b1 :: r).drop 12) := by
  have h0 : leNat [b0, b1] ≠ 0 := by omega
  simp [decode, h0, hc, Nat.not_lt.mpr hr]

end

/-- The first parcel of a word laid out has the word's length code. -/
theorem parcel_mod_four {n : Nat} (w : BitVec n) :
    leNat [BitVec.ofNat 8 w.toNat, BitVec.ofNat 8 (w.toNat / 256)] % 4 = (w.extractLsb' 0 2).toNat := by
  have hp : leNat [BitVec.ofNat 8 w.toNat, BitVec.ofNat 8 (w.toNat / 256)] = w.toNat % 65536 := leNat_leBytes 2 w.toNat
  rw [← toNat_mod_four]
  omega

theorem decode_leBytes_16 {w : BitVec 16} (h0 : w ≠ 0#16) (hc : w.extractLsb' 0 2 = 0#2) (rest : List Byte) :
    decode (leBytes 2 w.toNat ++ rest) = decodeC16 w := by
  have hp : leNat [BitVec.ofNat 8 w.toNat, BitVec.ofNat 8 (w.toNat / 256)] = w.toNat :=
    (leNat_leBytes 2 w.toNat).trans (Nat.mod_eq_of_lt w.isLt)
  have hw : w.toNat ≠ 0 := fun h => h0 (BitVec.eq_of_toNat_eq h)
  calc decode (leBytes 2 w.toNat ++ rest)
    _ = decodeC16 (BitVec.ofNat 16 (leNat [BitVec.ofNat 8 w.toNat, BitVec.ofNat 8 (w.toNat / 256)])) :=
      decode_short (by rw [hp]; exact hw) (by rw [parcel_mod_four, hc]; rfl)
    _ = decodeC16 w := by rw [hp, BitVec.ofNat_toNat, BitVec.setWidth_eq]

theorem decode_leBytes_32 {w : BitVec 32} (hc : w.extractLsb' 0 2 = 1#2) (rest : List Byte) :
    decode (leBytes 4 w.toNat ++ rest) = decodeI32 w := by
  have hd : decode (leBytes 4 w.toNat ++ rest) = decodeI32 (BitVec.ofNat 32 (leNat ((leBytes 4 w.toNat ++ rest).take 4))) :=
    decode_medium (by rw [parcel_mod_four, hc]; rfl) (by simp)
  rwa [List.take_left' (length_leBytes 4 _), ofNat_leNat_leBytes w rfl] at hd

theorem decode_leBytes_64 {w : BitVec 64} (hc : w.extractLsb' 0 2 = 2#2) (rest : List Byte) :
    decode (leBytes 8 w.toNat ++ rest) = decodeWide w none rest := by
  have hd : decode (leBytes 8 w.toNat ++ rest) = decodeWide (BitVec.ofNat 64 (leNat ((leBytes 8 w.toNat ++ rest).take 8))) none
      ((leBytes 8 w.toNat ++ rest).drop 8) :=
    decode_wide (by rw [parcel_mod_four, hc]; rfl) (by simp)
  rwa [List.take_left' (length_leBytes 8 _), List.drop_left' (length_leBytes 8 _), ofNat_leNat_leBytes w rfl] at hd

theorem decode_leBytes_96 {w : BitVec 64} (l : Word) (hc : w.extractLsb' 0 2 = 3#2) (rest : List Byte) :
    decode (leBytes 8 w.toNat ++ (leBytes 4 l.toNat ++ rest)) = decodeWide w (some l) rest := by
  have h12 : (leBytes 8 w.toNat ++ (leBytes 4 l.toNat ++ rest)).drop 12 = rest := by
    rw [← List.append_assoc, List.drop_left' (by simp)]
  have hd : decode (leBytes 8 w.toNat ++ (leBytes 4 l.toNat ++ rest)) =
      decodeWide (BitVec.ofNat 64 (leNat ((leBytes 8 w.toNat ++ (leBytes 4 l.toNat ++ rest)).take 8)))
        (some (BitVec.ofNat 32 (leNat (((leBytes 8 w.toNat ++ (leBytes 4 l.toNat ++ rest)).drop 8).take 4))))
        ((leBytes 8 w.toNat ++ (leBytes 4 l.toNat ++ rest)).drop 12) :=
    decode_extended (by rw [parcel_mod_four, hc]; rfl) (by simp +arith)
  rwa [h12, List.take_left' (length_leBytes 8 _), List.drop_left' (length_leBytes 8 _), List.take_left' (length_leBytes 4 _),
    ofNat_leNat_leBytes w rfl, ofNat_leNat_leBytes l rfl] at hd

/-! ## The target list (R58) -/

/-- The bytes of a target list, none for an instruction without one. -/
def listBytes (ts : List Word) : List Byte :=
  if ts.isEmpty then [] else leBytes 4 (ts.length * 2 ^ 16) ++ ts.flatMap fun t => leBytes 4 t.toNat

theorem decodeList_listBytes {ts : List Word} (h : targetsOk ts = true) (rest : List Byte) :
    decodeList (listBytes ts ++ rest) = .ok ts := by
  simp only [targetsOk, Bool.and_eq_true, Bool.not_eq_true', decide_eq_true_eq] at h
  obtain ⟨⟨hne, hlen⟩, -⟩ := h
  have hpos : 0 < ts.length := List.length_pos_iff.mpr (by simpa using hne)
  have hh : leNat (leBytes 4 (ts.length * 2 ^ 16)) = ts.length * 2 ^ 16 := by
    rw [leNat_leBytes]
    omega
  have hn : ts.length * 2 ^ 16 / 2 ^ 16 = ts.length := by omega
  have hok : ¬(ts.length * 2 ^ 16 % 2 ^ 16 ≠ 0 ∨ ts.length = 0 ∨ ts.length > 1024) := by omega
  rw [listBytes, hne, if_neg Bool.false_ne_true, List.append_assoc, decodeList, if_neg (by simp),
    List.take_left' (length_leBytes 4 _), List.drop_left' (length_leBytes 4 _)]
  simp only [hh, hn, hok, listWords_flatMap, if_false]

/-- Only BRX and CALLX, of OP 0x141 and 0x143, have a target list. -/
theorem list_of_i64 (i : Instr) : (i.i64.all fun p => p.1 == 0x141 || (p.1 == 0x143 || p.2.2.isEmpty)) = true := by
  cases i <;> rfl

/-! ## Decoding what is encoded -/

theorem wellFormed_targets {i : Instr} {x : Body} {ts : List Word} (hi : i = .brx x ts ∨ i = .callx x ts)
    (h : i.wellFormed = true) : targetsOk ts = true := by
  obtain rfl | rfl := hi <;> (simp only [Instr.wellFormed, Instr.encLegal, Bool.and_eq_true] at h; exact h.1.2)

theorem decodeWide_joinBody {i : Instr} {op : Nat} {x : Body} {ts : List Word} (h : i.i64 = some (op, x, ts))
    (hw : i.wellFormed = true) (rest : List Byte) : decodeWide (joinBody op x) x.lit (listBytes ts ++ rest) = .ok i := by
  obtain ⟨-, -, hop, hof⟩ := (Laws.Row.statement i).2.2 op x ts h
  have hop' : ((joinBody op x).extractLsb' 2 9).toNat = op := by rw [op_joinBody, BitVec.toNat_ofNat, Nat.mod_eq_of_lt hop]
  specialize hof hw
  unfold decodeWide
  simp only [hop', splitBody_joinBody]
  have hlist := list_of_i64 i
  simp only [h, Option.all_some, Bool.or_eq_true, beq_iff_eq, List.isEmpty_iff] at hlist
  obtain rfl | rfl | rfl := hlist
  · obtain rfl : Instr.brx x ts = i := by injection hof
    rw [show ofOp 0x141 x [] = some (.brx x []) from rfl]
    simp only [decodeList_listBytes (wellFormed_targets (.inl rfl) hw), settle_of_wellFormed hw]
  · obtain rfl : Instr.callx x ts = i := by injection hof
    rw [show ofOp 0x143 x [] = some (.callx x []) from rfl]
    simp only [decodeList_listBytes (wellFormed_targets (.inr rfl) hw), settle_of_wellFormed hw]
  · rw [hof]
    have htargets : ∀ y us, ¬(i = .brx y us ∨ i = .callx y us) := by
      intro y us hi
      have hl := wellFormed_targets hi hw
      obtain rfl | rfl := hi <;> (cases h; cases hl)
    split
    case h_1 => contradiction
    case h_2 y us heq => exact absurd (.inl (Option.some.inj heq)) (htargets y us)
    case h_3 y us heq => exact absurd (.inr (Option.some.inj heq)) (htargets y us)
    case h_4 heq => rw [← Option.some.inj heq, settle_of_wellFormed hw]

/-- A C16 word in force is not the parcel 0x0000. -/
theorem joinC16_ne_zero {i : Instr} {op : Nat} {x : C16} (h : i.c16 = some (op, x)) (hw : i.wellFormed = true) :
    joinC16 op x ≠ 0#16 := by
  intro h0
  obtain ⟨hx, hop, -⟩ := split_joinC16 op x
  obtain ⟨-, -, hlt, hof⟩ := (Laws.Row.statement i).1 op x h
  rw [h0] at hx hop
  have hop0 : op = 0 := by
    have := congrArg BitVec.toNat hop
    simp at this
    omega
  subst hop0 hx
  cases hof
  cases hw

/-- Settles O2: the length code chooses the width, the width's table gives the row back, and the row settles. -/
theorem decodeUndoesEncode : Obligations.DecodeUndoesEncode := by
  unfold Obligations.DecodeUndoesEncode
  intro i rest hi hw
  obtain ⟨h16, h32, -⟩ := Laws.Row.statement i
  have hsettle := settle_of_wellFormed hw
  unfold encode
  split
  case h_1 op x hc =>
    obtain ⟨-, -, hop, hof⟩ := h16 op x hc
    obtain ⟨hx, hcode, hlen⟩ := split_joinC16 op x
    rw [decode_leBytes_16 (joinC16_ne_zero hc hw) hlen, decodeC16, hx, hcode, BitVec.toNat_ofNat, Nat.mod_eq_of_lt hop, hof]
    exact hsettle
  case h_2 op x hc _ =>
    obtain ⟨-, -, hop, hof⟩ := h32 op x hc
    obtain ⟨hx, hcode, hlen⟩ := split_joinI32 op x
    rw [decode_leBytes_32 hlen, decodeI32, hx, hcode, BitVec.toNat_ofNat, Nat.mod_eq_of_lt hop, hof]
    exact hsettle
  case h_3 op x ts hc _ _ =>
    have hwide := decodeWide_joinBody hc hw rest
    have hlen := code_joinBody op x
    cases hl : x.lit with
    | none =>
      rw [hl] at hwide hlen
      exact (decode_leBytes_64 hlen _).trans hwide
    | some l =>
      rw [hl] at hwide hlen
      exact (decode_leBytes_96 l hlen _).trans hwide
  case h_4 n16 n32 n64 =>
    have e16 : i.c16 = none := Option.eq_none_iff_forall_ne_some.mpr fun p hp => n16 p.1 p.2 hp
    have e32 : i.i32 = none := Option.eq_none_iff_forall_ne_some.mpr fun p hp => n32 p.1 p.2 hp
    have e64 : i.i64 = none := Option.eq_none_iff_forall_ne_some.mpr fun p hp => n64 p.1 p.2.1 p.2.2 hp
    rw [isInstruction_eq_not_isEvent, isEvent, e16, e32, e64] at hi
    cases hi

/-! ## What the decoder answers -/

theorem isInstruction_of_ofOp4 {op : Nat} {x : C16} {i : Instr} (h : ofOp4 op x = some i) : i.isInstruction = true := by
  unfold ofOp4 at h
  split at h <;> cases h <;> rfl

theorem isInstruction_of_ofOp6 {op : Nat} {x : I32} {i : Instr} (h : ofOp6 op x = some i) : i.isInstruction = true := by
  unfold ofOp6 at h
  split at h <;> cases h <;> rfl

theorem isInstruction_of_ofOp {op : Nat} {x : Body} {ts : List Word} {i : Instr} (h : ofOp op x ts = some i) :
    i.isInstruction = true := by
  revert h
  fun_cases ofOp op x ts
  all_goals
    intro h
    cases h
    repeat' split
    all_goals rfl

theorem decodeC16_ok {w : BitVec 16} {i : Instr} (h : decodeC16 w = .ok i) : i.isInstruction = true ∧ i.wellFormed = true := by
  unfold decodeC16 at h
  split at h
  · cases h
  · rename_i j hj
    obtain ⟨rfl, hw⟩ := eq_and_wellFormed_of_settle h
    exact ⟨isInstruction_of_ofOp4 hj, hw⟩

theorem decodeI32_ok {w : BitVec 32} {i : Instr} (h : decodeI32 w = .ok i) : i.isInstruction = true ∧ i.wellFormed = true := by
  unfold decodeI32 at h
  split at h
  · cases h
  · rename_i j hj
    obtain ⟨rfl, hw⟩ := eq_and_wellFormed_of_settle h
    exact ⟨isInstruction_of_ofOp6 hj, hw⟩

theorem decodeWide_ok {w : BitVec 64} {lit : Option Word} {rest : List Byte} {i : Instr} (h : decodeWide w lit rest = .ok i) :
    i.isInstruction = true ∧ i.wellFormed = true := by
  unfold decodeWide at h
  dsimp only at h
  split at h
  case h_1 => cases h
  case h_2 =>
    split at h
    · cases h
    · obtain ⟨rfl, hw⟩ := eq_and_wellFormed_of_settle h
      exact ⟨rfl, hw⟩
  case h_3 =>
    split at h
    · cases h
    · obtain ⟨rfl, hw⟩ := eq_and_wellFormed_of_settle h
      exact ⟨rfl, hw⟩
  case h_4 j _ _ hj =>
    obtain ⟨rfl, hw⟩ := eq_and_wellFormed_of_settle h
    exact ⟨isInstruction_of_ofOp hj, hw⟩

/-- Settles O3: whatever the width, an answer is a row of its table that has settled. -/
theorem decodedIsWellFormed : Obligations.DecodedIsWellFormed := by
  unfold Obligations.DecodedIsWellFormed
  refine ⟨fun bs i h => ?_, fun rest => rfl⟩
  unfold decode at h
  split at h
  case h_2 => cases h
  case h_1 b0 b1 r =>
    simp only at h
    split_ifs at h
    · exact decodeC16_ok h
    · exact decodeI32_ok h
    · exact decodeWide_ok h
    · exact decodeWide_ok h

/-- Settles O1: the kernel decodes the four words. -/
theorem workedWordsDecode : Obligations.WorkedWordsDecode := by
  unfold Obligations.WorkedWordsDecode
  decide +kernel

end Sys2Proof

/-! # The issue: every instruction, its checks and its guard (R65, R67, R70) -/

namespace Sys2Proof.Machine

/-- What a step answers is the issue of an instruction's I64 form, with the instruction's own length and bytes. -/
def IsIssue (i : Instr) (s : State) (o : Out) : Prop :=
  ∃ eff, o = issue i.core i.span (frameWords (encode i)) s eff

theorem isIssue_run {i : Instr} {s : State} {eff : Issue → State → Eff} (h : i.core = i) : IsIssue i s (run i s eff) :=
  ⟨eff, by rw [h]; rfl⟩

theorem isIssue_run16 {i : Instr} {op : Nat} {x : C16} {s : State} {eff : Issue → State → Eff} (h : i.c16 = some (op, x))
    (hs : i.span = 2) :
    IsIssue i s (run16 op x i.core s eff) :=
  ⟨eff, by rw [run16, hs, encode, h]⟩

theorem isIssue_run32 {i : Instr} {op : Nat} {x : I32} {s : State} {eff : Issue → State → Eff} (h16 : i.c16 = none)
   (h : i.i32 = some (op, x)) (hs : i.span = 4) :
    IsIssue i s (run32 op x i.core s eff) :=
  ⟨eff, by rw [run32, hs, encode, h16, h]⟩

theorem isIssue_of_c16 {i : Instr} {p : Nat × C16} (h : i.c16 = some p) (s : State) : IsIssue i s (exec i s) := by
  cases i <;> cases h <;> dsimp only [exec] <;> exact isIssue_run16 rfl rfl

theorem isIssue_of_i32 {i : Instr} {p : Nat × I32} (h : i.i32 = some p) (s : State) : IsIssue i s (exec i s) := by
  cases i <;> cases h <;> dsimp only [exec] <;> exact isIssue_run32 rfl rfl rfl

theorem isIssue_of_i64 {i : Instr} {p : Nat × Body × List Word} (h : i.i64 = some p) (s : State) : IsIssue i s (exec i s) := by
  cases i <;> cases h <;> dsimp only [exec] <;> exact isIssue_run rfl

/-- Every instruction's execution is an issue. -/
theorem isIssue_of_isInstruction {i : Instr} (h : i.isInstruction = true) (s : State) : IsIssue i s (exec i s) := by
  rw [isInstruction_eq_not_isEvent] at h
  cases h16 : i.c16 with
  | some p => exact isIssue_of_c16 h16 s
  | none =>
    cases h32 : i.i32 with
    | some p => exact isIssue_of_i32 h32 s
    | none =>
      cases h64 : i.i64 with
      | some p => exact isIssue_of_i64 h64 s
      | none => simp [isEvent, h16, h32, h64] at h

section
variable {i : Instr} {s : State} {c : Issue}

theorem exec_off (hi : i.isInstruction = true) (h : s.issuer i.core i.span = some c) (hp : s.precheck c = none) (hc : c.con = 0#32) :
    Does i s c { s := s } := by
  obtain ⟨eff, he⟩ := isIssue_of_isInstruction hi s
  exact he.trans (issue_off h hp hc)

theorem exec_checked {t : Trap} (hi : i.isInstruction = true) (h : s.issuer i.core i.span = some c) (hp : s.precheck c = some t) :
    Traps i s c t 0#5 := by
  obtain ⟨eff, he⟩ := isIssue_of_isInstruction hi s
  exact he.trans (issue_checked h hp)

end

/-! ## The guard (R65, R67) -/

/-- With no write of variable latency pending, a predicate reads as it stands. -/
theorem earlyK_eq_kread {x : Wave} {k : Nat} (n : Nat) (h : ∀ p ∈ x.pend, .k k ∈ p.dst → p.work.variable = false) :
    x.earlyK n k = x.kread k := by
  have hnone : (if k = 0 then none else x.pend.reverse.find? fun p => p.dst.contains (.k k) && p.work.variable) = none := by
    split
    · rfl
    · simpa using h
  rw [Wave.earlyK, hnone]

/-- A bit that is known for a lane of a predicate stands among the results. -/
theorem mem_of_findK {ws : List RegWrite} {k l : Nat} {b : Bool} (h : RegWrite.findK ws k l = some b) : .k k l b ∈ ws := by
  obtain ⟨q, hq, hb⟩ := List.exists_of_findSome?_eq_some h
  split at hb
  · split at hb
    next heq =>
      obtain ⟨rfl, rfl⟩ := heq
      cases hb
      exact hq
    next => cases hb
  · cases hb

theorem earlyK_old_or_known (x : Wave) (n k : Nat) {l : Nat} (hl : l < 32) :
    (x.earlyK n k).getLsbD l = (x.kread k).getLsbD l
      ∨ ∃ p ∈ x.pend, ∃ b, .k k l b ∈ p.work.known ∧ (x.earlyK n k).getLsbD l = b := by
  unfold Wave.earlyK
  split
  next => exact .inl rfl
  next p hp =>
    have hmem : p ∈ x.pend := by
      split at hp
      · cases hp
      · exact List.mem_reverse.mp (List.mem_of_find?_eq_some hp)
    rw [getLsbD_maskOf _ hl]
    dsimp only
    split
    next => exact .inl rfl
    next =>
      cases hk : RegWrite.findK p.work.known k l with
      | none => exact .inl rfl
      | some b => exact .inr ⟨p, hmem, b, mem_of_findK hk, rfl⟩

/-- Settles O9: the guard's bits, and the issue of an instruction whose guard is false in every lane. -/
theorem guardedOff : Obligations.GuardedOff := by
  unfold Obligations.GuardedOff
  refine ⟨fun x n b act l hl hpend => ?_, fun x n b act hk hn => ?_, fun x n k l hl => earlyK_old_or_known x n k hl,
    fun b g k n => rfl, fun i s c hi h hp hc => exec_off hi h hp hc⟩
  · rw [Wave.guarded, earlyK_eq_kread n hpend]
    cases b.gn <;> simp [hl]
  · simp [Wave.guarded, hk, hn, Wave.earlyK, Wave.kread]

end Sys2Proof.Machine

/-! # The step: what a ready wave issues (R60, R70, R83, R84) -/

namespace Sys2Proof.Machine

/-! ## From the ready wave to its candidate -/

section
variable {s : State} {w pc : Nat} {x : Wave} {bs : List Byte}

/-- With nothing on the agenda, due or overdue, a step is the issue of the ready wave. -/
theorem step_eq_issueFrom (ha : s.agenda = []) (hd : s.due = none) (ho : s.overdue = none)
    (hr : (s.readyWave fun v => s.asksQuota v && s.poolBusy) = some w) : step s = s.issueFrom w := by
  simp only [step, State.advance, ha, hd, ho, hr]

/-- The candidate of a wave that fetches it, away from every breakpoint. -/
theorem cand_of_fetch (hx : x.replay = none) (hpc : x.issuePc = some pc) (hb : s.breakAt w x pc = none)
    (hf : s.fetch w x pc = .ok bs) : s.cand w x = .code bs (decode bs) := by
  simp [State.cand, hx, hpc, hb, hf]

theorem issueFrom_of_decodes {i : Instr} (hw : s.wave w = some x) (hc : s.cand w x = .code bs (.ok i)) :
    s.issueFrom w = exec i { s with cur := w } := by
  simp only [State.issueFrom, hw, hc]

theorem issueFrom_of_fails {e : DecodeError} (hw : s.wave w = some x) (hx : x.replay = none) (hpc : x.issuePc = some pc)
    (hc : s.cand w x = .code bs (.error e)) : s.issueFrom w = .next (s.decodeTrap w x pc (x.activeAt pc) bs e) := by
  simp only [State.issueFrom, hw, hc, hx, hpc, Option.getD_some]

end

/-- A trap of a wave with no pending check and no debug stop to take: the wave stops with the trap's frame. -/
theorem takeTrap_eq_stop {s : State} {c : Issue} (hhit : c.x.hit = none) (hchk : (c.x.pend.all fun p => !p.work.isCheck) = true)
    (bs : List Byte) (t : Trap) (fl : Cond) :
    s.takeTrap c bs t fl =
      (s.putWave c.w ((c.x.orFlags fl).stopWith
        (mkFrame s c.w (c.x.orFlags fl) t c.con c.pc bs (c.x.stepping || t.dbg) c.replay false none 0))).rowIssued c.w := by
  have hnone : (c.x.pend.find? fun p => p.work.isCheck) = none := by simpa using hchk
  simp only [State.takeTrap, hnone, hhit]
  rfl

/-- Settles O10: a check is the first thing an issue does; bytes that do not decode take their trap at once. -/
theorem failedCheckTraps : Obligations.FailedCheckTraps := by
  unfold Obligations.FailedCheckTraps
  refine ⟨fun i s c t hi h hp => exec_checked hi h hp, ?_⟩
  intro s w pc x bs e ha hd ho hr hw hx hpc hb hf he hhit hchk
  have hcand := cand_of_fetch (w := w) hx hpc hb hf
  rw [he] at hcand
  rw [step_eq_issueFrom ha hd ho hr, issueFrom_of_fails hw hx hpc hcand, State.decodeTrap, takeTrap_eq_stop hhit hchk]
  exact ⟨_, _, rfl, mget_mput_same .., rfl, rfl, rfl, _, rfl, rfl, rfl, rfl⟩

/-! ## The cyclic choice of a row (R83) -/

/-- The first entry with the smallest measure, after a best one so far. -/
def firstLeast (f : Nat → Nat) (best : Option Nat) (l : List (Nat × Wave)) : Option Nat :=
  l.foldl (fun best p => match best with | none => some p.1 | some b => if f p.1 < f b then some p.1 else some b) best

theorem readyIn_eq_firstLeast (s : State) (row : Nat) :
    s.readyIn row = firstLeast s.turnOf none (s.waves.filter fun p => p.1 / 16 == row && s.ready p.1 p.2) := rfl

/-- After a best one so far there is a least one: that one or an entry, and no entry is less. -/
theorem firstLeast_some (f : Nat → Nat) (b : Nat) (l : List (Nat × Wave)) :
    ∃ w, firstLeast f (some b) l = some w ∧ (w = b ∨ ∃ p ∈ l, p.1 = w) ∧ f w ≤ f b ∧ ∀ p ∈ l, f w ≤ f p.1 := by
  induction l generalizing b with
  | nil => exact ⟨b, rfl, .inl rfl, Nat.le_refl _, by simp⟩
  | cons p l ih =>
    by_cases hp : f p.1 < f b
    · obtain ⟨w, hw, hmem, hle, hall⟩ := ih p.1
      refine ⟨w, ?_, .inr ?_, by omega, List.forall_mem_cons.mpr ⟨hle, hall⟩⟩
      · simpa [firstLeast, hp] using hw
      · rcases hmem with rfl | ⟨q, hq, rfl⟩
        · exact ⟨p, by simp, rfl⟩
        · exact ⟨q, by simp [hq], rfl⟩
    · obtain ⟨w, hw, hmem, hle, hall⟩ := ih b
      refine ⟨w, ?_, hmem.imp_right ?_, hle, List.forall_mem_cons.mpr ⟨by omega, hall⟩⟩
      · simpa [firstLeast, hp] using hw
      · rintro ⟨q, hq, rfl⟩
        exact ⟨q, by simp [hq], rfl⟩

theorem firstLeast_cons (f : Nat → Nat) (p : Nat × Wave) (l : List (Nat × Wave)) :
    firstLeast f none (p :: l) = firstLeast f (some p.1) l := rfl

/-- The wave a row issues from is one of its ready waves, and none of them comes before it. -/
theorem readyIn_spec {s : State} {row w : Nat} (h : s.readyIn row = some w) :
    (∃ x, (w, x) ∈ s.waves ∧ w / 16 = row ∧ s.ready w x = true)
      ∧ ∀ v y, (v, y) ∈ s.waves → v / 16 = row → s.ready v y = true → s.turnOf w ≤ s.turnOf v := by
  rw [readyIn_eq_firstLeast] at h
  cases hl : s.waves.filter fun p => p.1 / 16 == row && s.ready p.1 p.2 with
  | nil =>
    rw [hl] at h
    cases h
  | cons p l =>
    rw [hl, firstLeast_cons] at h
    obtain ⟨w', hw, hmem, hle, hall⟩ := firstLeast_some s.turnOf p.1 l
    obtain rfl : w' = w := Option.some.inj (hw.symm.trans h)
    have hin : ∀ q ∈ p :: l, q ∈ s.waves ∧ q.1 / 16 = row ∧ s.ready q.1 q.2 = true := by
      intro q hq
      rw [← hl, List.mem_filter, Bool.and_eq_true, beq_iff_eq] at hq
      exact hq
    constructor
    · have hq : ∃ q ∈ p :: l, q.1 = w' := by
        rcases hmem with rfl | ⟨q, hq, rfl⟩
        · exact ⟨p, by simp, rfl⟩
        · exact ⟨q, by simp [hq], rfl⟩
      obtain ⟨q, hq, rfl⟩ := hq
      obtain ⟨hmem, hrow, hready⟩ := hin q hq
      exact ⟨q.2, hmem, hrow, hready⟩
    · intro v y hv hrow hready
      have hvl : (v, y) ∈ p :: l := hl ▸ List.mem_filter.mpr ⟨hv, by simp [hrow, hready]⟩
      rcases List.mem_cons.mp hvl with rfl | hvl
      · exact hle
      · exact hall _ hvl

theorem readyIn_ne_none {s : State} {v : Nat} {y : Wave} (hv : (v, y) ∈ s.waves) (hr : s.ready v y = true) :
    s.readyIn (v / 16) ≠ none := by
  have hmem : (v, y) ∈ s.waves.filter fun p => p.1 / 16 == v / 16 && s.ready p.1 p.2 := List.mem_filter.mpr ⟨hv, by simp [hr]⟩
  rw [readyIn_eq_firstLeast]
  cases hl : s.waves.filter fun p => p.1 / 16 == v / 16 && s.ready p.1 p.2 with
  | nil => simp [hl] at hmem
  | cons p l =>
    obtain ⟨w, hw, -⟩ := firstLeast_some s.turnOf p.1 l
    rw [firstLeast_cons, hw]
    exact Option.some_ne_none w

/-- The wave that issues next is that of a row that has not issued, and is not held back. -/
theorem readyWave_spec {s : State} {held : Nat → Bool} {w : Nat} (h : s.readyWave held = some w) :
    held w = false ∧ w / 16 ∉ s.co.issued ∧ s.readyIn (w / 16) = some w := by
  obtain ⟨row, -, hrow⟩ := List.exists_of_findSome?_eq_some h
  split at hrow
  · cases hrow
  · rename_i hissued
    obtain ⟨hin, hheld⟩ := Option.filter_eq_some_iff.mp hrow
    obtain ⟨⟨x, -, rfl, -⟩, -⟩ := readyIn_spec hin
    exact ⟨by simpa using hheld, by simpa using hissued, hin⟩

theorem mem_ladd_self (l : List Nat) (k : Nat) : k ∈ ladd l k := by
  induction l with
  | nil => simp [ladd]
  | cons j l ih =>
    unfold ladd
    split
    · simp
    · split
      · simp_all
      · simp [ih]

/-- Settles O4. -/
theorem stepRunsDecoded : Obligations.StepRunsDecoded := by
  unfold Obligations.StepRunsDecoded
  refine ⟨?_, ?_, fun s held w h => readyWave_spec h, ?_, fun s v y hv hr => readyIn_ne_none hv hr, ?_⟩
  · intro s w pc x bs i ha hd ho hr hw hx hpc hb hf he
    have hcand := cand_of_fetch (w := w) hx hpc hb hf
    rw [he] at hcand
    rw [step_eq_issueFrom ha hd ho hr, issueFrom_of_decodes hw hcand]
  · intro s i rest ha hi
    simp [step, State.advance, ha, State.input, hi]
  · intro s row w h
    obtain ⟨⟨x, hmem, rfl, hready⟩, hall⟩ := readyIn_spec h
    refine ⟨⟨x, hmem, rfl, hready⟩, fun v y hv hrow hvr => ?_⟩
    simpa [State.turnOf, hrow] using hall v y hv hrow hvr
  · intro s c bs f
    exact ⟨mget_mput_same .., mem_ladd_self ..⟩

end Sys2Proof.Machine

/-! # A placed word: what the next step fetches and issues (R47, R60, R83) -/

namespace Sys2Proof.Machine

/-! ## Bytes laid out -/

theorem getElem?_leBytes (n x i : Nat) : (leBytes n x)[i]? = if i < n then some (BitVec.ofNat 8 (x / 256 ^ i)) else none := by
  induction n generalizing x i with
  | zero => simp [leBytes]
  | succ n ih =>
    cases i with
    | zero => simp [leBytes]
    | succ i => simp [leBytes, ih, Nat.pow_succ, Nat.div_div_eq_div_mul, Nat.mul_comm]

theorem take_leBytes {n k : Nat} (h : n ≤ k) (x : Nat) : (leBytes k x).take n = leBytes n x := by
  apply List.ext_getElem?
  intro i
  simp only [List.getElem?_take, getElem?_leBytes]
  grind

/-- A list laid out by position, read at a position. -/
theorem mget_zipIdx {α : Type} (l : List α) (k i : Nat) :
    mget ((l.zipIdx k).map fun p => (p.2, p.1)) (k + i) = l[i]? := by
  induction l generalizing k i with
  | nil => rfl
  | cons a l ih =>
    cases i with
    | zero => simp [mget]
    | succ i =>
      have h := ih (k + 1) i
      simp only [List.zipIdx_cons, List.map_cons, mget]
      rw [if_neg (by omega), show k + (i + 1) = k + 1 + i by omega, h, List.getElem?_cons_succ]

/-- Code held as the bytes of a number runs as those bytes. -/
theorem codeRun_eq_leBytes {held : Nat → Option Byte} (n va x : Nat)
    (h : ∀ i, i < n → held ((va + i) % 2 ^ 64) = some (BitVec.ofNat 8 (x / 256 ^ i))) : codeRun held n va = leBytes n x := by
  induction n generalizing va x with
  | zero => rfl
  | succ n ih =>
    have h0 : held (va % 2 ^ 64) = some (BitVec.ofNat 8 x) := by simpa using h 0 (by omega)
    have hrun : codeRun held n (va + 1) = leBytes n (x / 256) := by
      refine ih (va + 1) (x / 256) fun i hi => ?_
      have hs := h (i + 1) (by omega)
      rw [show va + (i + 1) = va + 1 + i by omega] at hs
      rw [hs, Nat.pow_succ, Nat.mul_comm, Nat.div_div_eq_div_mul]
    simp only [codeRun, h0, hrun, leBytes]

/-! ## The bytes an instruction asks for -/

theorem fetchLen_leBytes {n x : Nat} (h2 : 2 ≤ n) (hl : ownsList (x % 65536) = false) :
    fetchLen (leBytes n x) = parcelsLen (x % 65536) := by
  have hp : leNat ((leBytes n x).take 2) = x % 65536 := by rw [take_leBytes h2]; exact leNat_leBytes 2 x
  simp [fetchLen, hp, hl, Nat.not_lt.mpr h2]

theorem parcelsLen_bounds (p : Nat) : 2 ≤ parcelsLen p ∧ parcelsLen p ≤ 12 := by
  unfold parcelsLen
  split <;> decide

/-- An instruction without a target list is fetched as its parcels. -/
theorem fetchTry_eq_parcels {held : Nat → Option Byte} {pc x : Nat} (hrun : ∀ n, n ≤ 12 → codeRun held n pc = leBytes n x)
    (hl : ownsList (x % 65536) = false) : fetchTry held pc 4 [] = .ok (leBytes (parcelsLen (x % 65536)) x) := by
  obtain ⟨hlo, hhi⟩ := parcelsLen_bounds (x % 65536)
  have hfull := fetchLen_leBytes (n := parcelsLen (x % 65536)) hlo hl
  have hfirst : fetchTry held pc 4 [] = fetchTry held pc 3 (leBytes 2 x) := by
    simp [fetchTry, fetchLen, hrun 2 (by omega)]
  rw [hfirst, fetchTry, fetchLen_leBytes (Nat.le_refl 2) hl]
  simp only [length_leBytes]
  split
  next h => rw [show parcelsLen (x % 65536) = 2 by omega]
  next h =>
    rw [hrun _ hhi, length_leBytes, if_neg (Nat.lt_irrefl _), fetchTry, hfull]
    simp

/-! ## Decoding a table word -/

/-- The OP of a word whose row, if any, has no target list. -/
def PlainOp (w : BitVec 64) : Prop := (w.extractLsb' 2 9).toNat ≠ 0x141 ∧ (w.extractLsb' 2 9).toNat ≠ 0x143

theorem decodeList_of_length_le {bs : List Byte} (h : bs.length ≤ 4) (ts : List Word) : decodeList bs ≠ .ok ts := by
  unfold decodeList
  intro hd
  dsimp only at hd
  split at hd
  next => cases hd
  next =>
    split at hd
    next => cases hd
    next hn =>
      obtain ⟨n, hn⟩ : ∃ n, leNat (bs.take 4) / 2 ^ 16 = n + 1 := Nat.exists_eq_succ_of_ne_zero (by omega)
      rw [hn, List.drop_of_length_le h] at hd
      cases hd

/-- What decodes before up to four bytes owns no target list, so it decodes alone. -/
theorem decodeWide_alone {w : BitVec 64} {lit : Option Word} {rest : List Byte} {i : Instr} (h4 : rest.length ≤ 4)
    (h : decodeWide w lit rest = .ok i) : PlainOp w ∧ decodeWide w lit [] = .ok i := by
  unfold decodeWide at h ⊢
  dsimp only at h ⊢
  split at h
  case h_1 => cases h
  case h_2 =>
    split at h
    next => cases h
    next ts hts => exact absurd hts (decodeList_of_length_le h4 ts)
  case h_3 =>
    split at h
    next => cases h
    next ts hts => exact absurd hts (decodeList_of_length_le h4 ts)
  case h_4 j hbrx hcallx hj =>
    refine ⟨⟨fun hop => ?_, fun hop => ?_⟩, ?_⟩
    · rw [hop] at hj
      exact hbrx _ _ (Option.some.inj hj).symm
    · rw [hop] at hj
      exact hcallx _ _ (Option.some.inj hj).symm
    · exact h

theorem op_eq_of_parcel (x : Nat) :
    ((BitVec.ofNat 64 (leNat (leBytes 8 x))).extractLsb' 2 9).toNat = x % 65536 / 4 % 512 := by
  rw [leNat_leBytes, BitVec.extractLsb'_toNat, BitVec.toNat_ofNat, Nat.shiftRight_eq_div_pow]
  omega

theorem ownsList_eq_false_of_plain {x : Nat} (h : PlainOp (BitVec.ofNat 64 (leNat (leBytes 8 x)))) : ownsList (x % 65536) = false := by
  obtain ⟨h1, h2⟩ := h
  rw [op_eq_of_parcel] at h1 h2
  simp [ownsList, h1, h2]

/-- What decodes within 12 bytes owns no target list, and decodes from its parcels alone. -/
theorem decode_parcels {x : Nat} {i : Instr} (h : decode (leBytes 12 x) = .ok i) :
    ownsList (x % 65536) = false ∧ decode (leBytes (parcelsLen (x % 65536)) x) = .ok i := by
  have hp : leNat [BitVec.ofNat 8 x, BitVec.ofNat 8 (x / 256)] = x % 65536 := leNat_leBytes 2 x
  have hcode : x % 65536 % 4 = 0 ∨ x % 65536 % 4 = 1 ∨ x % 65536 % 4 = 2 ∨ x % 65536 % 4 = 3 := by omega
  rcases hcode with hc | hc | hc | hc
  · have h0 : x % 65536 ≠ 0 := by
      intro h0
      simp [decode, leBytes, hp, h0] at h
    have hd : ∀ n, decode (leBytes (n + 2) x) = decodeC16 (BitVec.ofNat 16 (leNat [BitVec.ofNat 8 x, BitVec.ofNat 8 (x / 256)])) :=
      fun n => decode_short (by rwa [hp]) (by rwa [hp])
    rw [hd] at h
    exact ⟨by simp [ownsList, hc], by rw [parcelsLen, hc]; exact (hd 0).trans h⟩
  · have hd : ∀ n, decode (leBytes (n + 4) x) = decodeI32 (BitVec.ofNat 32 (leNat ((leBytes (n + 4) x).take 4))) :=
      fun n => decode_medium (by rwa [hp]) (by simp)
    simp only [take_leBytes (Nat.le_add_left ..)] at hd
    rw [hd 8] at h
    exact ⟨by simp [ownsList, hc], by rw [parcelsLen, hc]; exact (hd 0).trans h⟩
  · have hd : ∀ n, decode (leBytes (n + 8) x) =
        decodeWide (BitVec.ofNat 64 (leNat ((leBytes (n + 8) x).take 8))) none ((leBytes (n + 8) x).drop 8) :=
      fun n => decode_wide (by rwa [hp]) (by simp)
    simp only [take_leBytes (Nat.le_add_left ..)] at hd
    rw [hd 4] at h
    obtain ⟨hop, halone⟩ := decodeWide_alone (by simp) h
    exact ⟨ownsList_eq_false_of_plain hop, by rw [parcelsLen, hc]; exact (hd 0).trans halone⟩
  · have hd : decode (leBytes 12 x) = decodeWide (BitVec.ofNat 64 (leNat ((leBytes 12 x).take 8)))
        (some (BitVec.ofNat 32 (leNat (((leBytes 12 x).drop 8).take 4)))) ((leBytes 12 x).drop 12) :=
      decode_extended (by rwa [hp]) (by simp)
    rw [take_leBytes (by omega)] at hd
    obtain ⟨hop, -⟩ := decodeWide_alone (by simp) (hd.symm.trans h)
    exact ⟨ownsList_eq_false_of_plain hop, by rw [parcelsLen, hc]; exact h⟩

/-! ## The placed wave -/

/-- The wave that a placed word is for. -/
def placedWave : Wave := startWave fetchBlock 0 0 0 (List.range 32)

section
variable (n w : Nat)

theorem codeRun_placed {k : Nat} (hk : k ≤ 12) :
    codeRun ((State.reset.withFetchWord n w).codeByte 0 0 0) k 0x1000 = leBytes k (w % 2 ^ n) := by
  refine codeRun_eq_leBytes k 0x1000 _ fun i hi => ?_
  have hva : (0x1000 + i) % 2 ^ 64 = 0x1000 + i := by omega
  have hline : (0x1000 + i) / 64 * 64 = 0x1000 := by omega
  have hoff : (0x1000 + i) % 64 = 0 + i := by omega
  rw [hva, State.codeByte, hline, hoff]
  refine (mget_zipIdx (leBytes 64 (w % 2 ^ n)) 0 i).trans ?_
  rw [getElem?_leBytes, if_pos (by omega)]

theorem fetch_placed {i : Instr} (h : decodeTableWord n w = some i) :
    ∃ bs, (State.reset.withFetchWord n w).fetch 0 placedWave 0x1000 = .ok bs ∧ decode bs = .ok i := by
  have hd : decode (leBytes 12 (w % 2 ^ n)) = .ok i := by
    unfold decodeTableWord at h
    split at h
    next j hj => rw [hj, Option.some.inj h]
    next => cases h
  obtain ⟨hlist, hparcels⟩ := decode_parcels hd
  exact ⟨_, fetchTry_eq_parcels (fun k hk => codeRun_placed n w hk) hlist, hparcels⟩

/-- Every slot of the placed wave is 0, and nothing is pending: it waits for nothing. -/
theorem instrReady_placed (i : Instr) : (State.reset.withFetchWord n w).instrReady 0 placedWave i = true := by
  have hwaits : ∀ m, placedWave.waits m = true := by decide
  have hroom : ∀ m, placedWave.slotRoom m = true := by decide
  have hquota : placedWave.quotaLets i = true := by
    unfold Wave.quotaLets
    split <;> rfl
  have hharness : (State.reset.withFetchWord n w).harnessLets 0 i = true := by
    rw [State.harnessLets, show (State.reset.withFetchWord n w).gridOfWave 0 = none from rfl]
    simp
  have hcheck : placedWave.checkLets i = true := rfl
  simp only [State.instrReady, hwaits, hroom, hcheck, hquota, hharness, Bool.and_self]

theorem readyWave_placed {bs : List Byte} {i : Instr} (hc : (State.reset.withFetchWord n w).cand 0 placedWave = .code bs (.ok i)) :
    ((State.reset.withFetchWord n w).readyWave fun v =>
      (State.reset.withFetchWord n w).asksQuota v && (State.reset.withFetchWord n w).poolBusy) = some 0 := by
  have hready : (State.reset.withFetchWord n w).ready 0 placedWave = true := by
    rw [State.ready, hc]
    exact instrReady_placed n w i.core
  have hpool : (State.reset.withFetchWord n w).poolBusy = false := rfl
  have hwaves : (State.reset.withFetchWord n w).waves = [(0, placedWave)] := rfl
  have hissued : (State.reset.withFetchWord n w).co.issued = [] := rfl
  have hrow : (State.reset.withFetchWord n w).readyIn 0 = some 0 := by
    rw [readyIn_eq_firstLeast, hwaves, List.filter_cons_of_pos (by simpa using hready)]
    rfl
  simp [State.readyWave, hpool, hwaves, hissued, ladd, hrow]

end

/-- Settles O52: the placed bytes are what the wave fetches, and the wave is ready. -/
theorem placedWordRuns : Obligations.PlacedWordRuns := by
  unfold Obligations.PlacedWordRuns
  intro nbits w i h
  obtain ⟨bs, hfetch, hdecode⟩ := fetch_placed nbits w h
  have hcand : (State.reset.withFetchWord nbits w).cand 0 placedWave = .code bs (.ok i) :=
    hdecode ▸ cand_of_fetch rfl rfl rfl hfetch
  exact ⟨rfl, rfl, (step_eq_issueFrom rfl rfl rfl (readyWave_placed nbits w hcand)).trans (issueFrom_of_decodes rfl hcand)⟩

end Sys2Proof.Machine

/-! # What an issue does to its wave (R60, R64, R86, R88, R89) -/

namespace Sys2Proof.Machine

/-! ## Lanes -/

@[simp] theorem length_mapLanes (x : Wave) (g : Nat → Lane → Lane) : (x.mapLanes g).lanes.length = x.lanes.length := by
  simp [Wave.mapLanes]

theorem lane_mapLanes {x : Wave} {l : Nat} (h : l < x.lanes.length) (g : Nat → Lane → Lane) :
    (x.mapLanes g).lane l = g l (x.lane l) := by
  simp [Wave.lane, Wave.mapLanes, List.getD_eq_getElem?_getD, h]

theorem mem_lanes_iff {x : Wave} {y : Lane} : y ∈ x.lanes ↔ ∃ m, m < x.lanes.length ∧ x.lane m = y := by
  rw [List.mem_iff_getElem]
  constructor
  · rintro ⟨m, hm, rfl⟩
    exact ⟨m, hm, by simp [Wave.lane, hm]⟩
  · rintro ⟨m, hm, rfl⟩
    exact ⟨m, hm, by simp [Wave.lane, hm]⟩

/-- R88: some lane is live, and every live one has an epoch of at least 1. -/
theorem epochsAhead_iff (x : Wave) : x.epochsAhead = true ↔
    (∃ m, m < x.lanes.length ∧ (x.lane m).st = .live)
      ∧ ∀ m, m < x.lanes.length → (x.lane m).st = .live → 1 ≤ (x.lane m).ep := by
  simp only [Wave.epochsAhead, Bool.and_eq_true, List.any_eq_true, List.all_eq_true, Bool.or_eq_true, mem_lanes_iff]
  refine and_congr ⟨?_, ?_⟩ ⟨?_, ?_⟩
  · rintro ⟨y, ⟨m, hm, rfl⟩, hy⟩
    exact ⟨m, hm, eq_of_beq hy⟩
  · rintro ⟨m, hm, hy⟩
    exact ⟨_, ⟨m, hm, rfl⟩, beq_iff_eq.mpr hy⟩
  · intro h m hm hlive
    simpa [hlive] using h _ ⟨m, hm, rfl⟩
  · rintro h y ⟨m, hm, rfl⟩
    by_cases hlive : (x.lane m).st = .live
    · exact .inr (decide_eq_true (h m hm hlive))
    · exact .inl (bne_iff_ne.mpr hlive)

/-- Epochs are ahead by the lanes' states and epochs alone. -/
theorem epochsAhead_mapLanes (x : Wave) {g : Nat → Lane → Lane} (hst : ∀ l y, (g l y).st = y.st) (hep : ∀ l y, (g l y).ep = y.ep) :
    (x.mapLanes g).epochsAhead = x.epochsAhead := by
  rw [Bool.eq_iff_iff, epochsAhead_iff, epochsAhead_iff, length_mapLanes]
  refine and_congr (exists_congr fun m => and_congr_right fun hm => ?_) (forall_congr' fun m => forall_congr' fun hm => ?_)
  · rw [lane_mapLanes hm, hst]
  · rw [lane_mapLanes hm, hst, hep]

/-! ## The issuing wave, stage by stage -/

/-- A lane's neglect after an issue (R89). -/
def neglectLane (act live : Word) (l : Nat) (y : Lane) : Lane :=
  if act.getLsbD l then { y with neglect := 0 }
  else if live.getLsbD l && y.st == .live then { y with neglect := min (y.neglect + 1) 1024 }
  else y

/-- Where a lane goes on after an issue (R86). -/
def Issue.moveLane (c : Issue) (f : Fx) (l : Nat) (y : Lane) : Lane :=
  if c.act.getLsbD l && y.st != .exited then { y with pc := BitVec.ofNat 64 ((f.jump l).getD (c.pc + c.span)) } else y

/-- A lane's epoch after a renormalisation (R88). -/
def ageLane (y : Lane) : Lane := if y.st == .exited then y else { y with ep := y.ep - 1 }

/-- The lanes of an issue, before its epochs: each neglect is counted, and the active ones go on unless they stay. -/
def Issue.moved (c : Issue) (f : Fx) (x : Wave) : Wave :=
  let x := x.mapLanes (neglectLane c.act c.x.liveMask)
  if f.stay || c.replay then x else x.mapLanes (c.moveLane f)

/-- The lanes of an issue. -/
def Issue.aged (c : Issue) (f : Fx) (x : Wave) : Wave :=
  if !(f.stay || f.skid) && (c.moved f x).epochsAhead then (c.moved f x).mapLanes fun _ => ageLane else c.moved f x

theorem moved_eq (c : Issue) (f : Fx) (x : Wave) : c.moved f x = { x with lanes := (c.moved f x).lanes } := by
  unfold Issue.moved
  split <;> rfl

theorem aged_eq (c : Issue) (f : Fx) (x : Wave) : c.aged f x = { x with lanes := (c.aged f x).lanes } := by
  unfold Issue.aged
  rw [moved_eq]
  split <;> rfl

theorem claim_eq (x : Wave) (slot : Nat) : x.claim slot = { x with d := (x.claim slot).d } := by
  unfold Wave.claim
  split <;> rfl

/-- A renormalisation that is due is that of the lanes. -/
theorem renormalise_due (b : Bool) (x : Wave) :
    (if b && x.epochsAhead then x.renormalise else x) = if b && x.epochsAhead then x.mapLanes fun _ => ageLane else x := by
  split
  next h =>
    rw [Wave.renormalise, if_pos (Bool.and_eq_true _ _ ▸ h).2]
    rfl
  next => rfl

/-- What an issue leaves pending of its wave, and from when on the wave may issue again (R60, R64, R260, R273, R274). -/
def Issue.queued (c : Issue) (s : State) (bs : List Byte) (f : Fx) (due : Bool) (x : Wave) : Wave :=
  let x : Wave := { x with pend := x.pend.map fun (p : Pend) => { p with work := p.work.countSkid } }
  let x := match c.pend s bs f with
    | some p => { x with pend := x.pend ++ [{ p with undo := p.late && due }] }
    | none => x
  { x with next := max x.next (s.clock + 1 + c.b.stall.toNat + f.extra), issues := x.issues + 1
           hit := x.hit.map fun (h : Hit) => if h.clock = s.clock then { h with issues := h.issues + 1 } else h
           skipBp := x.skipBp.filter fun a => a != c.pc, replay := none }

theorem queued_eq (c : Issue) (s : State) (bs : List Byte) (f : Fx) (due : Bool) (x : Wave) :
    c.queued s bs f due x =
      { x with
        pend := (c.queued s bs f due x).pend, next := max x.next (s.clock + 1 + c.b.stall.toNat + f.extra), issues := x.issues + 1
        hit := (c.queued s bs f due x).hit, skipBp := (c.queued s bs f due x).skipBp, replay := none } := by
  unfold Issue.queued
  split <;> rfl

/-- The wave after an issue: its lanes, then its slot claimed, then what is left pending. -/
theorem retire_wave {s : State} {c : Issue} {f : Fx} {x : Wave} (bs : List Byte) (hw : f.s.wave c.w = some x) :
    (s.retire c bs f).wave c.w =
      some (c.queued s bs f (!(f.stay || f.skid) && (c.moved f x).epochsAhead) ((c.aged f x).claim c.b.set.toNat)) := by
  refine (mget_mmod_same hw _).trans ?_
  rw [Issue.aged, ← renormalise_due]
  rfl

/-! ## Its lanes -/

@[simp] theorem neglectLane_st (act live : Word) (l : Nat) (y : Lane) : (neglectLane act live l y).st = y.st := by
  unfold neglectLane
  split_ifs <;> rfl

@[simp] theorem neglectLane_ep (act live : Word) (l : Nat) (y : Lane) : (neglectLane act live l y).ep = y.ep := by
  unfold neglectLane
  split_ifs <;> rfl

@[simp] theorem neglectLane_pc (act live : Word) (l : Nat) (y : Lane) : (neglectLane act live l y).pc = y.pc := by
  unfold neglectLane
  split_ifs <;> rfl

theorem neglectLane_of_active {act : Word} {l : Nat} (h : act.getLsbD l = true) (live : Word) (y : Lane) :
    (neglectLane act live l y).neglect = 0 := by
  rw [neglectLane, if_pos h]

@[simp] theorem ageLane_st (y : Lane) : (ageLane y).st = y.st := by
  unfold ageLane
  split <;> rfl

@[simp] theorem ageLane_pc (y : Lane) : (ageLane y).pc = y.pc := by
  unfold ageLane
  split <;> rfl

@[simp] theorem ageLane_neglect (y : Lane) : (ageLane y).neglect = y.neglect := by
  unfold ageLane
  split <;> rfl

theorem ageLane_ep (y : Lane) : (ageLane y).ep = if y.st ≠ .exited then y.ep - 1 else y.ep := by
  unfold ageLane
  cases y.st <;> rfl

section
variable (c : Issue) (f : Fx) (x : Wave)

theorem moveLane_pc (l : Nat) (y : Lane) : (c.moveLane f l y).pc =
    if c.act.getLsbD l ∧ y.st ≠ .exited then BitVec.ofNat 64 ((f.jump l).getD (c.pc + c.span)) else y.pc := by
  unfold Issue.moveLane
  cases c.act.getLsbD l <;> cases y.st <;> rfl

@[simp] theorem moveLane_st (l : Nat) (y : Lane) : (c.moveLane f l y).st = y.st := by
  unfold Issue.moveLane
  split_ifs <;> rfl

@[simp] theorem moveLane_ep (l : Nat) (y : Lane) : (c.moveLane f l y).ep = y.ep := by
  unfold Issue.moveLane
  split_ifs <;> rfl

@[simp] theorem moveLane_neglect (l : Nat) (y : Lane) : (c.moveLane f l y).neglect = y.neglect := by
  unfold Issue.moveLane
  split_ifs <;> rfl

@[simp] theorem length_moved : (c.moved f x).lanes.length = x.lanes.length := by
  unfold Issue.moved
  split <;> simp

@[simp] theorem epochsAhead_moved : (c.moved f x).epochsAhead = x.epochsAhead := by
  unfold Issue.moved
  split <;> simp [epochsAhead_mapLanes]

variable {f x} {l : Nat} (hl : l < x.lanes.length)
include hl

theorem lane_moved_of_stay (h : f.stay = true) : (c.moved f x).lane l = neglectLane c.act c.x.liveMask l (x.lane l) := by
  simp [Issue.moved, h, lane_mapLanes hl]

theorem lane_moved_of_go (h : f.stay = false) (hr : c.replay = false) :
    (c.moved f x).lane l = c.moveLane f l (neglectLane c.act c.x.liveMask l (x.lane l)) := by
  simp [Issue.moved, h, hr, lane_mapLanes, hl]

/-- The renormalisation takes one from the epoch of every lane that has not exited, and from nothing else (R88). -/
theorem lane_aged : (c.aged f x).lane l =
    if (f.stay = false ∧ f.skid = false) ∧ x.epochsAhead = true then ageLane ((c.moved f x).lane l) else (c.moved f x).lane l := by
  have hlm : l < (c.moved f x).lanes.length := by rwa [length_moved]
  rw [Issue.aged, epochsAhead_moved]
  cases f.stay <;> cases f.skid <;> cases x.epochsAhead <;> simp [lane_mapLanes hlm]

theorem lane_aged_st : ((c.aged f x).lane l).st = ((c.moved f x).lane l).st := by
  rw [lane_aged c hl]
  split <;> simp

theorem lane_aged_pc : ((c.aged f x).lane l).pc = ((c.moved f x).lane l).pc := by
  rw [lane_aged c hl]
  split <;> simp

theorem lane_aged_neglect : ((c.aged f x).lane l).neglect = ((c.moved f x).lane l).neglect := by
  rw [lane_aged c hl]
  split <;> simp

theorem lane_aged_ep_of_stay (h : f.stay = true) : ((c.aged f x).lane l).ep = ((c.moved f x).lane l).ep := by
  rw [lane_aged c hl, if_neg (by simp [h])]

theorem lane_aged_ep_of_go (h : f.stay = false) : ((c.aged f x).lane l).ep =
    if f.skid = false ∧ x.epochsAhead = true ∧ ((c.moved f x).lane l).st ≠ .exited then ((c.moved f x).lane l).ep - 1
    else ((c.moved f x).lane l).ep := by
  rw [lane_aged c hl]
  split
  next hd =>
    obtain ⟨⟨-, hskid⟩, hahead⟩ := hd
    simp [ageLane_ep, hskid, hahead]
  next hd => rw [if_neg (by tauto)]

end

/-- A claim adds one to its own slot (R64). -/
theorem claim_d (x : Wave) (slot i : Nat) :
    (x.claim slot).d.getD i 0 = if slot = i + 1 ∧ i < x.d.length then x.d.getD i 0 + 1 else x.d.getD i 0 := by
  unfold Wave.claim
  split
  next h => rw [if_neg (by omega)]
  next h =>
    obtain ⟨k, rfl⟩ := Nat.exists_eq_succ_of_ne_zero h
    simp only [List.getD_eq_getElem?_getD, List.getElem?_set, Nat.succ_sub_one, Nat.succ_eq_add_one, Nat.add_right_cancel_iff]
    split_ifs <;> simp_all

/-- The wave after an issue that leaves it as it was: its lanes, its slots, its next clock, and what stays. -/
theorem retire_wave_of_same {s : State} {c : Issue} {f : Fx} (bs : List Byte) (hw : s.wave c.w = some c.x) (hs : f.s = s) :
    ∃ y, (s.retire c bs f).wave c.w = some y
      ∧ (∀ l, y.lane l = (c.aged f c.x).lane l)
      ∧ (∀ i, y.d.getD i 0 = if c.b.set.toNat = i + 1 ∧ i < c.x.d.length then c.x.d.getD i 0 + 1 else c.x.d.getD i 0)
      ∧ y.next = max c.x.next (s.clock + 1 + c.b.stall.toNat + f.extra)
      ∧ y.s = c.x.s ∧ y.k = c.x.k ∧ y.wcw = c.x.wcw ∧ y.gmap = c.x.gmap := by
  refine ⟨_, retire_wave bs (x := c.x) (by rw [hs, hw]), ?_⟩
  rw [queued_eq, claim_eq, aged_eq]
  exact ⟨fun _ => rfl, fun i => claim_d _ _ i, rfl, rfl, rfl, rfl, rfl⟩

/-- Settles O12: the lanes are those of `Issue.aged`. -/
theorem issueAdvances : Obligations.IssueAdvances := by
  unfold Obligations.IssueAdvances
  constructor
  · intro s c bs f l hw hs hr hstay hl
    obtain ⟨y, hy, hlane, hd, hnext, hsregs, hkregs, hwcw, hgmap⟩ := retire_wave_of_same bs hw hs
    have hmoved := lane_moved_of_go c hl hstay hr
    refine ⟨y, hy, ?_, ?_, fun hact => ?_, hd, ?_, ?_, hsregs, hkregs, hwcw, hgmap, ?_⟩
    · rw [hlane, lane_aged_pc c hl, hmoved, moveLane_pc]
      simp
    · rw [hlane, lane_aged_st c hl, hmoved]
      simp
    · rw [hlane, lane_aged_neglect c hl, hmoved, moveLane_neglect, neglectLane_of_active hact]
    · omega
    · omega
    · rw [hlane, lane_aged_ep_of_go c hl hstay, hmoved]
      simp only [moveLane_st, moveLane_ep, neglectLane_st, neglectLane_ep, epochsAhead_iff, and_assoc]
  · intro s c bs f l hw hs hstay hl
    obtain ⟨y, hy, hlane, -⟩ := retire_wave_of_same bs hw hs
    have hmoved := lane_moved_of_stay c hl hstay
    refine ⟨y, hy, ?_, ?_, ?_⟩
    · rw [hlane, lane_aged_pc c hl, hmoved, neglectLane_pc]
    · rw [hlane, lane_aged_st c hl, hmoved, neglectLane_st]
    · rw [hlane, lane_aged_ep_of_stay c hl hstay, hmoved, neglectLane_ep]

end Sys2Proof.Machine

/-! # Integer rows (R100 to R105) -/

namespace Sys2Proof.Machine

/-- The operation of a vector integer row that writes D. -/
def vectorOp (i : Instr) : Option IntOp :=
  match i with
  | .mov _ => some .mov | .iadd _ => some .iadd | .isub _ => some .isub | .imul _ => some .imul | .imulh _ => some .imulh
  | .imad _ => some .imad | .imin _ => some .imin | .imax _ => some .imax | .iabs _ => some .iabs | .shl _ => some .shl
  | .shr _ => some .shr | .rot _ => some .rot | .and _ => some .and | .or _ => some .or | .xor _ => some .xor | .andn _ => some .andn
  | .bfe _ => some .bfe | .bfi _ => some .bfi | .popc _ => some .popc | .clz _ => some .clz | .brev _ => some .brev
  | .prmt _ => some .prmt | .lea _ => some .lea | .sel _ => some .sel
  | _ => none

/-- The value of an integer row for a lane; lane 32 stands for a uniform row, whose predicate bit is of the lane `k`. -/
def intValue (o : IntOp) (u : Bool) (k : Nat) (c : Issue) (s : State) (l : Nat) : Nat :=
  let p := c.intArgs s o u l
  (intResult o c.b p.1 p.2.1 p.2.2 ((c.k s c.b.hi).getLsbD k)).1

theorem issuesAs_of_vectorOp {i : Instr} {o : IntOp} (h : vectorOp i.core = some o) :
    IssuesAs i fun c s => c.fixed s (c.toD fun l => intValue o false l c s l) := by
  cases i <;> cases h <;> exact fun _ => rfl

/-- The rule of a row gives the value of its operation, of a lane and of the uniform form. -/
def RuleOf (o : IntOp) (v : Issue → State → Bool → Nat → Nat) : Prop :=
  ∀ c s u l, v c s u l = intValue o u (if u then c.low else l) c s l

theorem vectorOp_of_intRule {j : Instr} {lat : Nat} {v : Issue → State → Bool → Nat → Nat} (h : intRule j = some (lat, v)) :
    ∃ o, vectorOp j = some o ∧ j.latency = lat ∧ RuleOf o v := by
  unfold intRule at h
  split at h
  case h_6 =>
    cases h
    refine ⟨.imad, rfl, rfl, fun c s u l => ?_⟩
    simp only [intValue, intResult, Issue.intArgs]
    split <;> rfl
  case h_12 =>
    cases h
    refine ⟨.rot, rfl, rfl, fun c s u l => ?_⟩
    simp only [intValue, intResult, Issue.intArgs, rotVal]
    split <;> rfl
  all_goals cases h <;> exact ⟨_, rfl, rfl, fun _ _ _ _ => rfl⟩

/-- A uniform row has the operation of its vector twin. -/
theorem issuesAs_of_uniformTwin {i j : Instr} {o : IntOp} (h : uniformTwin i = some j) (ho : vectorOp j = some o) :
    IssuesAs i (fun c s => c.fixed s (c.toSD (intValue o true c.low c s 32))) ∧ i.core.latency = j.latency := by
  unfold uniformTwin at h
  split at h <;> cases h <;> cases ho <;> exact ⟨fun _ => rfl, rfl⟩

theorem latency_of_starts {i : Instr} {s : State} {c : Issue} (h : Starts i s c) : c.i.latency = i.core.latency := by
  obtain ⟨-, -, -, hi, -⟩ := issuer_spec h.1
  rw [hi]

/-- Settles O13: a row is the issue of its operation's value, which the rule gives. -/
theorem integerOperations : Obligations.IntegerOperations := by
  unfold Obligations.IntegerOperations
  constructor
  · intro i lat v hrule s c hs
    obtain ⟨o, ho, hlat, hv⟩ := vectorOp_of_intRule hrule
    refine (issuesAs_of_vectorOp ho).does hs ?_
    have hvalue : v c s false = fun l => intValue o false l c s l := funext fun l => hv c s false l
    rw [hvalue, ← hlat, ← latency_of_starts hs]
    rfl
  · intro i j lat v htwin hrule s c hs
    obtain ⟨o, ho, hlat, hv⟩ := vectorOp_of_intRule hrule
    obtain ⟨hissues, hsame⟩ := issuesAs_of_uniformTwin htwin ho
    refine hissues.does hs ?_
    have hvalue : v c s true 32 = intValue o true c.low c s 32 := hv c s true 32
    rw [hvalue, ← hlat, ← hsame, ← latency_of_starts hs]
    rfl

end Sys2Proof.Machine

/-! # Special functions (R138, R139, R260) -/

namespace Sys2Proof.Machine

theorem issuesAs_of_sfuRule {i : Instr} {f : Sfu} (h : sfuRule i = some f) : IssuesAs i (sfuEff f) := by
  unfold sfuRule at h
  split at h <;> cases h <;> exact fun _ => rfl

/-- Settles O21: the row's issue, with a trap in its place only behind a pending check. -/
theorem specialFunctions : Obligations.SpecialFunctions := by
  unfold Obligations.SpecialFunctions
  intro i f hf s c hs rs behind
  have hissues := issuesAs_of_sfuRule hf
  have hany : behind ↔ (c.x.pend.any fun p => p.work.isCheck) = true := List.any_eq_true.symm
  have heff : sfuEff f c s = match (c.x.fpTrap rs).filter fun _ => c.x.pend.any fun p => p.work.isCheck with
    | some t => .trap t (condsOf rs)
    | none => .go { s := s.modWave c.w fun x => x.orFlags (condsOf rs)
                    work := some (.sfu (rs.flatMap fun r => vWords c.b.d.toNat r.1 r.2.1 1) (c.x.fpTrap rs))
                    lat := 20, hold := c.x.enables != 0#5, stay := (c.x.fpTrap rs).isSome } := rfl
  refine ⟨fun t hb ht => hissues.traps hs ?_, fun hn => hissues.does hs ?_⟩
  · rw [heff, ht, hany.mp hb]
    rfl
  · have hnone : ((c.x.fpTrap rs).filter fun _ => c.x.pend.any fun p => p.work.isCheck) = none := by
      rcases hn with hb | ht
      · simpa using fun _ _ => mt hany.mpr hb
      · rw [ht]
        rfl
    rw [heff, hnone]

end Sys2Proof.Machine

/-! # Control transfers (R89, R109 to R112) -/

namespace Sys2Proof.Machine

theorem maskOf_eq_zero_iff (p : Nat → Bool) : maskOf p = 0#32 ↔ ∀ l, l < 32 → p l = false := by
  constructor
  · intro h l hl
    rw [← getLsbD_maskOf p hl, h, BitVec.getLsbD_zero]
  · intro h
    exact BitVec.eq_of_getLsbD_eq fun l hl => by rw [getLsbD_maskOf p hl, h l hl, BitVec.getLsbD_zero]

/-- The lanes by number and the lanes with their numbers give the same neglect. -/
theorem neglected_eq (c : Issue) : c.neglected = neglectedLane c := by
  rw [Bool.eq_iff_iff, Issue.neglected, neglectedLane, List.any_eq_true, List.any_eq_true]
  constructor
  · rintro ⟨⟨y, l⟩, hmem, hy⟩
    have hlane : c.x.lanes[l]? = some y := List.mem_zipIdx_iff_getElem?.mp hmem
    obtain ⟨hl, -⟩ := List.getElem?_eq_some_iff.mp hlane
    exact ⟨l, List.mem_range.mpr hl, by simpa [Wave.lane, List.getD_eq_getElem?_getD, hlane] using hy⟩
  · rintro ⟨l, hl, hy⟩
    have hl' := List.mem_range.mp hl
    exact ⟨(c.x.lanes[l], l), List.mem_zipIdx_iff_getElem?.mpr (by simp [hl']), by simpa [Wave.lane, hl'] using hy⟩

/-- A branch is a transfer; its registers land after 4 clocks. -/
theorem branch_eq {c : Issue} (hlat : c.i.latency = 4) (s : State) (target : Nat → Nat) (ws : List RegWrite) (extra : Nat) :
    c.branch s target ws extra = .go (transfers s c target ws extra) := by
  simp only [Issue.branch, transfers, sentBack, neglected_eq, hlat]
  cases ws <;> rfl

theorem badTargets_none (c : Issue) (s : State) :
    c.badTargets s none = maskOf fun l => c.con.getLsbD l && decide (c.regA s l % 2 = 1) := by
  rw [Issue.badTargets]
  congr 1
  funext l
  simp [beq_eq_decide]

theorem badTargets_some (c : Issue) (s : State) (ts : List Word) :
    c.badTargets s (some ts) = maskOf fun l => c.con.getLsbD l &&
      (decide (c.regA s l % 2 = 1) || decide (¬∃ e ∈ ts, (c.pc + litExt true 64 e) % 2 ^ 64 = c.regA s l)) := by
  rw [Issue.badTargets]
  congr 1
  funext l
  congr 2
  rw [Bool.eq_iff_iff]
  simp

section
variable {c : Issue} {s : State}

theorem indirect_eq_trap {ts : Option (List Word)} (h : c.badTargets s ts ≠ 0#32) (ws : List RegWrite) :
    c.indirect s ts ws = .trap { cause := .targetFault, mask := c.badTargets s ts } := by
  simp [Issue.indirect, h]

variable (hlat : c.i.latency = 4) (heven : ∀ l, l < 32 → c.con.getLsbD l = true → c.regA s l % 2 = 0)
include hlat heven

/-- Even targets go on where no list is declared. -/
theorem indirect_none (ws : List RegWrite) : c.indirect s none ws = .go (transfers s c (c.regA s) ws 0) := by
  have hbad : c.badTargets s none = 0#32 := by
    rw [badTargets_none, maskOf_eq_zero_iff]
    intro l hl
    cases hc : c.con.getLsbD l <;> simp [heven l hl, hc]
  rw [Issue.indirect, hbad, ← branch_eq hlat]
  rfl

/-- Even targets of the declared list go on, after a clock for every 16 of its entries (R112). -/
theorem indirect_some {ts : List Word} (ws : List RegWrite)
    (hlisted : ∀ l, l < 32 → c.con.getLsbD l = true → ∃ e ∈ ts, (c.pc + litExt true 64 e) % 2 ^ 64 = c.regA s l) :
    c.indirect s (some ts) ws = .go (transfers s c (c.regA s) ws ((ts.length + 15) / 16)) := by
  have hbad : c.badTargets s (some ts) = 0#32 := by
    rw [badTargets_some, maskOf_eq_zero_iff]
    intro l hl
    cases hc : c.con.getLsbD l
    · simp
    · simpa [heven l hl hc] using hlisted l hl hc
  rw [Issue.indirect, hbad, ← branch_eq hlat]
  rfl

end

section
variable (x : Body) (ts : List Word)

theorem issuesAs_bra : IssuesAs (.bra x) fun c s => c.branch s (fun _ => c.label) [] 0 := fun _ => rfl
theorem issuesAs_call : IssuesAs (.call x) fun c s => c.branch s (fun _ => c.label) c.link 0 := fun _ => rfl
theorem issuesAs_brx : IssuesAs (.brx x ts) fun c s => c.indirect s (some ts) [] := fun _ => rfl
theorem issuesAs_callx : IssuesAs (.callx x ts) fun c s => c.indirect s (some ts) c.link := fun _ => rfl
theorem issuesAs_ret : IssuesAs (.ret x) fun c s => c.indirect s none [] := fun _ => rfl

end

/-- Settles O24: a transfer is a branch, and a bad target traps in its place. -/
theorem controlTransfers : Obligations.ControlTransfers := by
  unfold Obligations.ControlTransfers
  constructor
  · intro x ts s c label link even listed
    exact ⟨fun hs => (issuesAs_bra x).does hs (branch_eq (latency_of_starts hs) ..),
      fun hs => (issuesAs_call x).does hs (branch_eq (latency_of_starts hs) ..),
      fun hs he hl => (issuesAs_brx x ts).does hs (indirect_some (latency_of_starts hs) he _ hl),
      fun hs he hl => (issuesAs_callx x ts).does hs (indirect_some (latency_of_starts hs) he _ hl),
      fun hs he => (issuesAs_ret x).does hs (indirect_none (latency_of_starts hs) he _)⟩
  · intro x ts s c odd off
    have hodd : c.badTargets s none = odd := badTargets_none c s
    have hoff : c.badTargets s (some ts) = off := badTargets_some c s ts
    rw [← hodd, ← hoff]
    exact ⟨fun hs h => (issuesAs_ret x).traps hs (indirect_eq_trap h _), fun hs h => (issuesAs_brx x ts).traps hs (indirect_eq_trap h _),
      fun hs h => (issuesAs_callx x ts).traps hs (indirect_eq_trap h _)⟩

end Sys2Proof.Machine

/-! # What the register rows leave alone (R62, R75, R76) -/

namespace Sys2Proof.Machine

/-! ## Effects on registers alone -/

/-- An effect that at most raises flags before its results: it traps, or it goes on from the state as it was, but for the flags. -/
def Issue.Quiet (c : Issue) (s : State) : Eff → Prop
  | .wait => False
  | .trap _ _ post => post = id
  | .go f => f.s = s ∨ ∃ fl, f.s = s.modWave c.w fun y => y.orFlags fl

section
variable (c : Issue) (s : State)

theorem quiet_fixed (ws : List RegWrite) : c.Quiet s (c.fixed s ws) := .inl rfl

theorem quiet_settleFp (rs : List (Nat × Nat × Cond)) (ws : List RegWrite) : c.Quiet s (c.settleFp s rs ws) := by
  unfold Issue.settleFp
  split
  · rfl
  · exact .inr ⟨_, rfl⟩

theorem quiet_fpLanes (f : Nat → Nat × Cond) : c.Quiet s (c.fpLanes s f) := quiet_settleFp ..

theorem quiet_sfuEff (f : Sfu) : c.Quiet s (sfuEff f c s) := by
  unfold sfuEff
  dsimp only
  split
  · rfl
  · exact .inr ⟨_, rfl⟩

end

/-- What a step answers is the issue of an instruction's I64 form with a quiet effect. -/
def IsQuiet (i : Instr) (s : State) (o : Out) : Prop :=
  ∃ eff, (∀ c s, Issue.Quiet c s (eff c s)) ∧ o = issue i.core i.span (frameWords (encode i)) s eff

theorem isQuiet_of_issuesAs {i : Instr} {eff : Issue → State → Eff} (h : IssuesAs i eff) (hq : ∀ c s, Issue.Quiet c s (eff c s))
    (s : State) : IsQuiet i s (exec i s) :=
  ⟨eff, hq, h s⟩

theorem isQuiet_run {i : Instr} {s : State} {eff : Issue → State → Eff} (h : i.core = i) (hq : ∀ c s, Issue.Quiet c s (eff c s)) :
    IsQuiet i s (run i s eff) :=
  ⟨eff, hq, by rw [h]; rfl⟩

/-- The register rows whose values no rule above gives: carries, compares, IDOT4, predicates, lanes, random numbers and reads of
special registers. -/
def otherRegisterRow (i : Instr) : Bool :=
  match i with
  | .iaddc _ | .icmp _ | .iaddcU _ | .icmpU _ | .fcmp _ | .fclass _ | .idot4 _ | .rngx _ | .kand _ | .kor _ | .kxor _ | .knot _
  | .kmov _ | .kmovKS _ | .kmovSK _ | .shfl _ | .vote _ | .redux _ | .scan _ | .matchLanes _ | .bcast _ | .rcsr _ | .srd _ => true
  | _ => false

theorem registerOnly_eq (i : Instr) : registerOnly i =
    ((fpRule i.core).isSome || (vectorOp i.core).isSome || ((uniformTwin i).bind vectorOp).isSome || (sfuRule i).isSome
      || otherRegisterRow i.core) := by
  cases i <;> rfl

theorem isQuiet_other {i : Instr} (h : otherRegisterRow i.core = true) (s : State) : IsQuiet i s (exec i s) := by
  cases i <;> cases h
  case i32Idot4I8 | i32Idot4N8 => exact isQuiet_of_issuesAs (eff := idot4Eff) (fun _ => rfl) (fun c s => quiet_fixed ..) s
  case vote x =>
    dsimp only [exec]
    refine isQuiet_run rfl fun c s => ?_
    dsimp only
    split <;> exact quiet_fixed ..
  case srd x =>
    dsimp only [exec]
    refine isQuiet_run rfl fun c s => ?_
    split <;> exact quiet_fixed ..
  case fcmp | redux | scan =>
    dsimp only [exec]
    exact isQuiet_run rfl fun c s => quiet_settleFp ..
  all_goals
    dsimp only [exec]
    exact isQuiet_run rfl fun c s => quiet_fixed ..

/-- Every register row issues with a quiet effect. -/
theorem isQuiet_of_registerOnly {i : Instr} (h : registerOnly i = true) (s : State) : IsQuiet i s (exec i s) := by
  rw [registerOnly_eq] at h
  simp only [Bool.or_eq_true, Option.isSome_iff_exists] at h
  rcases h with (((⟨r, hr⟩ | ⟨r, hr⟩) | ⟨r, hr⟩) | ⟨r, hr⟩) | h
  · exact isQuiet_of_issuesAs (issuesAs_of_fpRule hr) (fun c s => quiet_fpLanes ..) s
  · exact isQuiet_of_issuesAs (issuesAs_of_vectorOp hr) (fun c s => quiet_fixed ..) s
  · obtain ⟨j, hj, hr⟩ := Option.bind_eq_some_iff.1 hr
    exact isQuiet_of_issuesAs (issuesAs_of_uniformTwin hj hr).1 (fun c s => quiet_fixed ..) s
  · exact isQuiet_of_issuesAs (issuesAs_of_sfuRule hr) (fun c s => quiet_sfuEff ..) s
  · exact isQuiet_other h s

/-! ## The frame of a quiet issue -/

/-- What a register row leaves alone of its own wave. -/
def Wave.Kept (x y : Wave) : Prop :=
  y.s = x.s ∧ y.k = x.k ∧ y.gmap = x.gmap ∧ y.sq = x.sq ∧ y.ts = x.ts ∧ y.enrol = x.enrol ∧ y.arrivals = x.arrivals
    ∧ y.mon = x.mon ∧ y.parks = x.parks ∧ (y.wcw &&& 0xFFFFFFE0#32) = (x.wcw &&& 0xFFFFFFE0#32)
    ∧ (y.run = .running → y.txn = x.txn)

theorem kept_refl (x : Wave) : x.Kept x := ⟨rfl, rfl, rfl, rfl, rfl, rfl, rfl, rfl, rfl, rfl, fun _ => rfl⟩

/-- The flags are the five low bits of the wave control word (R76). -/
theorem or_flags_masked (x : Word) (fl : Cond) : ((x ||| fl.setWidth 32) &&& 0xFFFFFFE0#32) = (x &&& 0xFFFFFFE0#32) := by
  have hfl : (fl.setWidth 32 &&& 0xFFFFFFE0#32) = 0#32 := by
    revert fl
    decide
  rw [BitVec.and_comm, BitVec.and_or_distrib_left, BitVec.and_comm _ (fl.setWidth 32), hfl, BitVec.or_zero, BitVec.and_comm]

theorem kept_orFlags (x : Wave) (fl : Cond) : x.Kept (x.orFlags fl) :=
  ⟨rfl, rfl, rfl, rfl, rfl, rfl, rfl, rfl, rfl, or_flags_masked .., fun _ => rfl⟩

/-- A wave that stops with a frame keeps all of this, its transaction apart. -/
theorem kept_of_stops {x y : Wave} (h : x.Kept y) (f : Frame) : x.Kept (y.stopWith f) := by
  obtain ⟨hs, hk, hg, hq, ht, he, ha, hm, hp, hw, -⟩ := h
  exact ⟨hs, hk, hg, hq, ht, he, ha, hm, hp, hw, nofun⟩

/-- An issue adds to what its wave has pending, and keeps all of this. -/
theorem kept_queued {x y : Wave} (h : x.Kept y) (c : Issue) (s : State) (bs : List Byte) (f : Fx) (due : Bool) (slot : Nat) :
    x.Kept (c.queued s bs f due ((c.aged f y).claim slot)) := by
  rw [queued_eq, claim_eq, aged_eq]
  exact h

/-- A step of one wave that leaves alone what a register row leaves alone. -/
def State.Framed (s t : State) (w : Nat) : Prop :=
  sameButWaves s t ∧ otherWaves s t w ∧ ∀ x y, s.wave w = some x → t.wave w = some y → x.Kept y

section
variable {s : State} {c : Issue} (hw : s.wave c.w = some c.x)
include hw

theorem framed_putWave {y : Wave} (h : c.x.Kept y) : s.Framed (s.putWave c.w y) c.w := by
  refine ⟨⟨rfl, rfl, rfl, rfl, rfl⟩, fun v hv => mget_mput_other _ _ hv, fun x z hx hz => ?_⟩
  obtain rfl : c.x = x := Option.some.inj (hw.symm.trans hx)
  obtain rfl : y = z := Option.some.inj ((mget_mput_same ..).symm.trans hz)
  exact h

theorem framed_takeTrap (bs : List Byte) (t : Trap) (fl : Cond) : s.Framed (s.takeTrap c bs t fl) c.w := by
  unfold State.takeTrap
  split
  · exact framed_putWave hw (kept_refl c.x)
  · split
    · exact framed_putWave hw ⟨rfl, rfl, rfl, rfl, rfl, rfl, rfl, rfl, rfl, rfl, nofun⟩
    · obtain ⟨⟨hm, hwk, hpk, -, hclock⟩, hframe⟩ := framed_putWave hw (kept_of_stops (kept_orFlags c.x fl) _)
      exact ⟨⟨hm, hwk, hpk, rfl, hclock⟩, hframe⟩

theorem framed_retire {f : Fx} (hs : f.s = s ∨ ∃ fl, f.s = s.modWave c.w fun y => y.orFlags fl) (bs : List Byte) :
    s.Framed (s.retire c bs f) c.w := by
  have hother (v : Nat) (hv : v ≠ c.w) : f.s.wave v = s.wave v := by
    obtain h | ⟨fl, h⟩ := hs
    · rw [h]
    · rw [h]
      exact mget_mmod_other _ _ hv
  obtain ⟨x', hx', hkept⟩ : ∃ x', f.s.wave c.w = some x' ∧ c.x.Kept x' := by
    obtain h | ⟨fl, h⟩ := hs
    · exact ⟨c.x, h ▸ hw, kept_refl _⟩
    · exact ⟨c.x.orFlags fl, h ▸ mget_mmod_same hw _, kept_orFlags ..⟩
  refine ⟨?_, fun v hv => (retire_wave_other _ _ _ _ hv).trans (hother v hv), fun x y hx hy => ?_⟩
  · obtain h | ⟨fl, h⟩ := hs
    · exact ⟨by simp [h], by simp [h], by simp [h], by simp [h, State.rowIssued], by simp [h]⟩
    · exact ⟨by simp [h, State.modWave], by simp [h, State.modWave], by simp [h, State.modWave],
        by simp [h, State.rowIssued, State.modWave], by simp [h, State.modWave]⟩
  · obtain rfl : c.x = x := Option.some.inj (hw.symm.trans hx)
    obtain rfl := Option.some.inj ((retire_wave bs hx').symm.trans hy)
    exact kept_queued hkept ..

end

/-- The issue of a quiet effect leaves all of this alone, whether it starts, is guarded off or traps. -/
theorem framed_of_isQuiet {i : Instr} {s t : State} (h : IsQuiet i s (.next t)) : s.Framed t s.cur := by
  obtain ⟨eff, hq, h⟩ := h
  obtain ⟨c, hc, hcases⟩ := issue_cases h.symm
  obtain ⟨hcur, hw, -⟩ := issuer_spec hc
  rw [← hcur] at hw ⊢
  have heff := hq c s
  rcases hcases with ⟨r, -, rfl⟩ | ⟨-, -, rfl⟩ | ⟨-, -, he, -⟩ | ⟨r, fl, post, -, -, he, rfl⟩ | ⟨f, -, -, he, rfl⟩
  · exact framed_takeTrap hw ..
  · exact framed_retire hw (.inl rfl) _
  · rw [he] at heff
    exact heff.elim
  · rw [he] at heff
    obtain rfl : post = id := heff
    exact framed_takeTrap hw ..
  · rw [he] at heff
    exact framed_retire hw heff _

/-- Settles O22: every register row issues with a quiet effect. -/
theorem registerRowsFrame : Obligations.RegisterRowsFrame := by
  unfold Obligations.RegisterRowsFrame
  intro i s t hi h
  exact framed_of_isQuiet (h ▸ isQuiet_of_registerOnly hi s)

end Sys2Proof.Machine

/-! # No event stops the machine (R60, R70; log entry 4)

An event tests what it needs of the state and then answers: each has its rule here, that it answers a next state in every state. The
commands of a host queue share `State.runCmd`, those of the service processor `State.service`. -/

namespace Sys2Proof.Machine

/-- What a step answers is a next state. -/
def Answers (o : Out) : Prop := ∃ t, o = .next t

theorem answers_next (t : State) : Answers (.next t) := ⟨t, rfl⟩

section
variable (s : State)

theorem answers_runCmd (hq : Nat) (is : List Byte → Bool) (f : State → HostQ → Nat → List Byte → State) :
    Answers (s.runCmd hq is f) := by
  fun_cases State.runCmd s hq is f <;> exact answers_next _

theorem answers_service (ok : Bool) (f : State) : Answers (s.service ok f) := by
  fun_cases State.service s ok f <;> exact answers_next _

/-! ## Waves: what is pending, the store queue, code and monitors -/

@[simp] theorem answers_sfuResultWrite (w n : Nat) : Answers (execSfuResultWrite w n s) := by
  fun_cases execSfuResultWrite w n s <;> exact answers_next _

@[simp] theorem answers_tblsetBankWrite (w n : Nat) : Answers (execTblsetBankWrite w n s) := by
  fun_cases execTblsetBankWrite w n s <;> exact answers_next _

@[simp] theorem answers_tblevalResult (w n : Nat) : Answers (execTblevalResult w n s) := by
  fun_cases execTblevalResult w n s <;> exact answers_next _

@[simp] theorem answers_quotaSettle (w n : Nat) : Answers (execQuotaSettle w n s) := by
  fun_cases execQuotaSettle w n s <;> exact answers_next _

@[simp] theorem answers_icinvComplete (w n : Nat) : Answers (execIcinvComplete w n s) := by
  fun_cases execIcinvComplete w n s <;> exact answers_next _

@[simp] theorem answers_loadDataReturn (w n : Nat) : Answers (execLoadDataReturn w n s) := by
  fun_cases execLoadDataReturn w n s <;> exact answers_next _

@[simp] theorem answers_storeQueueLeave (w : Nat) : Answers (execStoreQueueLeave w s) := by
  fun_cases execStoreQueueLeave w s <;> exact answers_next _

@[simp] theorem answers_translationCheckResult (w n : Nat) : Answers (execTranslationCheckResult w n s) := by
  fun_cases execTranslationCheckResult w n s <;> exact answers_next _

@[simp] theorem answers_fenceComplete (w n : Nat) : Answers (execFenceComplete w n s) := by
  fun_cases execFenceComplete w n s <;> exact answers_next _

@[simp] theorem answers_cacheMaintenanceComplete (w n : Nat) : Answers (execCacheMaintenanceComplete w n s) := by
  fun_cases execCacheMaintenanceComplete w n s <;> exact answers_next _

@[simp] theorem answers_sliceWordOperation (w n line : Nat) : Answers (execSliceWordOperation w n line s) := by
  fun_cases execSliceWordOperation w n line s <;> exact answers_next _

@[simp] theorem answers_resultLanded (w n : Nat) : Answers (execResultLanded w n s) := by
  fun_cases execResultLanded w n s <;> exact answers_next _

@[simp] theorem answers_scratchpadPass (w n : Nat) : Answers (execScratchpadPass w n s) := by
  fun_cases execScratchpadPass w n s <;> exact answers_next _

@[simp] theorem answers_releaseComplete (w n : Nat) : Answers (execReleaseComplete w n s) := by
  fun_cases execReleaseComplete w n s <;> exact answers_next _

@[simp] theorem answers_traceCacheFill (w : Nat) : Answers (execTraceCacheFill w s) := by
  fun_cases execTraceCacheFill w s <;> exact answers_next _

@[simp] theorem answers_monitorEvent (w : Nat) : Answers (execMonitorEvent w s) := by
  fun_cases execMonitorEvent w s <;> exact answers_next _

@[simp] theorem answers_monwaitTimeout (w : Nat) : Answers (execMonwaitTimeout w s) := by
  fun_cases execMonwaitTimeout w s <;> exact answers_next _

@[simp] theorem answers_barrierStartComplete (bar : Nat) : Answers (execBarrierStartComplete bar s) := by
  fun_cases execBarrierStartComplete bar s <;> exact answers_next _

/-! ## Caches and copy engines -/

@[simp] theorem answers_cacheEviction (core line : Nat) : Answers (execCacheEviction core line s) := answers_next _

@[simp] theorem answers_drainAcknowledge (die core line : Nat) : Answers (execDrainAcknowledge die core line s) := by
  fun_cases execDrainAcknowledge die core line s <;> exact answers_next _

@[simp] theorem answers_copyEntryTake (core blk : Nat) : Answers (execCopyEntryTake core blk s) := by
  fun_cases execCopyEntryTake core blk s <;> exact answers_next _

@[simp] theorem answers_copyEntryComplete (core blk idx : Nat) : Answers (execCopyEntryComplete core blk idx s) := by
  fun_cases execCopyEntryComplete core blk idx s <;> exact answers_next _

/-! ## Grids of the harness, queues, bins and queries -/

@[simp] theorem answers_gridSwitch (g : Nat) : Answers (execGridSwitch g s) := by
  fun_cases execGridSwitch g s <;> exact answers_next _

@[simp] theorem answers_gridReleaseEnd (g : Nat) : Answers (execGridReleaseEnd g s) := by
  fun_cases execGridReleaseEnd g s <;> exact answers_next _

@[simp] theorem answers_hmmaComplete (w n : Nat) : Answers (execHmmaComplete w n s) := by
  fun_cases execHmmaComplete w n s <;> exact answers_next _

@[simp] theorem answers_harnessCompletion (w n : Nat) : Answers (execHarnessCompletion w n s) := by
  fun_cases execHarnessCompletion w n s <;> exact answers_next _

@[simp] theorem answers_queueRefill (q : Nat) : Answers (execQueueRefill q s) := by
  fun_cases execQueueRefill q s <;> exact answers_next _

@[simp] theorem answers_binTimerExpire (q : Nat) : Answers (execBinTimerExpire q s) := by
  fun_cases execBinTimerExpire q s <;> exact answers_next _

@[simp] theorem answers_queryStart (q : Nat) : Answers (execQueryStart q s) := by
  fun_cases execQueryStart q s <;> exact answers_next _

@[simp] theorem answers_compareBatch (q : Nat) : Answers (execCompareBatch q s) := by
  fun_cases execCompareBatch q s <;> exact answers_next _

@[simp] theorem answers_recordEmit (q : Nat) : Answers (execRecordEmit q s) := by
  fun_cases execRecordEmit q s <;> exact answers_next _

@[simp] theorem answers_queryEnd (q : Nat) : Answers (execQueryEnd q s) := by
  fun_cases execQueryEnd q s <;> exact answers_next _

/-! ## Blocks: launch, retirement, save and restore -/

@[simp] theorem answers_queueLaunch (q bind : Nat) : Answers (execQueueLaunch q bind s) := by
  fun_cases execQueueLaunch q bind s <;> exact answers_next _

@[simp] theorem answers_binLaunch (q bind : Nat) : Answers (execBinLaunch q bind s) := by
  fun_cases execBinLaunch q bind s <;> exact answers_next _

@[simp] theorem answers_blockStart (bind cluster : Nat) : Answers (execBlockStart bind cluster s) := by
  fun_cases execBlockStart bind cluster s <;> exact answers_next _

@[simp] theorem answers_waveRetire (w : Nat) : Answers (execWaveRetire w s) := by
  fun_cases execWaveRetire w s <;> exact answers_next _

@[simp] theorem answers_blockRetire (blk : Nat) : Answers (execBlockRetire blk s) := by
  fun_cases execBlockRetire blk s <;> exact answers_next _

@[simp] theorem answers_saveImageWrite (blk : Nat) : Answers (execSaveImageWrite blk s) := by
  fun_cases execSaveImageWrite blk s <;> exact answers_next _

@[simp] theorem answers_blockRestore (img cluster : Nat) : Answers (execBlockRestore img cluster s) := by
  fun_cases execBlockRestore img cluster s <;> exact answers_next _

@[simp] theorem answers_preemption (bind : Nat) : Answers (execPreemption bind s) := by
  fun_cases execPreemption bind s <;> exact answers_next _

@[simp] theorem answers_priorityAgingStep (bind : Nat) : Answers (execPriorityAgingStep bind s) := by
  fun_cases execPriorityAgingStep bind s <;> exact answers_next _

/-! ## Stops, the debug unit, handlers and errors -/

@[simp] theorem answers_waveStopReport (w : Nat) : Answers (execWaveStopReport w s) := by
  fun_cases execWaveStopReport w s <;> exact answers_next _

@[simp] theorem answers_dbgStepDone (w : Nat) : Answers (execDbgStepDone w s) := by
  fun_cases execDbgStepDone w s <;> exact answers_next _

@[simp] theorem answers_instructionBreakpointHit (w : Nat) : Answers (execInstructionBreakpointHit w s) := by
  fun_cases execInstructionBreakpointHit w s <;> exact answers_next _

@[simp] theorem answers_clusterStopped (q : Nat) : Answers (execClusterStopped q s) := by
  fun_cases execClusterStopped q s <;> exact answers_next _

@[simp] theorem answers_dbgResume (q : Nat) : Answers (execDbgResume q s) := answers_next _

@[simp] theorem answers_dbgStep (q core slot : Nat) : Answers (execDbgStep q core slot s) := answers_next _

@[simp] theorem answers_wcmdResume (w : Nat) : Answers (execWcmdResume w s) := answers_next _

@[simp] theorem answers_trapqRead (core size : Nat) : Answers (execTrapqRead core size s) := by
  fun_cases execTrapqRead core size s <;> exact answers_next _

@[simp] theorem answers_ecallDone (core : Nat) : Answers (execEcallDone core s) := by
  fun_cases execEcallDone core s <;> exact answers_next _

@[simp] theorem answers_ecallTeardown (core a0 : Nat) : Answers (execEcallTeardown core a0 s) := by
  fun_cases execEcallTeardown core a0 s <;> exact answers_next _

@[simp] theorem answers_ecallEscalate (core : Nat) : Answers (execEcallEscalate core s) := by
  fun_cases execEcallEscalate core s <;> exact answers_next _

@[simp] theorem answers_supervisorException (core code : Nat) : Answers (execSupervisorException core code s) := answers_next _

@[simp] theorem answers_supervisorStore (core addr size val : Nat) : Answers (execSupervisorStore core addr size val s) := by
  fun_cases execSupervisorStore core addr size val s <;> exact answers_next _

@[simp] theorem answers_uncorrectableError (core arr off : Nat) : Answers (execUncorrectableError core arr off s) := answers_next _

@[simp] theorem answers_correctableError (core arr off : Nat) : Answers (execCorrectableError core arr off s) := answers_next _

@[simp] theorem answers_errstatClear (core : Nat) : Answers (execErrstatClear core s) := answers_next _

/-! ## Commands of the slot table -/

@[simp] theorem answers_cmdRun (bind : Nat) : Answers (execCmdRun bind s) := by
  fun_cases execCmdRun bind s <;> exact answers_next _

@[simp] theorem answers_cmdPause (bind : Nat) : Answers (execCmdPause bind s) := by
  fun_cases execCmdPause bind s <;> exact answers_next _

@[simp] theorem answers_cmdSave (bind : Nat) : Answers (execCmdSave bind s) := by
  fun_cases execCmdSave bind s <;> exact answers_next _

@[simp] theorem answers_cmdRestore (bind : Nat) : Answers (execCmdRestore bind s) := by
  fun_cases execCmdRestore bind s <;> exact answers_next _

@[simp] theorem answers_cmdTeardown (bind : Nat) : Answers (execCmdTeardown bind s) := by
  fun_cases execCmdTeardown bind s <;> exact answers_next _

@[simp] theorem answers_cmdUnassigned (bind code : Nat) : Answers (execCmdUnassigned bind code s) := answers_next _

/-! ## Host queues -/

@[simp] theorem answers_doorbellTail (page val : Nat) : Answers (execDoorbellTail page val s) := by
  fun_cases execDoorbellTail page val s <;> exact answers_next _

@[simp] theorem answers_doorbellRsend (page val : Nat) : Answers (execDoorbellRsend page val s) := by
  fun_cases execDoorbellRsend page val s <;> exact answers_next _

@[simp] theorem answers_doorbellIrqArm (page val : Nat) : Answers (execDoorbellIrqArm page val s) := by
  fun_cases execDoorbellIrqArm page val s <;> exact answers_next _

@[simp] theorem answers_badCommand (hq : Nat) : Answers (execBadCommand hq s) := by
  fun_cases execBadCommand hq s <;> exact answers_next _

@[simp] theorem answers_hostLaunch (hq : Nat) : Answers (execHostLaunch hq s) := answers_runCmd ..

@[simp] theorem answers_hostCopy (hq : Nat) : Answers (execHostCopy hq s) := answers_runCmd ..

@[simp] theorem answers_hostSignalWrite (hq : Nat) : Answers (execHostSignalWrite hq s) := answers_runCmd ..

@[simp] theorem answers_hostSignalAdd (hq : Nat) : Answers (execHostSignalAdd hq s) := answers_runCmd ..

@[simp] theorem answers_hostWait (hq : Nat) : Answers (execHostWait hq s) := by
  fun_cases execHostWait hq s
  · exact answers_next _
  · exact answers_runCmd ..

@[simp] theorem answers_hostWaitTimeout (hq : Nat) : Answers (execHostWaitTimeout hq s) := by
  fun_cases execHostWaitTimeout hq s <;> exact answers_next _

@[simp] theorem answers_ctxcfgInstall (hq : Nat) : Answers (execCtxcfgInstall hq s) := answers_runCmd ..

@[simp] theorem answers_ctxcfgTeardown (hq : Nat) : Answers (execCtxcfgTeardown hq s) := answers_runCmd ..

@[simp] theorem answers_ctxcfgCreateQueue (hq : Nat) : Answers (execCtxcfgCreateQueue hq s) := answers_runCmd ..

@[simp] theorem answers_reincfg (hq : Nat) : Answers (execReincfg hq s) := answers_runCmd ..

@[simp] theorem answers_biasflipToHost (hq : Nat) : Answers (execBiasflipToHost hq s) := answers_runCmd ..

@[simp] theorem answers_biasflipToDevice (hq : Nat) : Answers (execBiasflipToDevice hq s) := answers_runCmd ..

@[simp] theorem answers_hostFence (hq : Nat) : Answers (execHostFence hq s) := by
  fun_cases execHostFence hq s
  · exact answers_next _
  · exact answers_runCmd ..

/-! ## Messages, memory and registers reached from outside -/

@[simp] theorem answers_bindCommand (key cmd : Nat) : Answers (bindCommand key cmd s) := by
  fun_cases bindCommand key cmd s
  case case1 => exact answers_next _
  all_goals simp

theorem answers_slotTableWrite (addr size val : Nat) : Answers (slotTableWrite addr size val s) := by
  unfold slotTableWrite
  dsimp only
  split
  · exact answers_bindCommand ..
  · exact answers_next _

@[simp] theorem answers_reinRouterSend (n : Nat) : Answers (execReinRouterSend n s) := by
  fun_cases execReinRouterSend n s <;> exact answers_next _

@[simp] theorem answers_refusedWriteback (ctx : Nat) : Answers (execRefusedWriteback ctx s) := by
  fun_cases execRefusedWriteback ctx s <;> exact answers_next _

@[simp] theorem answers_peerReinArrival (val : Nat) : Answers (execPeerReinArrival val s) := by
  fun_cases execPeerReinArrival val s <;> exact answers_next _

@[simp] theorem answers_peerReinAnswer (n ok : Nat) : Answers (execPeerReinAnswer n ok s) := by
  fun_cases execPeerReinAnswer n ok s <;> exact answers_next _

@[simp] theorem answers_hostDataRead (addr size : Nat) : Answers (execHostDataRead addr size s) := by
  fun_cases execHostDataRead addr size s <;> exact answers_next _

@[simp] theorem answers_hostDataWrite (addr size val : Nat) : Answers (execHostDataWrite addr size val s) := by
  fun_cases execHostDataWrite addr size val s <;> exact answers_next _

@[simp] theorem answers_iotinvalVma (ctx addr size : Nat) : Answers (execIotinvalVma ctx addr size s) := answers_next _

@[simp] theorem answers_iofenceC (addr val : Nat) : Answers (execIofenceC addr val s) := answers_next _

@[simp] theorem answers_iodirInvalDdt (dev : Nat) : Answers (execIodirInvalDdt dev s) := by
  fun_cases execIodirInvalDdt dev s <;> exact answers_next _

@[simp] theorem answers_iodirInvalPdt (dev pid : Nat) : Answers (execIodirInvalPdt dev pid s) := by
  fun_cases execIodirInvalPdt dev pid s <;> exact answers_next _

@[simp] theorem answers_registerWrite (who addr size val : Nat) : Answers (execRegisterWrite who addr size val s) := by
  unfold execRegisterWrite
  split
  · exact answers_next _
  · split
    case h_4 => exact answers_slotTableWrite ..
    all_goals exact answers_next _

/-! ## The package: power, resets, service and links -/

@[simp] theorem answers_powerLimitWrite (val : Nat) : Answers (execPowerLimitWrite val s) := by
  fun_cases execPowerLimitWrite val s <;> exact answers_next _

@[simp] theorem answers_clockStep (mhz : Nat) : Answers (execClockStep mhz s) := by
  fun_cases execClockStep mhz s <;> exact answers_next _

@[simp] theorem answers_perstRelease : Answers (execPerstRelease s) := by
  fun_cases execPerstRelease s <;> exact answers_next _

@[simp] theorem answers_moduleReset : Answers (execModuleReset s) := answers_next _

@[simp] theorem answers_functionLevelReset : Answers (execFunctionLevelReset s) := answers_next _

@[simp] theorem answers_attestationRequest (val : Nat) : Answers (execAttestationRequest val s) := by
  fun_cases execAttestationRequest val s <;> exact answers_next _

@[simp] theorem answers_svcClusterOffline (q : Nat) : Answers (execSvcClusterOffline q s) := by
  fun_cases execSvcClusterOffline q s
  · exact answers_next _
  · exact answers_next _
  · exact answers_service ..

@[simp] theorem answers_svcClusterOnline (q : Nat) : Answers (execSvcClusterOnline q s) := answers_service ..

@[simp] theorem answers_svcRetireChannel (ch : Nat) : Answers (execSvcRetireChannel ch s) := answers_service ..

@[simp] theorem answers_svcProceedRetirement (ch : Nat) : Answers (execSvcProceedRetirement ch s) := answers_service ..

@[simp] theorem answers_svcRetrainChannel (ch : Nat) : Answers (execSvcRetrainChannel ch s) := answers_service ..

@[simp] theorem answers_svcFirmwareHandover (val : Nat) : Answers (execSvcFirmwareHandover val s) := answers_service ..

@[simp] theorem answers_ucieModuleFailure (link : Nat) : Answers (execUcieModuleFailure link s) := by
  fun_cases execUcieModuleFailure link s <;> exact answers_next _

@[simp] theorem answers_twinEnable (val : Nat) : Answers (execTwinEnable val s) := by
  fun_cases execTwinEnable val s <;> exact answers_next _

@[simp] theorem answers_twinRetrain : Answers (execTwinRetrain s) := by
  fun_cases execTwinRetrain s <;> exact answers_next _

@[simp] theorem answers_linkTrainingComplete (ok : Nat) : Answers (execLinkTrainingComplete ok s) := by
  fun_cases execLinkTrainingComplete ok s <;> exact answers_next _

@[simp] theorem answers_linkDownEvent (why : Nat) : Answers (execLinkDownEvent why s) := by
  fun_cases execLinkDownEvent why s <;> exact answers_next _

@[simp] theorem answers_linkAutoRetrain : Answers (execLinkAutoRetrain s) := by
  fun_cases execLinkAutoRetrain s <;> exact answers_next _

@[simp] theorem answers_flitReplay (n : Nat) : Answers (execFlitReplay n s) := by
  fun_cases execFlitReplay n s <;> exact answers_next _

@[simp] theorem answers_collectiveMatch (key opc rcode rtype len src : Nat) :
    Answers (execCollectiveMatch key opc rcode rtype len src s) := by
  fun_cases execCollectiveMatch key opc rcode rtype len src s <;> exact answers_next _

@[simp] theorem answers_collectiveComplete (key : Nat) : Answers (execCollectiveComplete key s) := by
  fun_cases execCollectiveComplete key s <;> exact answers_next _

end

/-- Every event answers a next state, in every state. -/
theorem answers_of_isEvent {i : Instr} (h : isEvent i = true) (s : State) : Answers (exec i s) := by
  cases i <;> cases h <;> simp [exec]

end Sys2Proof.Machine

/-! # No instruction that can issue stops the machine, and no step refuses (R60, R83; log entries 4 and 5) -/

namespace Sys2Proof.Machine

/-! ## What an instruction answers -/

section
variable {i : Instr} {s : State} {c : Issue}

/-- An issue whose wave is there answers: with a trap, with no effect, or with its effect. -/
theorem answers_issue {n : Nat} {bs : List Byte} {eff : Issue → State → Eff} (hc : s.issuer i n = some c) :
    Answers (issue i n bs s eff) := by
  cases hp : s.precheck c with
  | some r => exact ⟨_, issue_checked hc hp⟩
  | none =>
    by_cases hcon : c.con = 0#32
    · exact ⟨_, issue_off hc hp hcon⟩
    · cases he : eff c s with
      | wait => exact ⟨_, issue_wait hc hp hcon he⟩
      | trap r fl post => exact ⟨_, issue_trap hc hp hcon he⟩
      | go f => exact ⟨_, issue_go hc hp hcon he⟩

theorem answers_of_issuer (hi : i.isInstruction = true) (hc : s.issuer i.core i.span = some c) : Answers (exec i s) := by
  obtain ⟨eff, he⟩ := isIssue_of_isInstruction hi s
  exact he ▸ answers_issue hc

theorem exec_of_noIssuer (hi : i.isInstruction = true) (hn : s.issuer i.core i.span = none) : exec i s = .fault .noIssuer := by
  obtain ⟨eff, he⟩ := isIssue_of_isInstruction hi s
  rw [he, issue_none hn]

/-- Every row of the table answers a next state where some wave can issue it. -/
theorem answers_of_issuers (hc : i.isInstruction = true → s.issuer i.core i.span ≠ none) : Answers (exec i s) := by
  cases hi : i.isInstruction with
  | false =>
    rw [isInstruction_eq_not_isEvent, Bool.not_eq_false'] at hi
    exact answers_of_isEvent hi s
  | true =>
    obtain ⟨c, hc⟩ := Option.ne_none_iff_exists'.mp (hc hi)
    exact answers_of_issuer hi hc

/-- Every row of the table answers a next state, or finds no wave to issue it. -/
theorem exec_answers_or_fault (i : Instr) (s : State) : Answers (exec i s) ∨ exec i s = .fault .noIssuer := by
  by_cases hc : i.isInstruction = true → s.issuer i.core i.span ≠ none
  · exact .inl (answers_of_issuers hc)
  · obtain ⟨hi, hn⟩ := Classical.not_imp.mp hc
    exact .inr (exec_of_noIssuer hi (not_not.mp hn))

end

/-! ## A ready wave issues -/

/-- An entry of a map is what stands at its key. -/
theorem mget_of_mem {α : Type} {m : Map α} (hm : mrising m = true) {k : Nat} {v : α} (h : (k, v) ∈ m) : mget m k = some v := by
  induction m with
  | nil => cases h
  | cons p m ih =>
    obtain ⟨j, x⟩ := p
    obtain ⟨hj, hm⟩ := (mrising_cons j x m).1 hm
    rcases List.mem_cons.mp h with h | h
    · cases h
      simp [mget]
    · have hlt : j < k := hj _ h
      rw [mget, if_neg (by omega), ih hm h]

section
variable {s : State} {w : Nat} {x : Wave}

/-- A ready wave runs, and has an instruction to replay or an issue PC. -/
theorem runs_of_ready (h : s.ready w x = true) : x.run = .running ∧ (x.replay = none → x.issuePc ≠ none) := by
  simp only [State.ready, Bool.and_eq_true] at h
  obtain ⟨⟨hmay, -⟩, hcand⟩ := h
  refine ⟨?_, fun hr hpc => ?_⟩
  · simp only [Wave.mayIssue, Bool.and_eq_true, beq_iff_eq] at hmay
    tauto
  · simp [State.cand, hr, hpc] at hcand

theorem issuer_of_ready (hw : s.wave w = some x) (h : s.ready w x = true) (i : Instr) (n : Nat) :
    ({ s with cur := w } : State).issuer i n ≠ none := by
  obtain ⟨hrun, hpc⟩ := runs_of_ready h
  have hw' : ({ s with cur := w } : State).wave w = some x := hw
  simp only [State.issuer, hw', hrun]
  cases hr : x.replay with
  | some r => simp
  | none =>
    obtain ⟨pc, hpc⟩ := Option.ne_none_iff_exists'.mp (hpc hr)
    simp [hpc]

theorem answers_issueFrom_of_ready (hw : s.wave w = some x) (h : s.ready w x = true) : Answers (s.issueFrom w) := by
  unfold State.issueFrom
  rw [hw]
  dsimp only
  split
  · exact answers_next s
  · exact answers_of_isEvent rfl s
  · exact answers_of_issuers fun _ => issuer_of_ready hw h _ _
  · exact answers_next _

/-- The wave that issues next answers a next state, where no two waves share a slot. -/
theorem answers_issueFrom_of_readyWave {held : Nat → Bool} (hm : mrising s.waves = true) (h : s.readyWave held = some w) :
    Answers (s.issueFrom w) := by
  obtain ⟨-, -, hin⟩ := readyWave_spec h
  obtain ⟨⟨x, hmem, -, hready⟩, -⟩ := readyIn_spec hin
  exact answers_issueFrom_of_ready (mget_of_mem hm hmem) hready

end

theorem issueFrom_answers_or_fault (s : State) (w : Nat) : Answers (s.issueFrom w) ∨ s.issueFrom w = .fault .noIssuer := by
  unfold State.issueFrom
  split
  · exact .inl (answers_next s)
  · dsimp only
    split
    · exact .inl (answers_next s)
    · exact .inl (answers_of_isEvent rfl s)
    · exact exec_answers_or_fault ..
    · exact .inl (answers_next _)

/-! ## What is due, and what may come next, are events -/

theorem isEvent_of_waveDue {s : State} {w : Nat} {x : Wave} {i : Instr} (h : s.waveDue w x = some i) : isEvent i = true := by
  unfold State.waveDue at h
  split_ifs at h
  case neg =>
    obtain ⟨p, -, rfl⟩ := Option.map_eq_some_iff.mp h
    rfl
  all_goals
    cases h
    rfl

theorem isEvent_of_due {s : State} {i : Instr} (h : s.due = some i) : isEvent i = true := by
  revert h
  fun_cases State.due s <;> intro h
  case case2 hdue =>
    obtain ⟨p, -, hp⟩ := List.exists_of_findSome?_eq_some hdue
    cases h
    exact isEvent_of_waveDue hp
  case case7 =>
    obtain ⟨f, -, rfl⟩ := Option.map_eq_some_iff.mp h
    rfl
  all_goals
    cases h
    rfl

/-- A list of rows that answer a next state in every state. -/
def AllAnswer (l : List Instr) : Prop := ∀ i ∈ l, ∀ s, Answers (exec i s)

section
variable {α : Type}

@[simp] theorem allAnswer_nil : AllAnswer [] := by simp [AllAnswer]

@[simp] theorem allAnswer_cons (i : Instr) (l : List Instr) : AllAnswer (i :: l) ↔ (∀ s, Answers (exec i s)) ∧ AllAnswer l :=
  List.forall_mem_cons

@[simp] theorem allAnswer_append (l m : List Instr) : AllAnswer (l ++ m) ↔ AllAnswer l ∧ AllAnswer m :=
  List.forall_mem_append

@[simp] theorem allAnswer_map (f : α → Instr) (l : List α) : AllAnswer (l.map f) ↔ ∀ a ∈ l, ∀ s, Answers (exec (f a) s) :=
  List.forall_mem_map

@[simp] theorem allAnswer_flatMap (f : α → List Instr) (l : List α) : AllAnswer (l.flatMap f) ↔ ∀ a ∈ l, AllAnswer (f a) := by
  simp only [AllAnswer, List.mem_flatMap, forall_exists_index, and_imp]
  exact ⟨fun h a ha i hi => h i a ha hi, fun h i a ha hi => h a ha i hi⟩

@[simp] theorem allAnswer_filterMap (f : α → Option Instr) (l : List α) :
    AllAnswer (l.filterMap f) ↔ ∀ a ∈ l, ∀ i, f a = some i → ∀ s, Answers (exec i s) := by
  simp only [AllAnswer, List.mem_filterMap, forall_exists_index, and_imp]
  exact ⟨fun h a ha i hi => h i a ha hi, fun h i a ha hi => h a ha i hi⟩

@[simp] theorem allAnswer_ite (c : Prop) [Decidable c] (l m : List Instr) :
    AllAnswer (if c then l else m) ↔ (c → AllAnswer l) ∧ (¬c → AllAnswer m) := by
  split <;> simp_all

end

theorem allAnswer_pendMoves (w : Nat) (p : Pend) : AllAnswer (pendMoves w p) := by
  unfold pendMoves
  dsimp only
  split <;> simp [exec]

theorem allAnswer_gridMoves (h : HGrid) : AllAnswer (gridMoves h) := by
  unfold gridMoves
  split <;> simp [exec]

section
variable (s : State)

theorem allAnswer_waveMoves : AllAnswer s.waveMoves := by
  simp [State.waveMoves, allAnswer_pendMoves, exec]

theorem allAnswer_workMoves : AllAnswer s.workMoves := by
  simp [State.workMoves, allAnswer_gridMoves, exec]

theorem allAnswer_hostMoves : AllAnswer s.hostMoves := by
  unfold State.hostMoves
  split <;> split <;> simp [exec]

theorem allAnswer_poolMoves : AllAnswer s.poolMoves := by
  simp [State.poolMoves, exec]

/-- A move of the device that is an event answers in every state. -/
theorem answers_of_move {i : Instr} (h : Move.event i ∈ s.moves) (t : State) : Answers (exec i t) := by
  have hall : AllAnswer (s.waveMoves ++ s.workMoves ++ s.hostMoves ++ if s.quotaServed then [] else s.poolMoves) := by
    simp [allAnswer_waveMoves, allAnswer_workMoves, allAnswer_hostMoves, allAnswer_poolMoves]
  refine hall i ?_ t
  simp [State.moves] at h ⊢
  tauto

end

/-! ## One step -/

/-- An entry of the agenda answers: an event, or a read or a fence that is performed. -/
theorem answers_input (s : State) (a : Input) : Answers (s.input a) := by
  fun_cases State.input s a
  case case1 h => exact answers_of_isEvent h s
  all_goals exact answers_next _

theorem getD_mem_or {α : Type} (l : List α) (n : Nat) (d : α) : l.getD n d ∈ l ∨ l.getD n d = d := by
  rw [List.getD_eq_getElem?_getD]
  cases h : l[n]? with
  | none => exact .inr rfl
  | some a => exact .inl (List.mem_of_getElem? h)

/-- What a step answers is what the wave that is ready answers as it issues, with the waves of a state. -/
def IssuesReady (s : State) (o : Out) : Prop :=
  ∃ (t : State) (held : Nat → Bool) (w : Nat), t.waves = s.waves ∧ t.readyWave held = some w ∧ o = t.issueFrom w

/-- A move of the device answers, unless it issues a wave that is ready. -/
theorem choose_cases (s : State) : Answers s.choose ∨ IssuesReady s s.choose := by
  have hmove := getD_mem_or s.moves (Config.choice s.free % s.moves.length) .tick
  unfold State.choose
  generalize hm : s.moves.getD (Config.choice s.free % s.moves.length) .tick = m at hmove
  dsimp only
  rw [hm]
  cases m with
  | tick =>
    dsimp only
    split
    · exact .inr ⟨s.bump, _, _, rfl, ‹_›, rfl⟩
    · exact .inl (answers_next _)
  | event i => exact .inl (answers_of_move s (hmove.resolve_right nofun) _)
  | halt w =>
    dsimp only
    split
    · split <;> exact .inl (answers_next _)
    · exact .inl (answers_next _)
  | see | dropCode | prefetch | hart | iommu => exact .inl (answers_next _)

/-- A step answers, unless it issues a wave that is ready. -/
theorem step_cases (s : State) : Answers (step s) ∨ IssuesReady s (step s) := by
  unfold step
  fun_cases State.advance s
  case case1 => exact .inl (answers_input ..)
  case case2 i hi => exact .inl (answers_of_isEvent (isEvent_of_due hi) s)
  case case3 => exact .inl (answers_next _)
  case case4 w hw => exact .inr ⟨s, _, w, rfl, hw, rfl⟩
  case case5 => exact choose_cases s

/-- Settles O8: every row answers where some wave can issue it, and a wave that is ready can. -/
theorem nothingStops : Obligations.NothingStops := by
  unfold Obligations.NothingStops
  refine ⟨fun s hm => ?_, fun s r hr => ?_, fun i s => (answers_of_isEvent · s), fun i s c => answers_of_issuer,
    fun i s => exec_of_noIssuer⟩
  · rcases step_cases s with h | ⟨t, held, w, hwaves, hw, h⟩
    · exact h
    · rw [h]
      exact answers_issueFrom_of_readyWave (hwaves ▸ hm) hw
  · rcases step_cases s with ⟨t, h⟩ | ⟨t, held, w, -, -, h⟩
    · cases h.symm.trans hr
    · rcases issueFrom_answers_or_fault t w with ⟨u, hu⟩ | hu
      · cases (h.trans hu).symm.trans hr
      · cases (h.trans hu).symm.trans hr

end Sys2Proof.Machine

/-! # Taking a trap (R98, R258, R262) -/

namespace Sys2Proof.Machine

/-- Settles O11: with nothing held back, the trap stops the wave with the frame of `takeTrap_eq_stop`. -/
theorem trapSavesTheWave : Obligations.TrapSavesTheWave := by
  unfold Obligations.TrapSavesTheWave
  intro s c bs t fl hhit hchk
  rw [takeTrap_eq_stop hhit hchk]
  exact ⟨_, _, mget_mput_same .., rfl, rfl, rfl, rfl, rfl, rfl, rfl, rfl, rfl, rfl, rfl, rfl, rfl, rfl, rfl, rfl, rfl, rfl, rfl,
    rfl, rfl, rfl, ⟨rfl, rfl, rfl, rfl, rfl⟩, fun v hv => mget_mput_other _ _ hv⟩

end Sys2Proof.Machine

/-! # Lane operations of a tile (R91, R92, R125, R135, R146 to R151) -/

namespace Sys2Proof.Machine

/-- An instruction whose effect is results of fixed latency. -/
theorem IssuesAs.fixed {i : Instr} {eff : Issue → State → Eff} {s : State} {c : Issue} {ws : List RegWrite} (hi : IssuesAs i eff)
    (hs : Starts i s c) (he : eff c s = c.fixed s ws) : Does i s c (results s i.core.latency ws) := by
  refine hi.does hs ?_
  rw [he, ← latency_of_starts hs]
  rfl

/-- Two lanes have the same tile base exactly where their tiles have the same number. -/
theorem tileBase_beq (n m l : Nat) : (tileBase n m == tileBase n l) = (m / n == l / n) := by
  rcases Nat.eq_zero_or_pos n with rfl | hn
  · simp [tileBase]
  · rw [Bool.eq_iff_iff, beq_iff_eq, beq_iff_eq, tileBase, tileBase, Nat.mul_left_inj hn.ne']

theorem tileMates_eq (c : Issue) (l : Nat) : c.tileMates l = (lanesOf c.con).filter fun m => m / c.x.tile == l / c.x.tile := by
  simp only [Issue.tileMates, tileBase_beq]
  rfl

section
variable {x : Body} {lat : Nat} {v : Issue → State → Nat → Nat}

theorem issuesAs_fclass (h : laneRule (.fclass x) = some (lat, v)) : IssuesAs (.fclass x) fun c s => c.fixed s (c.toD (v c s)) := by
  cases h
  intro s
  dsimp only [exec, execFclass]
  refine congrArg (issue _ _ _ s) (funext₂ fun c s => ?_)
  generalize c.b.mdN = n
  rcases n with _ | _ | n <;> rfl

theorem idot4Eff_of_laneRule (h : laneRule (.idot4 x) = some (lat, v)) : idot4Eff = fun c s => c.fixed s (c.toD (v c s)) := by
  cases h
  funext c s
  simp only [idot4Eff, elemsOf, List.zipWith_map, List.zipWith_self, lowBits]

theorem issuesAs_matchLanes (h : laneRule (.matchLanes x) = some (lat, v)) :
    IssuesAs (.matchLanes x) fun c s => c.fixed s (c.toD (v c s)) := by
  cases h
  simp only [← tileMates_eq]
  exact fun _ => rfl

end

/-- Every row with a rule, of any width, is the issue of its I64 form with the rule's values. FCLASS, IDOT4 and MATCH spell them in
other words; the other rows have a rule that is their effect by definition, or none. -/
theorem issuesAs_of_laneRule {i : Instr} {lat : Nat} {v : Issue → State → Nat → Nat} (h : laneRule i.core = some (lat, v)) :
    IssuesAs i fun c s => c.fixed s (c.toD (v c s)) := by
  cases i
  case fclass => exact issuesAs_fclass h
  case idot4 | i32Idot4I8 | i32Idot4N8 => exact fun s => congrArg (issue _ _ _ s) (idot4Eff_of_laneRule h)
  case matchLanes => exact issuesAs_matchLanes h
  all_goals cases h <;> exact fun _ => rfl

theorem latency_of_laneRule {j : Instr} {lat : Nat} {v : Issue → State → Nat → Nat} (h : laneRule j = some (lat, v)) :
    j.latency = lat := by
  unfold laneRule at h
  split at h <;> cases h <;> rfl

/-- What a VOTE writes, by its form (R149). -/
def voteWrites (c : Issue) (s : State) : List RegWrite :=
  let a := c.k s c.b.a.toNat
  if c.b.mdN = 0 then bitsOfD c fun l => (c.tileMates l).all fun m => a.getLsbD m
  else if c.b.mdN = 1 then bitsOfD c fun l => (c.tileMates l).any fun m => a.getLsbD m
  else if c.b.mdN = 2 then bitsOfD c fun l => ((c.tileMates l).all fun m => a.getLsbD m) || !((c.tileMates l).any fun m => a.getLsbD m)
  else lanesOfD c fun l => (c.tileMates l).foldl (fun w m => if a.getLsbD m then w + 2 ^ (m - l / c.x.tile * c.x.tile) else w) 0

section
variable (x : Body)

theorem issuesAs_vote : IssuesAs (.vote x) fun c s => c.fixed s (voteWrites c s) := by
  intro s
  dsimp only [exec, execVote]
  refine congrArg (issue _ _ _ s) (funext₂ fun c s => ?_)
  simp only [voteWrites, List.all_map, List.any_map, Function.comp_def, id]
  generalize c.b.mdN = n
  rcases n with _ | _ | _ | n <;> rfl

theorem issuesAs_shfl : IssuesAs (.shfl x) fun c s =>
    c.fixed s (c.lanes.flatMap fun l =>
      let r : Nat × Bool := match shflSource (c.b.mdN % 4) c.x.tile (l % c.x.tile) (c.lastB s false 32 l) with
        | none => (c.regA s l, false)
        | some j => if c.con.getLsbD (tileBase c.x.tile l + j) then (c.regA s (tileBase c.x.tile l + j), true) else (0, false)
      .k c.b.hi l r.2 :: vWords c.b.d.toNat l r.1 (Body.regs c.b.dW)) := fun _ => rfl

theorem issuesAs_lpart : IssuesAs (.lpart x) fun c s => .go { s := s.modWave c.w fun y => { y with ts := c.b.mdN } } := fun _ => rfl

end

/-- Settles O17: each row is the issue of its rule, and VOTE of `voteWrites`. -/
theorem laneOperations : Obligations.LaneOperations := by
  unfold Obligations.LaneOperations
  constructor
  · intro i lat v hrule s c hs
    rw [← latency_of_laneRule hrule]
    exact (issuesAs_of_laneRule hrule).fixed hs rfl
  · intro x s c n mates a
    have hmates : c.tileMates = mates := funext (tileMates_eq c)
    have hvote (ws : List RegWrite) (hs : Starts (.vote x) s c) (hw : voteWrites c s = ws) : Does (.vote x) s c (results s 8 ws) :=
      (issuesAs_vote x).fixed hs (by rw [hw])
    rw [voteWrites, hmates] at hvote
    exact ⟨fun hs => (issuesAs_shfl x).fixed hs rfl,
      fun hs h => hvote _ hs (if_pos h),
      fun hs h => hvote _ hs (by rw [if_neg (by omega), if_pos h]),
      fun hs h => hvote _ hs (by rw [if_neg (by omega), if_neg (by omega), if_pos h]),
      fun hs h => hvote _ hs (by rw [if_neg (by omega), if_neg (by omega), if_neg (by omega)]),
      fun hs => (issuesAs_lpart x).does hs rfl⟩

end Sys2Proof.Machine

/-! # Lanes that yield and lanes that end (R81, R87, R96, R113) -/

namespace Sys2Proof.Machine

theorem issuesAs_yield (x : Body) : IssuesAs (.yield x) fun c s => .go { s := s.modWave c.w fun y => y.yieldLanes c.con } := fun _ => rfl

/-- Settles O25: YIELD is the issue of `Wave.yieldLanes`. -/
theorem yieldRaisesEpochs : Obligations.YieldRaisesEpochs := by
  unfold Obligations.YieldRaisesEpochs
  exact fun x s c hs => (issuesAs_yield x).does hs rfl

/-- A departure goes on where the wave is enrolled in no barrier or its older accesses have been performed (R369). -/
theorem departing_eq {c : Issue} (h : c.x.enrol = [] ∨ c.x.settled = true) (k : Eff) : c.departing k = k := by
  rcases h with h | h
  · simp [Issue.departing, h]
  · simp [Issue.departing, Issue.settled, h]

theorem mget_mmod {α : Type} (m : Map α) (k l : Nat) (f : α → α) :
    mget (mmod m k f) l = if l = k then (mget m l).map f else mget m l := by
  split
  next h =>
    subst h
    cases hm : mget m l with
    | none => rw [mmod_none hm, hm, Option.map_none]
    | some x => rw [mget_mmod_same hm, Option.map_some]
  next h => exact mget_mmod_other _ _ h

/-- A block's KILLED indicator set (R113). -/
def State.kills (s : State) (blk : Nat) : State :=
  { s with wk := { s.wk with blocks := mmod s.wk.blocks blk fun b => { b with killed := true } } }

theorem block_kills (s : State) (blk b : Nat) :
    (s.kills blk).block b = if b = blk then (s.block b).map fun y => { y with killed := true } else s.block b :=
  mget_mmod ..

section
variable (s : State) (w : Nat)

@[simp] theorem leadExit_waves : (s.leadExit w).waves = s.waves := by
  unfold State.leadExit
  split
  · split <;> rfl
  · rfl

@[simp] theorem leadExit_m : (s.leadExit w).m = s.m := by
  unfold State.leadExit
  split
  · split <;> rfl
  · rfl

/-- What a lane is once it has exited, for the lanes of a mask (R113). -/
def exitLane (m : Word) (l : Nat) (y : Lane) : Lane := if m.getLsbD l then { y with st := .exited, ep := 0, neglect := 0 } else y

/-- The lanes of a wave that is enrolled in no barrier exit; with the last live lane its transaction goes, and a grid that it leads
releases. -/
theorem exitLanes_eq {y : Wave} (m : Word) (hw : s.wave w = some y) (he : y.enrol = []) :
    let s1 := s.modWave w fun x => x.mapLanes (exitLane m)
    s.exitLanes w m = if (y.mapLanes (exitLane m)).liveMask = 0#32 then (s1.modWave w fun x => { x with txn := {} }).leadExit w else s1 := by
  intro s1
  have hexit : s1.wave w = some (y.mapLanes (exitLane m)) := mget_mmod_same hw _
  have hfold : s.exitLanes w m = match s1.wave w with
      | none => s1
      | some z => if z.liveMask = 0#32 then (s1.modWave w fun x => { x with txn := {} }).leadExit w else s1 := by
    rw [State.exitLanes, hw]
    dsimp only
    rw [he]
    rfl
  rw [hfold, hexit]

/-- Lanes that exit so change no other wave and no memory. -/
theorem exitLanes_spec {y : Wave} (m : Word) (hw : s.wave w = some y) (he : y.enrol = []) :
    ∃ z, (s.exitLanes w m).wave w = some z ∧ (s.exitLanes w m).m = s.m ∧ otherWaves s (s.exitLanes w m) w
      ∧ z.lanes = (y.mapLanes (exitLane m)).lanes := by
  have hexit : (s.modWave w fun x => x.mapLanes (exitLane m)).wave w = some (y.mapLanes (exitLane m)) := mget_mmod_same hw _
  rw [exitLanes_eq s w m hw he]
  split
  · refine ⟨{ y.mapLanes (exitLane m) with txn := {} }, ?_, ?_, fun v hv => ?_, rfl⟩
    · rw [State.wave, leadExit_waves]
      exact mget_mmod_same hexit _
    · simp
    · rw [State.wave, leadExit_waves]
      exact (mget_mmod_other _ _ hv).trans (mget_mmod_other _ _ hv)
  · exact ⟨_, hexit, rfl, fun v hv => mget_mmod_other _ _ hv, rfl⟩

end

section
variable (x : Body)

theorem issuesAs_exit : IssuesAs (.exit x) fun c s => c.departing (.go { s := s.exitLanes c.w c.con }) := fun _ => rfl

theorem issuesAs_kill : IssuesAs (.kill x) fun c s =>
    c.departing (.go { s := (s.exitLanes c.w c.con).kills c.x.blk }) := fun _ => rfl

theorem issuesAs_nop : IssuesAs (.nop x) fun _ s => .go { s := s } := fun _ => rfl

theorem issuesAs_waitd : IssuesAs (.waitd x) fun _ s => .go { s := s } := fun _ => rfl

end

/-- Settles O26: EXIT and KILL are the issue of `State.exitLanes`, which `exitLanes_spec` describes. -/
theorem lanesEnd : Obligations.LanesEnd := by
  unfold Obligations.LanesEnd
  intro x s c
  refine ⟨fun hs h => (issuesAs_exit x).does hs (departing_eq h _),
    fun hs h => ⟨_, (issuesAs_kill x).does hs (departing_eq h _), rfl, rfl, rfl, fun b => block_kills ..⟩,
    fun hs => (issuesAs_nop x).does hs rfl, fun hs => (issuesAs_waitd x).does hs rfl, fun w l y m hw he hl => ?_⟩
  obtain ⟨z, hz, hm, hother, hlanes⟩ := exitLanes_spec s w m hw he
  refine ⟨z, hz, hm, hother, ?_⟩
  rw [Wave.lane, hlanes]
  exact lane_mapLanes hl _

end Sys2Proof.Machine

/-! # Traps by instruction, control and special registers (R76, R77, R115 to R117) -/

namespace Sys2Proof.Machine

section
variable (x : Body)

theorem issuesAs_trap : IssuesAs (.trap x) fun c s => .trap { cause := .userTrap, sub := c.sB s, mask := c.con } := fun _ => rfl

theorem issuesAs_bkpt : IssuesAs (.bkpt x) fun c s =>
    let q := clusterOfWave c.w
    let hit := (s.dbg q).den && s.observed q c.w c.x
    .trap { cause := .breakpoint, sub := c.sB s, mask := c.con, dbg := hit } 0#5
      fun s => if hit then s.debugHit q 1 0 (some c.w) true else s := fun _ => rfl

theorem issuesAs_rcsr : IssuesAs (.rcsr x) fun c s => c.fixed s [.s c.b.d.toNat (c.csr c.b.litN)] := fun _ => rfl

theorem issuesAs_wcsr : IssuesAs (.wcsr x) fun c s => .go { s := s.modWave c.w fun x => x.writeWcw (c.s s c.b.a.toNat) } := fun _ => rfl

theorem issuesAs_srd : IssuesAs (.srd x) fun c s =>
    if c.b.md = 1#5 then c.fixed s (c.toSD (c.special s 0)) else c.fixed s (c.toD fun l => c.special s l) := fun _ => rfl

end

/-- The control registers by their numbers (R116). -/
theorem csr_eq (c : Issue) (sel : Nat) : c.csr sel =
    if sel = 0 then c.x.wcw ||| (BitVec.ofNat 32 c.x.gmap.length <<< 16)
    else if sel = 1 then BitVec.ofNat 32 c.x.ts else if sel = 2 then c.x.lanesIn .live else if sel = 3 then c.act
    else if sel = 4 then c.x.lanesIn .parked else c.x.lanesIn .exited := by
  rcases sel with _ | _ | _ | _ | _ | n <;> rfl

theorem clusterOfWave_eq (w : Nat) : clusterOfWave w = w / 256 := Nat.div_div_eq_div_mul ..

/-- The special registers by their numbers (R117). -/
theorem special_eq (c : Issue) (s : State) (l : Nat) :
    let sel := c.b.litN
    let blk := s.block c.x.blk
    c.special s l =
      if sel = 0 then l else if sel = 1 then (c.x.lane l).ep else if sel = 2 then c.w % 64 else if sel = 3 then c.w / 64
      else if sel = 4 then c.w / 256 else if sel = 5 then s.ctxNo c.x else if sel = 6 then (blk.map Block.depth).getD 0
      else if sel = 7 then (blk.map Block.prio).getD 0 else if sel = 8 then s.clock - mgetD s.co.start (c.w / 64) 0
      else if sel = 9 then s.timeNs else (blk.map Block.gen).getD 0 := by
  rw [Issue.special, clusterOfWave_eq]
  generalize c.b.litN = n
  rcases n with _ | _ | _ | _ | _ | _ | _ | _ | _ | _ | n <;> rfl

/-- BKPT where the debug unit of its cluster is disabled is a trap alone (R115). -/
theorem bkpt_traps {x : Body} {s : State} {c : Issue} (hs : Starts (.bkpt x) s c) (hden : (s.dbg (clusterOfWave c.w)).den = false) :
    Traps (.bkpt x) s c { cause := .breakpoint, sub := c.sB s, mask := c.con } 0#5 := by
  refine (issuesAs_bkpt x).traps hs ?_
  simp only [hden, Bool.false_and]
  rfl

/-- Settles O27: each row is the issue of its effect, with the registers as `csr_eq` and `special_eq` read them. -/
theorem systemRegisters : Obligations.SystemRegisters := by
  unfold Obligations.SystemRegisters
  intro x s c sel blk special
  have hspecial : c.special s = special := funext (special_eq c s)
  refine ⟨fun hs => (issuesAs_trap x).traps hs rfl, fun hs hden => bkpt_traps hs hden,
    fun hs => (issuesAs_rcsr x).fixed hs (by rw [csr_eq]), fun hs => (issuesAs_wcsr x).does hs rfl,
    fun hs h => (issuesAs_srd x).fixed hs ?_, fun hs h => (issuesAs_srd x).fixed hs ?_⟩
  · rw [if_neg h, hspecial]
    rfl
  · rw [if_pos h, hspecial]
    rfl

end Sys2Proof.Machine

/-! # Accesses whose check fails (R98, R177, R260) -/

namespace Sys2Proof.Machine

theorem global_error {s s1 : State} {c : Issue} {a : Ask} {qs : List Want} {t : Trap}
    (h : s.checkGlobal (coreOf c.w) (s.ctxNo c.x) c.x.blk a qs = (s1, .error t))
    (k : State → List Piece → Eff) : c.global s a qs k = c.fault s1 t := by
  rw [Issue.global, h]

/-- The accesses of this rule do not clear DISCARDABLE (R268), and each is the issue of the checks that the rule gives. -/
theorem exists_global_of_accessRule {i : Instr} {c : Issue} {a : Ask} {ty n : Nat} {scope : Option Nat} {isW : Bool}
    (h : accessRule i c = some (a, ty, n, scope, isW)) :
    endsDiscard i.core = false
      ∧ ∃ eff, IssuesAs i eff ∧ ∀ s, ∃ k, eff c s = c.global s a (accesses s c n) k := by
  unfold accessRule at h
  split at h
  case h_1 | h_2 | h_3 | h_4 =>
    cases h
    exact ⟨rfl, _, fun _ => rfl, fun _ => ⟨_, rfl⟩⟩
  case h_5 | h_6 =>
    split at h
    next => cases h
    next hw =>
      cases h
      exact ⟨rfl, _, fun _ => rfl, fun _ => ⟨_, if_neg hw⟩⟩
  case h_7 => cases h

/-- Settles O31: a failing check makes the effect `Issue.fault`, which tells the two outcomes apart. -/
theorem accessFailures : Obligations.AccessFailures := by
  unfold Obligations.AccessFailures
  intro i s s1 c a ty n scope isW t hs hrule hcheck
  obtain ⟨hd, eff, hi, heff⟩ := exists_global_of_accessRule hrule
  obtain ⟨k, hk⟩ := heff s
  have hfault : eff c s = c.fault s1 t := hk.trans (global_error hcheck k)
  obtain ⟨-, -, -, hci, -⟩ := issuer_spec hs.1
  refine ⟨fun hnot => hi.traps hs ?_, fun ⟨hcause, hskid⟩ hnone => hi.does hs ?_⟩
  · rw [hfault, Issue.fault, if_neg fun ⟨hcause, hskid, _⟩ => hnot ⟨hcause, hskid⟩]
  · rw [hfault, Issue.fault, if_pos ⟨hcause, hskid, by simpa using hnone⟩, hci, hd]
    rfl

end Sys2Proof.Machine

/-! # Binds, waves and blocks (R97, R265 to R267, R280, R285, R345 to R348) -/

namespace Sys2Proof.Machine

/-! ## The end of a wave with nothing pending -/

section
variable {s : State} {w : Nat} {x : Wave}

/-- A wave with nothing pending has no access left to perform. -/
theorem settleWave_of_idle (hm : mrising s.waves = true) (hw : s.wave w = some x) (hp : x.pend = []) : s.settleWave w = s := by
  have hnone (f : Nat → Wave → Pend → Bool) (hf : ∀ v y p, f v y p = (v == w)) : s.inIssueOrder f = [] := by
    have hmoves : (s.waves.flatMap fun a => (a.2.pend.filter (f a.1 a.2)).map fun p => (a.1, p.stamp)) = [] := by
      rw [List.flatMap_eq_nil_iff]
      rintro ⟨v, y⟩ hmem
      by_cases hv : v = w
      · subst hv
        obtain rfl : x = y := Option.some.inj (hw.symm.trans (mget_of_mem hm hmem))
        simp [hp]
      · simp [hf, hv]
    rw [State.inIssueOrder, hmoves, List.foldl_nil]
  have hlast : x.lastTblset = none := by simp [Wave.lastTblset, hp]
  rw [State.settleWave, hw]
  dsimp only
  rw [State.settle, hnone, List.foldl_nil]
  intro v y p
  simp [hlast]

/-- The end of a wave with nothing pending removes it and nothing else (R97). -/
theorem endWave_of_idle (hm : mrising s.waves = true) (hw : s.wave w = some x) (hp : x.pend = []) (hstep : x.stepping = false) :
    s.endWave w x = { s with waves := mdel s.waves w } := by
  rw [State.endWave, settleWave_of_idle hm hw hp, hw, Option.getD_some, hp, hstep]
  rfl

end

/-! ## Bind commands, by the state of the bind (R345, R346) -/

section
variable {s : State} {bind : Nat} {b : Bind} (h : s.bind bind = some b)
include h

theorem cmdRun_eq : exec (.cmdRun bind) s =
    if b.state = 0 ∨ b.state = 2 ∨ b.state = 5 then .next (s.putBind bind (b.ready s.timeNs)) else .next s := by
  dsimp only [exec, execCmdRun]
  rw [h, Option.getD_some]

theorem cmdPause_eq : exec (.cmdPause bind) s = if b.state = 1 then .next (s.putBind bind { b with state := 2 }) else .next s := by
  dsimp only [exec, execCmdPause]
  rw [h, Option.getD_some]

theorem cmdRestore_eq : exec (.cmdRestore bind) s =
    if b.state = 4 then .next (s.putBind bind (b.ready s.timeNs)) else .next s := by
  dsimp only [exec, execCmdRestore]
  rw [h, Option.getD_some]

theorem cmdTeardown_eq : exec (.cmdTeardown bind) s = if b.state = 0 then .next s else .next (s.abortBind bind) := by
  dsimp only [exec, execCmdTeardown]
  rw [h, Option.getD_some]

theorem cmdSave_eq : exec (.cmdSave bind) s =
    if b.state = 1 ∨ b.state = 2 then .next ((s.readSelect b).1.save bind (s.readSelect b).2) else .next s := by
  dsimp only [exec, execCmdSave]
  rw [h, Option.getD_some]

theorem priorityAgingStep_eq : exec (.priorityAgingStep bind) s =
    if b.agingDue s.timeNs = true then .next (s.putBind bind { b with aged := b.aged + 1 }) else .next s := by
  dsimp only [exec, execPriorityAgingStep]
  rw [h]

end

/-! ## Waves, blocks and images -/

section
variable {s : State} {w blk : Nat}

theorem waveRetire_eq {x : Wave} (h : s.wave w = some x) :
    exec (.waveRetire w) s = if s.waveDone w x = true then .next (s.endWave w x) else .next s := by
  dsimp only [exec, execWaveRetire]
  rw [h]

theorem blockRetire_eq {t : Block} (h : s.block blk = some t) (hw : ∀ p ∈ s.waves, p.2.blk ≠ blk) (hc : s.copiesLeft blk t = false)
    (hs : t.saving = false) : exec (.blockRetire blk) s = .next (s.retireBlock blk (if t.killed then 2 else 1)) := by
  have hnone : (s.waves.any fun p => p.2.blk == blk) = false := by simpa using hw
  dsimp only [exec, execBlockRetire]
  rw [h]
  dsimp only
  rw [hnone, hc, hs]
  rfl

theorem saveImageWrite_eq {t : Block} (h : s.block blk = some t) (hs : t.saving = true)
    (hc : s.clusterStopped (clusterOf (t.cores.headD 0)) = false) (hq : s.quiet blk t = true) :
    let u := t.cores.foldl (fun s c => s.releaseEager c 4) (s.drainGrids blk)
    exec (.saveImageWrite blk) s = .next (({ u.unplace blk with
      wk := { (u.unplace blk).wk with saved := mput (u.unplace blk).wk.saved blk (u.imageOf blk t) } } : State).saveEnds t.bind) := by
  dsimp only [exec, execSaveImageWrite]
  rw [h]
  dsimp only
  rw [hs, hc, hq]
  rfl

theorem blockRestore_eq {img cluster bind : Nat} {y : Bind} {v : Saved} {p : Spot}
    (h : s.turn cluster = some (bind, y, .saved img v, p)) :
    exec (.blockRestore img cluster) s = .next ((s.restore bind img cluster v p).bindStarted bind cluster y.eff y.ctx) := by
  dsimp only [exec, execBlockRestore]
  rw [h]
  exact if_neg (not_not_intro rfl)

/-- The first candidate of a cluster that cannot be placed, where no block of the cluster is being saved, has its victim named in SELECT and
saved (R348). -/
theorem preemption_eq {bind id : Nat} {b : Bind} {t : Block} {rest : List (Nat × Bind)} {s1 s2 : State} {sel : Option Nat}
    (h : s.bind bind = some b) (hfirst : s.candidates (b.cluster bind) = (bind, b) :: rest)
    (hspot : s.spotOf (b.cluster bind) (bind, b) = none)
    (hsaving : ∀ p ∈ s.wk.blocks, ¬(clusterOf (p.2.cores.headD 0) = b.cluster bind ∧ p.2.saving = true))
    (hvictim : s.victim (b.cluster bind) bind b.eff = some (id, t)) :
    let slot := ((s.waves.find? fun w => w.2.blk == id && w.2.widx == 0).map fun w => slotOf w.1).getD 0
    let vb := (s.bind t.bind).getD {}
    s.devWrite vb.ctx vb.save (leBytesOf 8 (2 ^ 63 + t.cores.headD 0 * 2 ^ 8 + slot)) = (s1, true) → s1.readSelect vb = (s2, sel) →
    exec (.preemption bind) s = .next (s2.save t.bind sel) := by
  intro slot vb hwrite hread
  have hnone : (s.wk.blocks.any fun p => clusterOf (p.2.cores.headD 0) == b.cluster bind && p.2.saving) = false := by
    simpa using hsaving
  dsimp only [exec, execPreemption]
  rw [h]
  dsimp only
  rw [hfirst]
  dsimp only
  rw [hspot, hnone, if_neg (by simp), hvictim]
  dsimp only
  rw [hwrite]
  dsimp only
  rw [hread]

end

/-- Settles O57: each event by the equation of its own. -/
theorem schedulingEvents : Obligations.SchedulingEvents := by
  unfold Obligations.SchedulingEvents
  intro s bind w blk img cluster b
  refine ⟨fun h => ⟨fun hb => ?_, fun hb => ?_, fun hb => ?_, fun hb => ?_, fun hb => ?_, fun hb => ?_, fun hb s1 sel hsel => ?_, fun hb => ?_⟩,
    fun code => rfl, fun x hm hw hd => ⟨?_, fun hp hstep => ?_⟩, fun x hw hd => ?_, fun t h hw hc hs => blockRetire_eq h hw hc hs,
    fun t h hs hc hq => ⟨_, saveImageWrite_eq h hs hc hq, rfl⟩, fun y v p h => blockRestore_eq h,
    fun id t s1 s2 sel rest => preemption_eq⟩
  · rw [cmdRun_eq h, if_pos hb]
  · rw [cmdRun_eq h, if_neg (by omega)]
  · rw [cmdPause_eq h, if_pos hb]
  · rw [cmdRestore_eq h, if_pos hb]
  · rw [cmdTeardown_eq h, if_neg hb]
  · rw [cmdTeardown_eq h, if_pos hb]
  · rw [cmdSave_eq h, if_pos hb, hsel]
  · rw [priorityAgingStep_eq h, if_pos hb]
  · rw [waveRetire_eq hw, if_pos hd]
  · rw [endWave_of_idle hm hw hp hstep]
    exact ⟨mget_mdel_same hm w, fun v hv => mget_mdel_other _ hv, rfl, rfl, rfl⟩
  · rw [waveRetire_eq hw, if_neg (by simp [hd])]

end Sys2Proof.Machine

/-! # Carries and compares (R102, R104, R105) -/

namespace Sys2Proof.Machine

/-- The condition codes of the model are those of the statement. -/
theorem relHolds_eq (cond : Nat) (a b : Int) : relHolds cond a b = icmpHolds cond a b := by
  rcases cond with _ | _ | _ | _ | _ | n <;> rfl

section
variable (x : Body)

theorem issuesAs_iaddc : IssuesAs (.iaddc x) (intEff .iaddc) := fun _ => rfl
theorem issuesAs_iaddcU : IssuesAs (.iaddcU x) (intEffU .iaddc) := fun _ => rfl
theorem issuesAs_icmp : IssuesAs (.icmp x) (intEff .icmp) := fun _ => rfl
theorem issuesAs_icmpU : IssuesAs (.icmpU x) (intEffU .icmp) := fun _ => rfl

end

/-- A compare's word is all ones or 0, so it is not 0 exactly where the condition holds. -/
theorem ones_or_zero_ne_zero (b : Bool) : ((if b = true then 2 ^ 32 - 1 else 0) != 0) = b := by
  cases b <;> rfl

theorem intEff_icmp (c : Issue) (s : State) :
    intEff .icmp c s = c.fixed s (bitsOfD c fun l => icmpHolds c.b.hi (valT c.b (c.regA s l)) (valT c.b (srcB c s l))) := by
  simp only [← relHolds_eq]
  exact congrArg (c.fixed s) (List.map_congr_left fun l _ => congrArg (RegWrite.k _ l) (ones_or_zero_ne_zero _))

theorem intEffU_icmp (c : Issue) (s : State) :
    intEffU .icmp c s = c.fixed s (wordsOfD c
      (if icmpHolds c.b.hi (valT c.b (c.regA s 32)) (valT c.b (srcB c s 32)) then 2 ^ 32 - 1 else 0)) := by
  rw [← relHolds_eq]
  rfl

theorem intEffU_iaddc (c : Issue) (s : State) :
    let sum := c.regA s 32 + srcB c s 32 + ((c.k s c.b.hi).getLsbD ((lanesOf c.con).headD 0)).toNat
    intEffU .iaddc c s = c.fixed s (wordsOfD c (sum % 2 ^ c.b.bitsT)
      ++ kwriteAll c.b.hi (if 2 ^ c.b.bitsT ≤ sum then BitVec.allOnes 32 else 0#32)) := by
  intro sum
  rw [← ite_congr (decide_eq_true_eq (p := 2 ^ c.b.bitsT ≤ sum)) (fun _ => rfl) fun _ => rfl]
  rfl

/-- Settles O14: each row is the issue of its effect. -/
theorem carryAndCompare : Obligations.CarryAndCompare := by
  unfold Obligations.CarryAndCompare
  intro x s c
  exact ⟨fun hs => (issuesAs_iaddc x).fixed hs rfl, fun hs => (issuesAs_iaddcU x).fixed hs (intEffU_iaddc c s),
    fun hs => (issuesAs_icmp x).fixed hs (intEff_icmp c s), fun hs => (issuesAs_icmpU x).fixed hs (intEffU_icmp c s)⟩

end Sys2Proof.Machine

/-! # Bits of integer results (R102, R103) -/

namespace Sys2Proof.Machine

theorem bitRev_lt (w a : Nat) : bitRev w a < 2 ^ w := by
  induction w generalizing a with
  | zero => simp [bitRev]
  | succ w ih =>
    have hrest := ih (a / 2)
    rcases Nat.mod_two_eq_zero_or_one a with h | h <;> rw [bitRev, h] <;> omega

/-- BREV puts bit 0 on top of the reversal of the others. -/
theorem bitRev_succ (w a : Nat) : bitRev (w + 1) a = 2 ^ w * (a % 2) + bitRev w (a / 2) := by
  rw [bitRev, Nat.mul_comm]

theorem testBit_bitRev {w i : Nat} (a : Nat) (h : i < w) : (bitRev w a).testBit i = a.testBit (w - 1 - i) := by
  induction w generalizing a with
  | zero => omega
  | succ w ih =>
    rw [bitRev_succ, Nat.testBit_two_pow_mul_add _ (bitRev_lt w (a / 2))]
    split
    next hi =>
      rw [ih _ hi, Nat.testBit_div_two]
      congr 1
      omega
    next hi =>
      obtain rfl : i = w := by omega
      simp [Nat.testBit_zero]

theorem popCount_succ_top (w a : Nat) : popCount (w + 1) a = popCount w a + (a.testBit w).toNat := by
  induction w generalizing a with
  | zero => rcases Nat.mod_two_eq_zero_or_one a with h | h <;> simp [popCount, h]
  | succ w ih =>
    rw [popCount, ih, popCount, Nat.testBit_div_two]
    omega

/-- CLZ of a `w`-bit number leaves its length: it is below 2 to that, and at least 2 to one less where it is not 0. -/
theorem clz_spec {w a : Nat} (h : a < 2 ^ w) : clz w a ≤ w ∧ a < 2 ^ (w - clz w a) ∧ (a ≠ 0 → 2 ^ (w - 1 - clz w a) ≤ a) := by
  by_cases ha : a = 0
  · simp [clz, ha]
  · have hlog : a.log2 < w := (Nat.log2_lt ha).2 h
    have htop : w - (w - 1 - a.log2) = a.log2 + 1 := by omega
    have hlow : w - 1 - (w - 1 - a.log2) = a.log2 := by omega
    rw [clz, if_neg ha, htop, hlow]
    exact ⟨by omega, Nat.lt_log2_self, fun _ => Nat.log2_self_le ha⟩

theorem testBit_andn {w a b : Nat} (i : Nat) (ha : a < 2 ^ w) (hb : b < 2 ^ w) :
    (a &&& (2 ^ w - 1 - b)).testBit i = (a.testBit i && !b.testBit i) := by
  rw [Nat.testBit_and, Nat.sub_sub, Nat.add_comm 1 b, Nat.testBit_two_pow_sub_succ hb]
  by_cases hi : i < w
  · simp [hi]
  · have : a.testBit i = false := Nat.testBit_lt_two_pow (ha.trans_le (Nat.pow_le_pow_right (by omega) (by omega)))
    simp [this]

/-- A signed or unsigned reading of a number below 2^w is the number, modulo 2^w. -/
theorem intOf_emod {w a : Nat} (signed : Bool) (h : a < 2 ^ w) : intOf w signed a % (2 ^ w : Int) = (a : Int) % 2 ^ w := by
  rw [intOf, Nat.mod_eq_of_lt h]
  split
  · exact Int.sub_emod_right ..
  · rfl

theorem wrapT_add {x : Body} {a b : Nat} (hsat : x.hi % 2 = 0) (ha : a < 2 ^ x.bitsT) (hb : b < 2 ^ x.bitsT) :
    wrapT x (valT x a + valT x b) = (a + b) % 2 ^ x.bitsT := by
  have hmod : (valT x a + valT x b) % (2 ^ x.bitsT : Int) = ((a + b) % 2 ^ x.bitsT : Nat) := by
    rw [Int.add_emod, valT, valT, intOf_emod _ ha, intOf_emod _ hb, ← Int.add_emod]
    push_cast
    rfl
  rw [wrapT, if_neg (by omega), lowBits, hmod, Int.toNat_natCast]

/-- Settles O15: a law for each operation. -/
theorem integerBitLaws : Obligations.IntegerBitLaws := by
  unfold Obligations.IntegerBitLaws
  exact ⟨fun w a i h => testBit_bitRev a h, fun w a h => clz_spec h, popCount_succ_top,
    fun w a b i ha hb => testBit_andn i ha hb,    fun x a b hsat ha hb => wrapT_add hsat ha hb⟩

end Sys2Proof.Machine

/-! # Predicate operations (R107, R108) -/

namespace Sys2Proof.Machine

section
variable (x : Body)

theorem issuesAs_kand : IssuesAs (.kand x) (predEff fun a b => a && b) := fun _ => rfl
theorem issuesAs_kor : IssuesAs (.kor x) (predEff fun a b => a || b) := fun _ => rfl
theorem issuesAs_kxor : IssuesAs (.kxor x) (predEff fun a b => xor a b) := fun _ => rfl
theorem issuesAs_knot : IssuesAs (.knot x) (predEff fun a _ => !a) := fun _ => rfl
theorem issuesAs_kmov : IssuesAs (.kmov x) (predEff fun a _ => a) := fun _ => rfl

theorem issuesAs_kmovKS : IssuesAs (.kmovKS x) fun c s =>
    c.fixed s (bitsOfD c fun l => (c.s s c.b.a.toNat).getLsbD l) := fun _ => rfl

theorem issuesAs_kmovSK : IssuesAs (.kmovSK x) fun c s => c.fixed s [.s c.b.d.toNat (c.k s c.b.a.toNat)] := fun _ => rfl

end

/-- A predicate operation whose bits are those of an operation on whole predicates. -/
theorem predEff_eq {f : Bool → Bool → Bool} {g : Word → Word → Nat → Bool}
    (h : ∀ a b l, g a b l = f (a.getLsbD l) (b.getLsbD l)) (c : Issue) (s : State) :
    predEff f c s = c.fixed s (bitsOfD c fun l => g (c.k s c.b.a.toNat) (c.k s c.b.b.toNat) l) := by
  simp only [h]
  rfl

/-- Settles O16: each row is the issue of its effect. -/
theorem predicateOperations : Obligations.PredicateOperations := by
  unfold Obligations.PredicateOperations
  intro x s c a b
  exact ⟨fun hs => (issuesAs_kand x).fixed hs (predEff_eq (fun _ _ _ => BitVec.getLsbD_and) c s),
    fun hs => (issuesAs_kor x).fixed hs (predEff_eq (fun _ _ _ => BitVec.getLsbD_or) c s),
    fun hs => (issuesAs_kxor x).fixed hs (predEff_eq (fun _ _ _ => BitVec.getLsbD_xor) c s),
    fun hs => (issuesAs_knot x).fixed hs rfl, fun hs => (issuesAs_kmov x).fixed hs rfl, fun hs => (issuesAs_kmovKS x).fixed hs rfl,
    fun hs => (issuesAs_kmovSK x).fixed hs rfl⟩

end Sys2Proof.Machine

/-! # QUOTA (R93, R118) -/

namespace Sys2Proof.Machine

@[simp] theorem zeroGranules_waves (s : State) (row : Nat) (gs : List Nat) : (s.zeroGranules row gs).waves = s.waves := by
  unfold State.zeroGranules
  induction gs generalizing s with
  | nil => rfl
  | cons g gs ih => exact ih _

/-- The wave that a .give names: one of the block on the row. -/
def Issue.giveTarget (c : Issue) (s : State) : Option (Nat × Wave) :=
  s.waves.find? fun p => p.2.blk == c.x.blk && p.2.widx == (c.s s c.b.a.toNat).toNat && deviceRow p.1 == deviceRow c.w

/-- The status of a .give of some granules, 0 where they move. -/
def Issue.giveStatus (c : Issue) (s : State) (n : Nat) : Nat :=
  match c.giveTarget s with
  | none => 1
  | some (t, y) =>
    if t = c.w then 1 else if (s.gridOfWave t).isSome = true ∨ y.run = .saving then 4 else if c.x.gmap.length < n + 1 then 3
    else if 32 < y.gmap.length + s.onWay y.uid + n then 2 else 0

/-- The issuer has given up the top granules of its map. -/
def Issue.shrunk (c : Issue) (s : State) (n : Nat) : State :=
  s.modWave c.w fun y => { y with gmap := y.gmap.take (y.gmap.length - n) }

/-- The issuer has the lowest granules of free quota on top of its map. -/
def Issue.grown (c : Issue) (s : State) (n : Nat) : State :=
  let gs := (s.freeGranules (deviceRow c.w)).take n
  (s.zeroGranules (deviceRow c.w) gs).modWave c.w fun y => { y with gmap := y.gmap ++ gs }

section
variable (c : Issue) (s : State)

/-! ## The status and the move, by form -/

theorem quota_zero (op : Nat) : c.quota s op 0 = (0, s, none) := rfl

variable {n : Nat} (hn : 0 < n)
include hn

theorem quota_give : c.quota s 0 n =
    if c.giveStatus s n = 0 then
      (0, c.shrunk s n, (c.giveTarget s).map fun p => (p.2.uid, c.x.gmap.drop (c.x.gmap.length - n)))
    else (c.giveStatus s n, s, none) := by
  rw [Issue.quota, if_neg hn.ne', Issue.giveStatus, Issue.giveTarget]
  dsimp only [Wave.alloc]
  generalize List.find? _ s.waves = target
  rcases target with _ | ⟨t, y⟩
  · rfl
  · dsimp only
    split_ifs <;> simp_all [Issue.shrunk]

theorem quota_rel : c.quota s 1 n = if c.x.gmap.length < n + 1 then (3, s, none) else (0, c.shrunk s n, none) :=
  if_neg hn.ne'

theorem quota_take : c.quota s 2 n =
    if c.x.gmap.length + s.onWay c.x.uid + n > 32 ∨ (s.freeGranules (deviceRow c.w)).length < n then (2, s, none)
    else (0, c.grown s n, none) :=
  if_neg hn.ne'

end

/-! ## The effect -/

/-- What a QUOTA leaves pending: its status with the wave's ALLOC, and for .give the target's number and its granules. -/
def Issue.quotaWork (c : Issue) (status alloc : Nat) (t : Option (Nat × List Nat)) : Work :=
  .quota (status * 2 ^ 28 + alloc) (t.map Prod.fst) ((t.map Prod.snd).getD []) { cls := 1, base := c.b.d.toNat, cnt := 1 }

section
variable {c : Issue} {s : State}

theorem quotaEff_eq {op status : Nat} {s1 : State} {t : Option (Nat × List Nat)} {y : Wave}
    (h : c.quota s op (c.sB s) = (status, s1, t)) (hw : s1.wave c.w = some y) :
    quotaEff op c s = .go { s := s1, work := some (c.quotaWork status y.gmap.length t) } := by
  rw [quotaEff, h]
  dsimp only
  rw [hw]
  rfl

theorem wave_of_starts {i : Instr} (h : Starts i s c) : s.wave c.w = some c.x := by
  obtain ⟨hw, hx, -⟩ := issuer_spec h.1
  rw [hw, hx]

theorem issuesAs_quotaGive (x : Body) : IssuesAs (.quotaGive x) (quotaEff 0) := fun _ => rfl
theorem issuesAs_quotaRel (x : Body) : IssuesAs (.quotaRel x) (quotaEff 1) := fun _ => rfl
theorem issuesAs_quotaTake (x : Body) : IssuesAs (.quotaTake x) (quotaEff 2) := fun _ => rfl

/-- A form that moves nothing answers its status and the ALLOC as it stands. -/
theorem IssuesAs.quota_stays {i : Instr} {op status : Nat} (hi : IssuesAs i (quotaEff op)) (hs : Starts i s c)
    (h : c.quota s op (c.sB s) = (status, s, none)) :
    Does i s c { s := s, work := some (c.quotaWork status c.x.gmap.length none) } :=
  hi.does hs (quotaEff_eq h (wave_of_starts hs))

/-- A form of the issuer's granules answers 0 and the ALLOC left. -/
theorem IssuesAs.quota_shrinks {i : Instr} {op : Nat} {t : Option (Nat × List Nat)} (hi : IssuesAs i (quotaEff op)) (hs : Starts i s c)
    (h : c.quota s op (c.sB s) = (0, c.shrunk s (c.sB s), t)) :
    Does i s c { s := c.shrunk s (c.sB s), work := some (c.quotaWork 0 (c.x.gmap.length - c.sB s) t) } := by
  refine hi.does hs ?_
  rw [quotaEff_eq h (mget_mmod_same (wave_of_starts hs) _)]
  simp

theorem IssuesAs.quota_grows {i : Instr} {op : Nat} (hi : IssuesAs i (quotaEff op)) (hs : Starts i s c)
    (h : c.quota s op (c.sB s) = (0, c.grown s (c.sB s), none)) (hfree : c.sB s ≤ (s.freeGranules (deviceRow c.w)).length) :
    Does i s c { s := c.grown s (c.sB s), work := some (c.quotaWork 0 (c.x.gmap.length + c.sB s) none) } := by
  have hw : (s.zeroGranules (deviceRow c.w) ((s.freeGranules (deviceRow c.w)).take (c.sB s))).wave c.w = some c.x := by
    rw [State.wave, zeroGranules_waves]
    exact wave_of_starts hs
  refine hi.does hs ?_
  rw [quotaEff_eq h (mget_mmod_same hw _), List.length_append, List.length_take, Nat.min_eq_left hfree]

theorem giveStatus_eq_zero {t n : Nat} {y : Wave} (htarget : c.giveTarget s = some (t, y)) (ht : t ≠ c.w)
    (hgrid : s.gridOfWave t = none) (hrun : y.run ≠ .saving) (hkeep : n + 1 ≤ c.x.gmap.length)
    (hroom : y.gmap.length + s.onWay y.uid + n ≤ 32) : c.giveStatus s n = 0 := by
  simp only [Issue.giveStatus, htarget]
  rw [if_neg ht, if_neg (by simp [hgrid, hrun]), if_neg (by omega), if_neg (by omega)]

end

/-- Settles O28: the status and the move of each form, and what the effect answers for them. -/
theorem quotaMoves : Obligations.QuotaMoves := by
  unfold Obligations.QuotaMoves
  intro x s c
  dsimp only
  have hgive := issuesAs_quotaGive x
  have hrel := issuesAs_quotaRel x
  have htake := issuesAs_quotaTake x
  have hnothing (op : Nat) (hn : c.sB s = 0) : c.quota s op (c.sB s) = (0, s, none) := by rw [hn, quota_zero]
  refine ⟨?_, ?_, fun hs hn href => hgive.quota_stays hs ((quota_give c s hn).trans (if_neg href)),
    fun hs hn => hrel.quota_stays hs (hnothing 1 hn),
    fun hs hn hfew => hrel.quota_stays hs ((quota_rel c s hn).trans (if_pos hfew)),
    fun hs hn hkeep => hrel.quota_shrinks (t := none) hs ((quota_rel c s hn).trans (if_neg (by omega))),
    fun hs hn hno => htake.quota_stays hs ((quota_take c s hn).trans (if_pos hno)),
    fun hs hn hroom hfree => htake.quota_grows hs ((quota_take c s hn).trans (if_neg (by omega))) hfree,
    fun t y hs hn htarget ht hgrid hrun hkeep hroom => ?_⟩
  · rintro i (rfl | rfl | rfl) hs
    · exact ⟨_, hgive.does hs rfl⟩
    · exact ⟨_, hrel.does hs rfl⟩
    · exact ⟨_, htake.does hs rfl⟩
  · rintro i (rfl | rfl) hs hn
    · exact hgive.quota_stays hs (hnothing 0 hn)
    · exact htake.quota_stays hs (hnothing 2 hn)
  · have hstatus := giveStatus_eq_zero htarget ht hgrid hrun hkeep hroom
    have hmoves := (quota_give c s hn).trans (if_pos hstatus)
    rw [show c.giveTarget s = some (t, y) from htarget] at hmoves
    exact hgive.quota_shrinks (t := some (y.uid, c.x.gmap.drop (c.x.gmap.length - c.sB s))) hs hmoves

end Sys2Proof.Machine

/-! # ICINV (R119, R167) -/

namespace Sys2Proof.Machine

section
variable (x : Body)

theorem issuesAs_icinv : IssuesAs (.icinv x) fun c s =>
    let lo := c.sGroup s c.b.a.toNat 2
    let len := (c.s s c.b.b.toNat).toNat
    if lo + len > 2 ^ 64 then .trap { cause := .illegalOperand, mask := c.act }
    else .go { s := s, work := some (.icinv false lo len), hold := true } := fun _ => rfl

theorem issuesAs_icinvAll : IssuesAs (.icinvAll x) fun _ s => .go { s := s, work := some (.icinv true 0 0), hold := true } :=
  fun _ => rfl

end

/-! ## The length of a fetched instruction (R47, R58) -/

theorem length_codeRun_le (held : Nat → Option Byte) (n va : Nat) : (codeRun held n va).length ≤ n := by
  induction n generalizing va with
  | zero => exact Nat.le_refl _
  | succ n ih =>
    rw [codeRun]
    split
    · exact Nat.succ_le_succ (ih _)
    · exact Nat.zero_le _

theorem fetchLen_le (bs : List Byte) : fetchLen bs ≤ spanMax := by
  obtain ⟨-, hparcels⟩ := parcelsLen_bounds (leNat (bs.take 2))
  unfold fetchLen spanMax
  dsimp only
  split_ifs <;> omega

/-- A fetch that ends has fetched no more than the bytes it began with, or has grown to at most the longest instruction. -/
theorem fetchTry_length {held : Nat → Option Byte} {pc fuel : Nat} {bs r : List Byte} (h : fetchTry held pc fuel bs = .ok r) :
    r = bs ∨ bs.length < r.length ∧ r.length ≤ spanMax := by
  induction fuel generalizing bs with
  | zero =>
    cases h
    exact .inl rfl
  | succ fuel ih =>
    simp only [fetchTry] at h
    split at h
    next => cases h; exact .inl rfl
    next hmore =>
      split at h
      next => cases h
      next hall =>
        have hle := length_codeRun_le held (fetchLen bs) pc
        have hmax := fetchLen_le bs
        right
        rcases ih h with rfl | ⟨hlt, hspan⟩ <;> omega

theorem fetchTry_length_bounds {held : Nat → Option Byte} {pc fuel : Nat} {r : List Byte}
    (h : fetchTry held pc (fuel + 1) [] = .ok r) : 0 < r.length ∧ r.length ≤ spanMax := by
  rcases fetchTry_length h with rfl | hgrown
  · simp only [fetchTry] at h
    split at h
    next hshort => simp [fetchLen] at hshort
    next =>
      split at h
      next => cases h
      next hall =>
        have hfirst : fetchLen [] = 2 := rfl
        rcases fetchTry_length h with hnil | ⟨hlt, -⟩
        · rw [← hnil, hfirst] at hall
          simp at hall
        · simp at hlt
  · exact hgrown

/-! ## What is selected -/

theorem runsMeet_iff {a n b m : Nat} : runsMeet a n b m = true ↔ a < b + m ∧ b < a + n ∧ n ≠ 0 ∧ m ≠ 0 := by
  simp [runsMeet, and_assoc]

/-- An instruction that is held, with a byte of the range and a byte of the line, is found: it begins no further before either than
the longest instruction is long. -/
theorem reachedBy_of_fetch {held : Nat → Option Byte} {va n lo len a : Nat} {bs : List Byte} (heven : a % 2 = 0)
    (hf : fetchTry held a 4 [] = .ok bs) (hline : runsMeet a bs.length va n = true) (hrange : runsMeet a bs.length lo len = true) :
    reachedBy held va n lo len = true := by
  obtain ⟨-, hspan⟩ := fetchTry_length_bounds hf
  obtain ⟨hline1, hline2, -⟩ := runsMeet_iff.mp hline
  obtain ⟨hrange1, hrange2, -⟩ := runsMeet_iff.mp hrange
  rw [reachedBy, List.any_eq_true]
  generalize spanMax = span at hspan ⊢
  generalize hfrom : (max (va - span) (lo - span)) / 2 * 2 = from'
  refine ⟨(a - from') / 2, List.mem_range.mpr (by omega), ?_⟩
  have hat : from' + 2 * ((a - from') / 2) = a := by omega
  simp only [hat, hf, hline, hrange, Bool.and_self]

/-- What an ICINV of a wave drops, of lines of `n` bytes. -/
def State.icinvDrops (s : State) (w : Nat) (x : Wave) (all : Bool) (lo len : Nat) (core : Nat) (l : ILine) (n : Nat) : Bool :=
  core == coreOf w && s.codeSelected core l n (s.ctxNo x) all lo len

section
variable {s : State} {w lo len n core : Nat} {x : Wave} {all : Bool} {l : ILine}

theorem icinvDrops_of_meets (hc : core = coreOf w) (hctx : l.ctx = s.ctxNo x) (h : all = true ∨ runsMeet l.va n lo len = true) :
    s.icinvDrops w x all lo len core l n = true := by
  rcases h with h | h <;> simp [State.icinvDrops, State.codeSelected, hc, hctx, h]

theorem icinvDrops_of_reached (hc : core = coreOf w) (hctx : l.ctx = s.ctxNo x) (hlen : len ≠ 0)
    (h : reachedBy (s.codeByte (coreOf w) (s.ctxNo x) l.gen) l.va n lo len = true) : s.icinvDrops w x all lo len core l n = true := by
  simp [State.icinvDrops, State.codeSelected, hc, hctx, hlen, h]

/-- What an ICINV of the context keeps has no byte of its range. -/
theorem of_icinvDrops_eq_false (hc : core = coreOf w) (hctx : l.ctx = s.ctxNo x) (hn : n ≠ 0)
    (h : s.icinvDrops w x all lo len core l n = false) : all = false ∧ ¬(len ≠ 0 ∧ l.va < lo + len ∧ lo < l.va + n) := by
  constructor
  · by_contra hall
    simp [icinvDrops_of_meets hc hctx (.inl (Bool.eq_true_of_not_eq_false hall))] at h
  · rintro ⟨hlen, h1, h2⟩
    simp [icinvDrops_of_meets hc hctx (.inr (runsMeet_iff.mpr ⟨h1, h2, hn, hlen⟩))] at h

/-- Nothing of another context or core is dropped, and an empty range selects nothing. -/
theorem icinvDrops_eq_false (h : ¬(core = coreOf w ∧ l.ctx = s.ctxNo x) ∨ all = false ∧ len = 0) :
    s.icinvDrops w x all lo len core l n = false := by
  rcases h with h | ⟨hall, hlen⟩
  · simp only [State.icinvDrops, State.codeSelected, Bool.and_eq_false_iff, beq_eq_false_iff_ne]
    tauto
  · simp [State.icinvDrops, State.codeSelected, runsMeet, hall, hlen]

end

/-! ## Its completion -/

section
variable {s : State} {w n lo len : Nat} {x : Wave} {p : Pend} {all : Bool}

/-- With the older stores gone from the queue, an ICINV completes. -/
theorem icinvComplete_eq (hw : s.wave w = some x) (hp : x.pending n = some p) (hk : p.work = .icinv all lo len)
    (hsq : ∀ e ∈ x.sq, n < e.stamp) :
    exec (.icinvComplete w n) s = .next ((s.dropFetched (s.icinvDrops w x all lo len)).modWave w fun y => y.complete n) := by
  have hall : (x.sq.all fun e => decide (n < e.stamp)) = true := by simpa using hsq
  dsimp only [exec, execIcinvComplete]
  simp only [hw, hp, hk, hall, if_true]
  rfl

end

theorem mem_filter_not {q : Nat × ILine} {m : Map ILine} {gone : Nat × ILine → Bool} :
    q ∈ m.filter (fun p => !gone p) ↔ q ∈ m ∧ gone q = false := by
  simp [List.mem_filter]

/-- Settles O29: at issue the range decides; at completion, what `State.icinvDrops` names goes. -/
theorem instructionCacheInvalidation : Obligations.InstructionCacheInvalidation := by
  unfold Obligations.InstructionCacheInvalidation
  constructor
  · intro x s c lo len
    exact ⟨fun hs h => (issuesAs_icinv x).traps hs (if_pos h), fun hs h => (issuesAs_icinv x).does hs (if_neg (by omega)),
      fun hs => (issuesAs_icinvAll x).does hs rfl⟩
  · intro s w n lo len all x p hw hp hk hsq mine meets
    refine ⟨_, icinvComplete_eq hw hp hk hsq, rfl, rfl, fun q hq => ?_, fun q hq => ?_, fun q hq h => ?_, fun q hq h => ?_,
      fun a bs hlen heven q hq hm hf => ?_⟩
    · obtain ⟨hold, hkept⟩ := mem_filter_not.mp hq
      exact ⟨hold, fun ⟨hc, hctx⟩ => of_icinvDrops_eq_false hc hctx (by decide) hkept⟩
    · obtain ⟨hold, hkept⟩ := mem_filter_not.mp hq
      exact ⟨hold, fun ⟨hc, hctx⟩ => of_icinvDrops_eq_false hc hctx (by decide) hkept⟩
    · exact mem_filter_not.mpr ⟨hq, icinvDrops_eq_false h⟩
    · exact mem_filter_not.mpr ⟨hq, icinvDrops_eq_false h⟩
    · rintro ⟨hline1, hline2, hrange1, hrange2⟩
      obtain ⟨-, hkept⟩ := mem_filter_not.mp hq
      obtain ⟨hc, hctx⟩ := hm
      obtain ⟨hpos, -⟩ := fetchTry_length_bounds hf
      have hreached := reachedBy_of_fetch (n := 64) heven hf (runsMeet_iff.mpr ⟨hline1, hline2, hpos.ne', by decide⟩)
        (runsMeet_iff.mpr ⟨hrange1, hrange2, hpos.ne', hlen⟩)
      simp [icinvDrops_of_reached hc hctx hlen hreached] at hkept

end Sys2Proof.Machine

/-! # Pending instructions that complete (R118, R139, R181 to R183, R200, R259, R260) -/

namespace Sys2Proof.Machine

/-! ## Completion -/

theorem release_eq (x : Wave) (slot : Nat) : x.release slot = { x with d := (x.release slot).d } := by
  unfold Wave.release
  split <;> rfl

/-- A completion changes the slots and what is pending of its wave, and nothing else. -/
theorem complete_eq (x : Wave) (n : Nat) : x.complete n = { x with d := (x.complete n).d, pend := (x.complete n).pend } := by
  unfold Wave.complete
  split
  next => rfl
  next p hp => rw [release_eq]

@[simp] theorem complete_run (x : Wave) (n : Nat) : (x.complete n).run = x.run := by rw [complete_eq]
@[simp] theorem complete_hit (x : Wave) (n : Nat) : (x.complete n).hit = x.hit := by rw [complete_eq]
@[simp] theorem complete_lanes (x : Wave) (n : Nat) : (x.complete n).lanes = x.lanes := by rw [complete_eq]

/-- What has completed is not pending. -/
@[simp] theorem pending_complete (x : Wave) (n : Nat) : (x.complete n).pending n = none := by
  unfold Wave.complete
  split
  next h => exact h
  next => simp [Wave.pending]

/-- A late trap of a wave that runs and has no debug stop to take stops it. -/
theorem lateTrap_of_running {s : State} {w : Nat} {x again : Wave} (hr : x.run = .running) (hh : x.hit = none) (f : Frame) :
    s.lateTrap w x again f = s.putWave w (x.stopWith f) := by
  rw [State.lateTrap, if_pos hr, hh]

/-- A late trap of a wave that has stopped already is not taken. -/
theorem lateTrap_of_stopped {s : State} {w : Nat} {x again : Wave} (hr : x.run ≠ .running) (f : Frame) :
    s.lateTrap w x again f = s.putWave w again := by
  rw [State.lateTrap, if_neg hr]

theorem otherWaves_putWave (s : State) (w : Nat) (x : Wave) : otherWaves s (s.putWave w x) w :=
  fun _ hv => mget_mput_other _ _ hv

/-- Whether the special functions of the row that are older than a stamp have been written. -/
def State.sfuOldest (s : State) (w n : Nat) : Bool :=
  s.waves.all fun q => deviceRow q.1 != deviceRow w || q.2.pend.all fun r =>
    !decide (r.stamp < n) || (match r.work with | .sfu .. => false | _ => true)

theorem sfuOldest_of_none_older {s : State} {w n : Nat}
    (h : ∀ q ∈ s.waves, deviceRow q.1 = deviceRow w → ∀ r ∈ q.2.pend, r.stamp < n → ∀ vs t, r.work ≠ .sfu vs t) :
    s.sfuOldest w n = true := by
  simp only [State.sfuOldest, List.all_eq_true, Bool.or_eq_true, bne_iff_ne, Bool.not_eq_true', decide_eq_false_iff_not]
  intro q hq
  refine or_iff_not_imp_left.mpr fun hrow r hr => or_iff_not_imp_left.mpr fun hold => ?_
  have hnot := h q hq (not_not.mp hrow) r hr (not_not.mp hold)
  split
  next vs t hsfu => exact absurd hsfu (hnot vs t)
  next => rfl

/-! ## Each event of a pending instruction -/

section
variable {s : State} {w n : Nat} {x : Wave} {p : Pend} (hw : s.wave w = some x) (hp : x.pending n = some p)
include hw hp

theorem pendOf_eq : s.pendOf w n = some (x, p) := by
  rw [State.pendOf, hw]
  exact congrArg (Option.map fun p => (x, p)) hp

theorem releaseComplete_eq {scope : Nat} (hk : p.work = .release scope) :
    exec (.releaseComplete w n) s = .next ((s.mapMem fun m => m.released n s.timeFs).putWave w (x.complete n)) := by
  dsimp only [exec, execReleaseComplete]
  simp only [pendOf_eq hw hp, hk]

/-- A fence of a wave completes from its clock on: at once at scope 0, and when what it orders has been performed at any other. -/
theorem fenceComplete_eq {kind scope : Nat} (hk : p.work = .fence kind scope) (hdue : p.due ≤ s.clock) :
    exec (.fenceComplete w n) s =
      if scope = 0 then .next (s.putWave w (x.complete n))
      else if x.fenceReady n kind = true then .next (s.waveFence w x n kind scope) else .next s := by
  dsimp only [exec, execFenceComplete]
  simp only [pendOf_eq hw hp, hk]
  rw [if_neg (by omega)]
  cases x.fenceReady n kind <;> rfl

theorem cacheMaintenanceComplete_eq {inval : Bool} {scope : Nat} {lines : List Nat} (hk : p.work = .maint inval scope lines)
    (hsq : ∀ e ∈ x.sq, n ≤ e.stamp) :
    exec (.cacheMaintenanceComplete w n) s =
      .next ((lines.foldl (fun s l => s.maintain (coreOf w) inval scope l) s).modWave w fun y => y.complete n) := by
  have hall : (x.sq.all fun e => decide (n ≤ e.stamp)) = true := by simpa using hsq
  dsimp only [exec, execCacheMaintenanceComplete]
  simp only [pendOf_eq hw hp, hk, hall, if_true]

theorem translationCheckResult_ok {k : Nat} {held : Option Cause} (hk : p.work = .check none k held) :
    exec (.translationCheckResult w n) s = .next (s.putWave w (x.complete n)) := by
  dsimp only [exec, execTranslationCheckResult]
  simp only [pendOf_eq hw hp, hk]

/-- A check that has failed is reported late, when nothing younger is pending. -/
theorem translationCheckResult_failed {t : Trap} {k : Nat} {held : Option Cause} (hk : p.work = .check (some t) k held)
    (hlast : ∀ q ∈ x.pend, q.stamp ≤ n) :
    exec (.translationCheckResult w n) s =
      .next (s.lateTrap w (x.complete n) { x.complete n with replay := some (p.pc, p.con, p.iwords) }
        (mkFrame s w (x.complete n) t p.con p.pc p.iwords (x.complete n).stepping true true held k)) := by
  have hnone : (x.pend.any fun q => decide (n < q.stamp)) = false := by simpa using hlast
  dsimp only [exec, execTranslationCheckResult]
  simp only [pendOf_eq hw hp, hk, hnone]
  rfl

theorem quotaSettle_eq {v : Nat} {t : Option Nat} {gs : List Nat} {d : Dst} (hk : p.work = .quota v t gs d) (hdue : p.due ≤ s.clock) :
    exec (.quotaSettle w n) s = .next ((s.gainGranules t gs).modWave w fun y => y.bind n s.clock (d.writes 0 v 0)) := by
  dsimp only [exec, execQuotaSettle]
  simp only [hw, Option.bind_some, hp, hk]
  exact if_neg (by omega)

/-- The result of a special function is written from its clock on, when no older one of the row is left (R139). -/
theorem sfuResultWrite_eq {ws : List RegWrite} {t : Option Trap} (hk : p.work = .sfu ws t) (hdue : p.due ≤ s.clock) :
    exec (.sfuResultWrite w n) s =
      if s.sfuOldest w n = true then .next (t.elim (s.putWave w (x.bind n s.clock ws)) fun t =>
        s.lateTrap w (x.complete n) (x.complete n)
          (mkFrame s w (x.complete n) t p.con p.pc p.iwords (x.complete n).stepping false false none 0))
      else .next s := by
  have hlate : ¬s.clock < p.due := by omega
  dsimp only [exec, execSfuResultWrite]
  simp only [hw, Option.bind_some, hp, Option.map_some, hk]
  change (if (decide (s.clock < p.due) || !s.sfuOldest w n) = true then _ else _) = _
  rw [decide_eq_false hlate]
  cases s.sfuOldest w n <;> cases t <;> rfl

end

/-! ## The monitor (R200) -/

/-- Whether a MONWAIT of the wave is parked. -/
def Wave.awaitsMonitor (x : Wave) : Bool := x.parks.any fun p => match p.kind with | .mon _ => true | _ => false

theorem awaitsMonitor_iff (x : Wave) : x.awaitsMonitor = true ↔ ∃ q ∈ x.parks, ∃ t, q.kind = .mon t := by
  rw [Wave.awaitsMonitor, List.any_eq_true]
  refine exists_congr fun q => and_congr_right fun _ => ?_
  cases q.kind <;> simp

theorem monExpired_of_due {x : Wave} {clock : Nat} (h : ∃ q ∈ x.parks, ∃ t, q.kind = .mon (some t) ∧ t ≤ clock)
    (hr : x.mon.resumed = false) (he : x.mon.event = false) : x.monExpired clock = true := by
  obtain ⟨q, hq, t, hk, ht⟩ := h
  simp only [Wave.monExpired, hr, he, Bool.not_false, Bool.and_true, List.any_eq_true]
  exact ⟨q, hq, by simpa [hk] using ht⟩

section
variable {s : State} {w : Nat} {x : Wave} (hw : s.wave w = some x)
include hw

/-- An event returns a parked MONWAIT, or is noted by a monitor that is armed. -/
theorem monitorEvent_eq : exec (.monitorEvent w) s =
    if x.awaitsMonitor = true then .next (s.putWave w (x.monReturn s.clock (if x.mon.resumed then 2 else 0)))
    else if x.mon.line.isSome then .next (s.putWave w { x with mon := { x.mon with event := true } })
    else .next s := by
  dsimp only [exec, execMonitorEvent]
  simp only [hw]
  rfl

theorem monwaitTimeout_eq (h : x.monExpired s.clock = true) :
    exec (.monwaitTimeout w) s = .next (s.putWave w (x.monReturn s.clock 1)) := by
  dsimp only [exec, execMonwaitTimeout]
  simp only [hw, h, if_true]

end

/-- Settles O53: each event by the equation of its own. -/
theorem waveCompletions : Obligations.WaveCompletions := by
  unfold Obligations.WaveCompletions
  intro s w n x p hw hp
  refine ⟨fun sc hk => releaseComplete_eq hw hp hk, fun kind hk hdue => (fenceComplete_eq hw hp hk hdue).trans (if_pos rfl),
    fun kind scope hk hs hdue hready => ?_, fun inval scope lines hk hsq => cacheMaintenanceComplete_eq hw hp hk hsq,
    fun k held hk => translationCheckResult_ok hw hp hk, fun t k held hk hlast hr => ?_, fun t k held hk hlast hr hh => ?_,
    fun v t gs d hk hdue => quotaSettle_eq hw hp hk hdue,
    fun ws hk hdue hfirst => (sfuResultWrite_eq hw hp hk hdue).trans (if_pos (sfuOldest_of_none_older hfirst)),
    fun ws t hk hdue hr hh hfirst => ?_, fun h => ?_, fun h hline => ?_, fun h hr he => ?_⟩
  · exact (fenceComplete_eq hw hp hk hdue).trans ((if_neg hs).trans (if_pos hready))
  · rw [translationCheckResult_failed hw hp hk hlast, lateTrap_of_stopped (by simpa using hr)]
  · rw [translationCheckResult_failed hw hp hk hlast, lateTrap_of_running (by simpa using hr) (by simpa using hh)]
    exact ⟨_, _, _, rfl, mget_mput_same .., otherWaves_putWave s w _, rfl, rfl, complete_lanes ..,
      rfl, rfl, rfl, rfl, rfl, rfl, rfl, rfl⟩
  · rw [sfuResultWrite_eq hw hp hk hdue, if_pos (sfuOldest_of_none_older hfirst), Option.elim_some,
      lateTrap_of_running (by simpa using hr) (by simpa using hh)]
    exact ⟨_, _, _, rfl, mget_mput_same .., otherWaves_putWave s w _, rfl, rfl, rfl, complete_lanes .., pending_complete ..,
      rfl, rfl, rfl, rfl, rfl⟩
  · rw [monitorEvent_eq hw, if_pos ((awaitsMonitor_iff x).mpr h)]
  · rw [monitorEvent_eq hw, if_neg (by simpa [awaitsMonitor_iff] using h), if_pos hline]
  · exact monwaitTimeout_eq hw (monExpired_of_due h hr he)

end Sys2Proof.Machine

/-! # Compares, reductions and scans of binary32 (R36, R124, R150) -/

namespace Sys2Proof.Machine

/-- An instruction whose effect settles floating-point results of which none traps. -/
theorem IssuesAs.settlesFp {i : Instr} {eff : Issue → State → Eff} {s : State} {c : Issue} {rs : List (Nat × Nat × Cond)}
    {ws : List RegWrite} (hi : IssuesAs i eff) (hs : Starts i s c) (he : eff c s = c.settleFp s rs ws) (hnone : c.x.fpTrap rs = none) :
    Does i s c (results (s.modWave c.w fun y => y.orFlags (condsOf rs)) i.core.latency ws) := by
  refine hi.does hs ?_
  rw [he, Issue.settleFp, hnone, ← latency_of_starts hs]
  rfl

/-- The value and the conditions that a lane takes of its tile's tree. -/
def Issue.tileResult (c : Issue) (s : State) (op : Nat) (step : Nat → List Nat × Cond → List Nat × Cond)
    (pick : List Nat → Nat → Nat) (l : Nat) : Nat × Cond :=
  let r := tileTree step (c.tileVals s op (tileBase c.x.tile l)) (5 - c.x.ts)
  (pick r.1 (l % c.x.tile), r.2)

theorem tiles_eq_settleFp (c : Issue) (s : State) (op : Nat) (step : Nat → List Nat × Cond → List Nat × Cond)
    (pick : List Nat → Nat → Nat) :
    c.tiles s op step pick = c.settleFp s (fpLaneResults c (c.tileResult s op step pick))
      ((lanesOf c.con).flatMap fun l => vWords c.b.d.toNat l (c.tileResult s op step pick l).1 1) := by
  rw [← List.flatMap_map (fun l => (l, c.tileResult s op step pick l)) fun r => vWords c.b.d.toNat r.1 r.2.1 1]
  rfl

/-- A binary32 result that is a NaN is the canonical one. -/
theorem reduxOut_eq (op v : Nat) : reduxOut op v = if 8 ≤ op ∧ (Fmt.f32.decode v).isNan = true then 0x7FC00000 else v := by
  rw [reduxOut, keep_eq, ite_and]
  congr 1
  exact apply_ite Prod.fst ..

section
variable (x : Body)

theorem issuesAs_fcmp : IssuesAs (.fcmp x) fun c s =>
    let cmp := fun l => fpCmp (c.b.mdN % 8) (c.b.md.getLsbD 3) (c.regA s l) (c.lastB s false 32 l)
    c.settleFp s (fpLaneResults c fun l => ((cmp l).1.toNat, (cmp l).2)) (bitsOfD c fun l => (cmp l).1) := by
  intro s
  dsimp only [exec, execFcmp]
  refine congrArg (issue _ _ _ s) (funext₂ fun c s => ?_)
  rw [List.map_map, List.map_map]
  rfl

theorem issuesAs_redux : IssuesAs (.redux x) fun c s =>
    c.tiles s c.b.mdN (reduxStep c.b.mdN) fun v _ => reduxOut c.b.mdN (v.getD 0 0) := fun _ => rfl

theorem issuesAs_scan : IssuesAs (.scan x) fun c s =>
    let op := c.b.mdN % 16
    c.tiles s op (scanStep op) fun v i =>
      reduxOut op (if c.b.md.getLsbD 4 then (if i = 0 then reduxId op else v.getD (i - 1) 0) else v.getD i 0) := fun _ => rfl

end

/-- Settles O20: each row is the issue of its results; those of REDUX and SCAN are the lanes' own of their tile's tree. -/
theorem compareReduceScan : Obligations.CompareReduceScan := by
  unfold Obligations.CompareReduceScan
  intro x s c
  simp only [← reduxOut_eq]
  exact ⟨fun hs hnone => (issuesAs_fcmp x).settlesFp hs rfl hnone,
    fun hs hnone => (issuesAs_redux x).settlesFp hs (tiles_eq_settleFp ..) hnone,
    fun hs hnone => (issuesAs_scan x).settlesFp hs (tiles_eq_settleFp ..) hnone⟩

end Sys2Proof.Machine

/-! # Copy batches and activation tables (R140 to R145, R210, R211) -/

namespace Sys2Proof.Machine

section
variable (x : Body)

theorem issuesAs_cpseal : IssuesAs (.cpseal x) fun c s => .go { s := s, work := some (.cpseal c.dstS), hold := true } := fun _ => rfl

theorem issuesAs_cpwait : IssuesAs (.cpwait x) fun c s => .go { s := s, work := some (.cpwait (c.sA s)), hold := true } := fun _ => rfl

end

/-! ## The pair of a block's tables -/

/-- The instruction's effect is one on the pair of its block (R140). -/
def UsesTable (i : Instr) (f : Issue → State → Nat → TblPair → Eff) : Prop := IssuesAs i fun c s => c.table s (f c s)

section
variable {i : Instr} {f : Issue → State → Nat → TblPair → Eff} {s : State} {c : Issue}

theorem UsesTable.does {k : Nat} {p : TblPair} {g : Fx} (hi : UsesTable i f) (hs : Starts i s c)
    (hown : s.tblOf (coreOf c.w) c.x.blk = some (k, p)) (he : f c s k p = .go g) : Does i s c g := by
  refine IssuesAs.does hi hs ?_
  rw [Issue.table, hown]
  exact he

theorem UsesTable.traps (hi : UsesTable i f) (hs : Starts i s c) (hown : s.tblOf (coreOf c.w) c.x.blk = none) :
    Traps i s c { cause := .illegalOperand, mask := c.act } 0#5 := by
  refine IssuesAs.traps hi hs ?_
  rw [Issue.table, hown]
  rfl

end

/-- What TBLSET does with the pair of its block (R143). -/
def tblsetEff (c : Issue) (s : State) (k : Nat) (p : TblPair) : Eff :=
  match s.checkGlobal (coreOf c.w) (s.ctxNo c.x) c.x.blk { kind := .load, align := 1, win := false } (tblWants c.low (c.addr s c.low)) with
  | (s1, .error t) => c.fault s1 { t with mask := c.con }
  | (s1, .ok ps) =>
    let qs := ps.map fun q => { q with lane := 0, off := (q.va + 2 ^ 64 - c.addr s c.low) % 2 ^ 64 }
    .go { s := s1, work := some (.tblset k (1 - p.sel) qs []), parts := qs.map fun q => { q with lane := c.low } }

section
variable (x : Body)

theorem usesTable_tblset : UsesTable (.tblset x) tblsetEff := fun _ => rfl

theorem usesTable_tblcommit : UsesTable (.tblcommit x) fun _ s k p =>
    .go { s := { s with co := { s.co with tbls := mput s.co.tbls k { p with sel := 1 - p.sel } } } } := fun _ => rfl

theorem usesTable_tbleval : UsesTable (.tbleval x) fun c s k p =>
    .go { s := s, work := some (.tbleval k p.sel (c.lanes.map fun l => (l, BitVec.ofNat 32 (c.regA s l))) c.dstV) } := fun _ => rfl

end

theorem tblsetEff_ok {c : Issue} {s s1 : State} {ps : List Piece}
    (h : s.checkGlobal (coreOf c.w) (s.ctxNo c.x) c.x.blk { kind := .load, align := 1, win := false }
      (tblWants c.low (c.addr s c.low)) = (s1, .ok ps)) (k : Nat) (p : TblPair) :
    let qs := ps.map fun q => { q with lane := 0, off := (q.va + 2 ^ 64 - c.addr s c.low) % 2 ^ 64 }
    tblsetEff c s k p = .go { s := s1, work := some (.tblset k (1 - p.sel) qs []), parts := qs.map fun q => { q with lane := c.low } } := by
  rw [tblsetEff, h]

/-! ## CPSEAL and CPWAIT complete -/

/-- What is pending by a stamp after a rewrite of the pending instructions that keeps every stamp. -/
theorem pending_map {x : Wave} {n : Nat} {p : Pend} {f : Pend → Pend} (hf : ∀ q, (f q).stamp = q.stamp) (hp : x.pending n = some p) :
    ({ x with pend := x.pend.map f } : Wave).pending n = some (f p) := by
  have hkeep : (fun q => q.stamp == n) ∘ f = fun q : Pend => q.stamp == n := funext fun q => by simp [hf]
  rw [Wave.pending, List.find?_map, hkeep]
  exact congrArg (Option.map f) hp

theorem stamp_of_pending {x : Wave} {n : Nat} {p : Pend} (hp : x.pending n = some p) : p.stamp = n := by
  simpa using List.find?_some hp

/-- The entry of a CPWAIT that has completed: it holds its slot for one more clock. -/
def Pend.waited (clock n : Nat) (q : Pend) : Pend :=
  if q.stamp == n then { q with work := .slot, due := clock + 1, hold := false } else q

/-- A wave whose CPWAIT completes: its finished batches are forgotten. -/
def Wave.waited (x : Wave) (clock n : Nat) : Wave :=
  { x with sealed := x.sealed.filter fun q => q.2.any fun r => r.2.2 != 0, pend := x.pend.map (Pend.waited clock n) }

section
variable {s : State} {w n : Nat} {x : Wave} {p : Pend} (hw : s.wave w = some x) (hp : x.pending n = some p)
include hw hp

theorem resultLanded_cpseal {d : Dst} (hk : p.work = .cpseal d) :
    exec (.resultLanded w n) s =
      if x.settledBefore n = true ∧ x.unfinished < 16 then
        .next (s.putWave w (({ x with sealed := x.sealed ++ [(x.batch, x.credit)], credit := [], batch := (x.batch + 1) % 65536 } : Wave).bind
          n s.clock (d.writes 0 x.batch 0)))
      else .next s := by
  obtain rfl := stamp_of_pending hp
  dsimp only [exec, execResultLanded]
  simp only [pendOf_eq hw hp, State.land, Wave.batchReady, State.batchDone, hk, Bool.and_eq_true, decide_eq_true_eq]
  split <;> rfl

theorem resultLanded_cpwait {m : Nat} (hk : p.work = .cpwait m) :
    exec (.resultLanded w n) s =
      if 16 ≤ m ∨ x.unfinished ≤ m then .next (s.modWave w fun y => y.waited s.clock n) else .next s := by
  obtain rfl := stamp_of_pending hp
  dsimp only [exec, execResultLanded]
  simp only [pendOf_eq hw hp, State.land, Wave.batchReady, State.batchDone, hk, Bool.or_eq_true, decide_eq_true_eq]
  split <;> rfl

end

/-- The completed CPWAIT is pending still, as no more than its slot. -/
theorem pending_waited {x : Wave} {clock n : Nat} {p : Pend} (hp : x.pending n = some p) :
    (x.waited clock n).pending n = some { p with work := .slot, due := clock + 1, hold := false } := by
  have hstamp : ∀ q, (Pend.waited clock n q).stamp = q.stamp := fun q => by unfold Pend.waited; split <;> rfl
  refine (pending_map hstamp hp).trans (congrArg some ?_)
  exact if_pos (beq_iff_eq.mpr (stamp_of_pending hp))

/-! ## O41 -/

/-- Settles O41: each row is the issue of its effect, and the completions are those of `resultLanded_cpseal` and
`resultLanded_cpwait`. -/
theorem copyWaitsAndTables : Obligations.CopyWaitsAndTables := by
  unfold Obligations.CopyWaitsAndTables
  constructor
  · intro x s s1 c k p ps
    refine ⟨fun hs => (issuesAs_cpseal x).does hs rfl, fun hs => (issuesAs_cpwait x).does hs rfl,
      fun hs hown hcheck => (usesTable_tblset x).does hs hown (tblsetEff_ok hcheck k p),
      fun hs hown => (usesTable_tblcommit x).does hs hown rfl, fun hs hown => (usesTable_tbleval x).does hs hown rfl,
      fun hown i hi hs => ?_⟩
    rcases hi with rfl | rfl | rfl
    · exact (usesTable_tblset x).traps hs hown
    · exact (usesTable_tblcommit x).traps hs hown
    · exact (usesTable_tbleval x).traps hs hown
  · intro s w n x p hw hp
    refine ⟨fun d hk => ⟨fun h => ?_, fun h => ?_⟩, fun m hk => ⟨fun h => ?_, fun h => ?_⟩⟩
    · exact (resultLanded_cpseal hw hp hk).trans (if_pos h)
    · exact (resultLanded_cpseal hw hp hk).trans (if_neg (not_and_or.mpr (h.imp Bool.eq_false_iff.mp Nat.not_lt.mpr)))
    · exact ⟨_, _, (resultLanded_cpwait hw hp hk).trans (if_pos h), mget_mmod_same hw _, fun v hv => mget_mmod_other _ _ hv,
        rfl, rfl, _, pending_waited hp, rfl, rfl, rfl⟩
    · exact (resultLanded_cpwait hw hp hk).trans (if_neg (not_or.mpr ⟨Nat.not_le.mpr h.1, Nat.not_le.mpr h.2⟩))

end Sys2Proof.Machine

/-! # Stored bytes (R165, R364, R372) -/

namespace Sys2Proof.Machine

/-! ## Maps written entry by entry -/

section
variable {α β : Type} (f : β → Nat) (g : β → α)

theorem mget_foldl_mput_other {k : Nat} {l : List β} (h : ∀ p ∈ l, f p ≠ k) (m : Map α) :
    mget (l.foldl (fun m p => mput m (f p) (g p)) m) k = mget m k := by
  induction l generalizing m with
  | nil => rfl
  | cons q l ih =>
    rw [List.forall_mem_cons] at h
    exact (ih h.2 _).trans (mget_mput_other _ _ (Ne.symm h.1))

/-- Where the keys differ, an entry written reads back. -/
theorem mget_foldl_mput_of_mem {p : β} {l : List β} (hp : p ∈ l) (hl : (l.map f).Nodup) (m : Map α) :
    mget (l.foldl (fun m p => mput m (f p) (g p)) m) (f p) = some (g p) := by
  obtain ⟨before, after, rfl⟩ := List.append_of_mem hp
  have hlast : ∀ q ∈ after, f q ≠ f p := fun q hq e => by
    rw [List.map_append, List.map_cons] at hl
    exact (List.nodup_cons.mp hl.of_append_right).1 (e ▸ List.mem_map_of_mem hq)
  rw [List.foldl_append, List.foldl_cons, mget_foldl_mput_other f g hlast, mget_mput_same]

end

theorem mrising_nodup {α : Type} {m : Map α} (h : mrising m = true) : (m.map Prod.fst).Nodup := by
  induction m with
  | nil => exact List.nodup_nil
  | cons p m ih =>
    obtain ⟨habove, hm⟩ := (mrising_cons p.1 p.2 m).mp h
    refine List.nodup_cons.mpr ⟨fun hmem => ?_, ih hm⟩
    obtain ⟨q, hq, e⟩ := List.mem_map.mp hmem
    exact (habove q hq).ne' e

theorem mem_of_mget {α : Type} {m : Map α} {k : Nat} {v : α} (h : mget m k = some v) : (k, v) ∈ m := by
  induction m with
  | nil => cases h
  | cons p m ih =>
    obtain ⟨j, x⟩ := p
    rw [mget] at h
    split at h
    next e => cases h; exact e ▸ List.mem_cons_self
    next => exact List.mem_cons_of_mem _ (ih h)

theorem atAddrs_eq_zipIdx (a : Nat) (bs : List Byte) : atAddrs a bs = (bs.zipIdx a).map Prod.swap := by
  induction bs generalizing a with
  | nil => rfl
  | cons b bs ih => exact congrArg (_ :: ·) (ih (a + 1))

theorem map_fst_atAddrs (a : Nat) (bs : List Byte) : (atAddrs a bs).map Prod.fst = List.range' a bs.length := by
  rw [atAddrs_eq_zipIdx, List.map_map]
  exact List.zipIdx_map_snd a bs

theorem mem_atAddrs {a i : Nat} {bs : List Byte} (h : i < bs.length) : (a + i, bs.getD i 0#8) ∈ atAddrs a bs := by
  rw [atAddrs_eq_zipIdx, List.mem_map]
  refine ⟨(bs[i], a + i), List.mk_add_mem_zipIdx_iff_getElem?.mpr (by simp [h]), ?_⟩
  simp [h]

/-! ## What a core reads (R165, R364) -/

/-- An L1 line that holds nothing. -/
def L1Line.empty : L1Line := { full := false, snap := [], dirty := [], tagged := false }

/-- What a core reads of a line by its own dirty bytes and clean copy, else from below. -/
def L1Line.read (x : L1Line) (i : Nat) (below : Byte) : Byte :=
  (mget x.dirty i).getD (if x.full then cget x.snap i unlisted else below)

/-- A line that an L1 does not hold reads as one that holds nothing. -/
theorem coreByte_eq_read (m : Mem) (core pa : Nat) :
    m.coreByte core pa = ((m.l1Line core (lineOf pa)).getD .empty).read (pa % 128) (m.view core pa) := by
  unfold Mem.coreByte L1Line.read
  cases m.l1Line core (lineOf pa) with
  | none => rfl
  | some x => cases h : mget x.dirty (pa % 128) <;> simp [h]

theorem l1Key_inj {c core line line' : Nat} (hc : c < 128) (hcore : core < 128) (h : l1Key c line = l1Key core line') :
    c = core ∧ line = line' := by
  unfold l1Key at h
  omega

/-! ## A plain store (R165, R372) -/

/-- Memory after a plain store in a line that no other core owns. -/
def Mem.stored (m : Mem) (core pa : Nat) (bs : List Byte) (rels : List Rel) : Mem :=
  let x := (m.l1Line core (lineOf pa)).getD .empty
  { m.putL1 core (lineOf pa) { x with
      dirty := (atAddrs (pa % 128) bs).foldl (fun d p => mput d p.1 p.2) x.dirty, bad := x.rewritten (lineOf pa) (atAddrs pa bs)
      rels := joinRels x.rels rels } with
    snoop := m.snoop.filter fun l => l != lineOf pa }

theorem storeLine_m (s : State) (core pa : Nat) (bs : List Byte) (rels : List Rel) :
    (s.storeLine core pa bs rels).m = (s.recallFrom core (lineOf pa)).m.stored core pa bs rels := wrote_m ..

/-- Ownership that no other core has is not recalled. -/
theorem recallFrom_of_unowned {s : State} {core line : Nat} (h : mget s.m.own line = none ∨ mget s.m.own line = some core) :
    s.recallFrom core line = s := by
  rcases h with h | h
  · rw [State.recallFrom, h]
  · rw [State.recallFrom, h]
    exact if_pos rfl

section
variable (m : Mem) {core c pa a i : Nat} {bs : List Byte} (rels : List Rel)

theorem coreByte_stored_same (hfit : pa % 128 + bs.length ≤ 128) (hi : i < bs.length) :
    (m.stored core pa bs rels).coreByte core (pa + i) = bs.getD i 0#8 := by
  have hline : lineOf (pa + i) = lineOf pa := by unfold lineOf; omega
  have hoff : (pa + i) % 128 = pa % 128 + i := by omega
  have hkeys : ((atAddrs (pa % 128) bs).map Prod.fst).Nodup := map_fst_atAddrs .. ▸ List.nodup_range'
  rw [coreByte_eq_read, hline, hoff, Mem.l1Line, Mem.stored, Mem.putL1, mget_mput_same, Option.getD_some, L1Line.read]
  dsimp only
  rw [mget_foldl_mput_of_mem Prod.fst Prod.snd (mem_atAddrs hi) hkeys, Option.getD_some]

theorem coreByte_stored_other (hcore : core < 128) (hc : c < 128) (hother : c ≠ core ∨ a < pa ∨ pa + bs.length ≤ a) :
    (m.stored core pa bs rels).coreByte c a = m.coreByte c a := by
  rw [coreByte_eq_read, coreByte_eq_read m]
  by_cases hsame : c = core ∧ lineOf a = lineOf pa
  · obtain ⟨rfl, hline⟩ := hsame
    have hkeys : ∀ p ∈ atAddrs (pa % 128) bs, p.1 ≠ a % 128 := fun p hp e => by
      have hmem := List.mem_map_of_mem (f := Prod.fst) hp
      rw [map_fst_atAddrs, List.mem_range'_1] at hmem
      unfold lineOf at hline
      omega
    rw [hline, Mem.l1Line, Mem.stored, Mem.putL1, mget_mput_same, Option.getD_some, L1Line.read]
    dsimp only
    rw [mget_foldl_mput_other Prod.fst Prod.snd hkeys]
    rfl
  · have hkey : l1Key c (lineOf a) ≠ l1Key core (lineOf pa) := fun e => hsame (l1Key_inj hc hcore e)
    rw [Mem.l1Line, Mem.stored, Mem.putL1, mget_mput_other _ _ hkey]
    rfl

end

/-! ## A write-back (R364) -/

theorem toL2_slc (s : State) (core : Nat) (bs : List (Nat × Byte)) (rels : List Rel) : (s.toL2 core bs rels).m.slc = s.m.slc := by
  unfold State.toL2
  split <;> rfl

theorem toL2_l2 (s : State) (core : Nat) (bs : List (Nat × Byte)) (rels : List Rel) :
    (s.toL2 core bs rels).m.l2 = bs.foldl (fun l p => mput l p.1 (dieOf core, p.2)) s.m.l2 := by
  unfold State.toL2
  split
  next h => rw [List.isEmpty_iff.mp h]; rfl
  next => rfl

section
variable {s : State} {core line : Nat} {x : L1Line} (h : s.m.l1Line core line = some x)
include h

theorem writeBack_slc : (s.writeBack core line).m.slc = s.m.slc := by
  simp only [State.writeBack, h, State.mapMem]
  split <;> split <;> exact toL2_slc ..

/-- A write-back shows the dirty bytes of the line in the L2. -/
theorem writeBack_l2 : (s.writeBack core line).m.l2 =
    x.dirty.foldl (fun l p => mput l (line * 128 + p.1) (dieOf core, p.2)) s.m.l2 := by
  simp only [State.writeBack, h, State.mapMem]
  split <;> split <;> exact (toL2_l2 ..).trans List.foldl_map

theorem lower_writeBack (hm : mrising x.dirty = true) (hlt : ∀ k ∈ x.dirty, k.1 < 128) (a : Nat) :
    (s.writeBack core line).m.lower a = if a / 128 = line then (mget x.dirty (a % 128)).getD (s.m.lower a) else s.m.lower a := by
  have hkeep (hk : ∀ p ∈ x.dirty, line * 128 + p.1 ≠ a) : (s.writeBack core line).m.lower a = s.m.lower a := by
    unfold Mem.lower Mem.hubByte
    rw [writeBack_slc h, writeBack_mem, writeBack_l2 h,
      mget_foldl_mput_other (fun p : Nat × Byte => line * 128 + p.1) (fun p => (dieOf core, p.2)) hk]
  split
  next hline =>
    cases hb : mget x.dirty (a % 128) with
    | none =>
      refine hkeep fun p hp e => ?_
      have hp' : mget x.dirty p.1 = some p.2 := mget_of_mem hm hp
      rw [show p.1 = a % 128 by have := hlt p hp; omega, hb] at hp'
      cases hp'
    | some b =>
      have hp := mem_of_mget hb
      have ha : line * 128 + a % 128 = a := by omega
      have hkeys : (x.dirty.map fun p => line * 128 + p.1).Nodup := by
        simpa [Function.comp_def] using (mrising_nodup hm).map fun _ _ => Nat.add_left_cancel (n := line * 128)
      have hnew := mget_foldl_mput_of_mem (fun p : Nat × Byte => line * 128 + p.1) (fun p => (dieOf core, p.2)) hp hkeys s.m.l2
      dsimp only at hnew
      rw [ha] at hnew
      rw [Mem.lower, writeBack_l2 h, hnew, Option.getD_some]
  next hline => exact hkeep fun p hp e => hline (by have := hlt p hp; omega)

end

/-- Settles O50: by what a core reads of a stored line, and by what the L2 holds after a write-back. -/
theorem storedBytes : Obligations.StoredBytes := by
  unfold Obligations.StoredBytes
  refine ⟨fun s core pa i bs hfit hi => ?_, fun s core c pa a bs hcore hc hfit hown hother => ⟨?_, ?_, storeLine_mem ..⟩,
    fun s core line a x h hm hlt => lower_writeBack h hm hlt a⟩
  · rw [storeLine_m]
    exact coreByte_stored_same _ _ hfit hi
  · rw [storeLine_m, recallFrom_of_unowned (line := lineOf pa) hown]
    exact coreByte_stored_other _ _ hcore hc hother
  · rw [storeLine_m, recallFrom_of_unowned (line := lineOf pa) hown]
    rfl

end Sys2Proof.Machine

/-! # Loads and stores whose checks pass (R158, R160, R165, R178, R179, R181) -/

namespace Sys2Proof.Machine

/-! ## Global memory and the window -/

/-- Each row of the rule is the issue of a load or of a store with what the rule gives. -/
theorem exists_access_of_accessRule {i : Instr} {c : Issue} {a : Ask} {ty n : Nat} {scope : Option Nat} {isW : Bool}
    (h : accessRule i c = some (a, ty, n, scope, isW)) :
    ∃ eff, IssuesAs i eff ∧ ∀ s, eff c s = if isW then c.storeEff s a n scope else c.loadEff s a ty n scope := by
  unfold accessRule at h
  split at h
  case h_1 | h_2 | h_3 | h_4 =>
    cases h
    exact ⟨_, fun _ => rfl, fun _ => rfl⟩
  case h_5 | h_6 =>
    split at h
    next => cases h
    next hw =>
      cases h
      exact ⟨_, fun _ => rfl, fun _ => if_neg hw⟩
  case h_7 => cases h

theorem global_ok {s s1 : State} {c : Issue} {a : Ask} {qs : List Want} {ps : List Piece}
    (h : s.checkGlobal (coreOf c.w) (s.ctxNo c.x) c.x.blk a qs = (s1, .ok ps))
    (k : State → List Piece → Eff) : c.global s a qs k = k s1 ps := by
  rw [Issue.global, h]

/-- Settles O30: an access whose check passes is the issue of its load or store with the parts of the check. -/
theorem globalAccesses : Obligations.GlobalAccesses := by
  unfold Obligations.GlobalAccesses
  intro i s s1 c a ty n scope ps hs hcheck
  refine ⟨fun hrule => ?_, fun hrule => ?_⟩
  all_goals
    obtain ⟨eff, hi, heff⟩ := exists_access_of_accessRule hrule
    exact hi.does hs ((heff s).trans (global_ok hcheck _))

/-! ## The scratchpad -/

section
variable (x : Body)

theorem issuesAs_lds : IssuesAs (.lds x) fun c s =>
    c.spLoadEff s (min (memBytes c.b.mdN) 4) c.b.mdN (memBytes c.b.mdN) none false := fun _ => rfl

theorem issuesAs_sts : IssuesAs (.sts x) fun c s =>
    c.spStoreEff s (min (memBytes c.b.mdN) 4) (memBytes c.b.mdN) none false := fun _ => rfl

theorem issuesAs_lda : IssuesAs (.lda x) fun c s =>
    let n := 4 * 2 ^ (c.b.mdN % 4)
    if c.b.aW = 0#2 then c.spLoadEff s n 4 n (some (c.b.mdN / 4)) true
    else c.loadEff s { kind := .load, align := n, win := true, whole := true } 4 n (some (c.b.mdN / 4)) := fun _ => rfl

theorem issuesAs_stl : IssuesAs (.stl x) fun c s =>
    let n := 4 * 2 ^ (c.b.mdN % 4)
    if c.b.aW = 0#2 then c.spStoreEff s n n (some (c.b.mdN / 4)) true
    else c.storeEff s { kind := .store, align := n, win := true, whole := true } n (some (c.b.mdN / 4)) := fun _ => rfl

end

section
variable {s : State} {c : Issue} {align n : Nat} {whole : Bool} {k : List Piece → Eff}

theorem scratch_error {t : Trap} (h : s.checkSp (coreOf c.w) c.x.blk align whole (c.spWants s n) = .error t) :
    c.scratch s align whole n k = .trap t := by
  rw [Issue.scratch, h]

theorem scratch_ok {ps : List Piece} (h : s.checkSp (coreOf c.w) c.x.blk align whole (c.spWants s n) = .ok ps) :
    c.scratch s align whole n k = k ps := by
  rw [Issue.scratch, h]

end

/-- What is left to do of a scratchpad access whose check passes: its passes (R160). -/
def Issue.spTodo (c : Issue) (s : State) (isW : Bool) (ty n : Nat) (scope : Option Nat) (ps : List Piece) : Work :=
  if isW then .spStore scope (passesOf (s.swz c.x.blk) (fun (q : Put) => q.at'.spPart) (c.puts s n ps))
  else .spLoad ty n scope (passesOf (s.swz c.x.blk) Piece.spPart ps) [] [] c.dstV

section
variable {i : Instr} {eff : Issue → State → Eff} {s : State} {c : Issue} {align ty n : Nat} {scope : Option Nat} {whole isW : Bool}
  (hi : IssuesAs i eff) (hs : Starts i s c)
  (he : eff c s = c.scratch s align whole n fun ps => .go { s := s, parts := ps, work := some (c.spTodo s isW ty n scope ps) })
include hi hs he

/-- A scratchpad access traps where its check fails, and is pending in passes where it passes. -/
theorem IssuesAs.scratch_traps_or_does :
    (∀ t, s.checkSp (coreOf c.w) c.x.blk align whole (c.spWants s n) = .error t → Traps i s c t 0#5)
    ∧ ∀ ps, s.checkSp (coreOf c.w) c.x.blk align whole (c.spWants s n) = .ok ps →
      Does i s c { s := s, parts := ps, work := some (c.spTodo s isW ty n scope ps) } :=
  ⟨fun _ hcheck => hi.traps hs (he.trans (scratch_error hcheck)), fun _ hcheck => hi.does hs (he.trans (scratch_ok hcheck))⟩

end

/-- Settles O33: each row is the issue of its scratchpad access. -/
theorem scratchpadAccesses : Obligations.ScratchpadAccesses := by
  unfold Obligations.ScratchpadAccesses
  intro i s c align ty n scope whole isW hrule hs
  split at hrule
  next x =>
    cases hrule
    exact (issuesAs_lds x).scratch_traps_or_does hs rfl
  next x =>
    cases hrule
    exact (issuesAs_sts x).scratch_traps_or_does hs rfl
  next x =>
    obtain ⟨hsp, hrule⟩ := hrule
    cases hrule
    exact (issuesAs_lda x).scratch_traps_or_does hs (if_pos hsp)
  next x =>
    obtain ⟨hsp, hrule⟩ := hrule
    cases hrule
    exact (issuesAs_stl x).scratch_traps_or_does hs (if_pos hsp)
  next => exact hrule.elim

end Sys2Proof.Machine

/-! # Accesses that fail their checks (R158, R163, R173, R177, R187) -/

namespace Sys2Proof.Machine

/-! ## The trap of the lanes that fail -/

theorem getLsbD_accessTrap_mask (cause : Cause) (sub : Nat) (ls : List (Nat × Nat)) {l : Nat} (h : l < 32) :
    (accessTrap cause sub ls).mask.getLsbD l = ls.any fun p => p.1 == l := by
  rw [accessTrap, maskOfList, getLsbD_maskOf _ h, List.contains_eq_any_beq, List.any_map]
  exact congrArg ls.any (funext fun p => BEq.comm)

theorem accessTrap_addr (cause : Cause) (sub : Nat) (ls : List (Nat × Nat)) :
    (accessTrap cause sub ls).addr = (ls.head?.map Prod.snd).getD 0 := by
  cases ls <;> rfl

/-- The trap of the accesses that a test finds. -/
def trapOf (cause : Cause) (qs : List Want) (bad : Want → Bool) : Trap :=
  accessTrap cause 0 ((qs.filter bad).map fun q => (q.lane, q.va))

theorem blames_trapOf (cause : Cause) (qs : List Want) (bad : Want → Bool) : blames (trapOf cause qs bad) cause qs bad := by
  refine ⟨rfl, ?_, fun l hl => ?_⟩
  · rw [trapOf, accessTrap_addr, List.head?_map, Option.map_map]
    rfl
  · rw [trapOf, getLsbD_accessTrap_mask _ _ _ hl, List.any_map, List.any_filter]
    exact congrArg qs.any (funext fun q => Bool.and_comm ..)

/-- The trap of the results of some lanes names them. -/
theorem names_accessTrap (cause : Cause) (sub : Nat) (rs : Checked) :
    let t := accessTrap cause sub (rs.map fun r => (r.1, r.2.1))
    t.cause = cause ∧ t.addr = (rs.head?.map fun r => r.2.1).getD 0 ∧ ∀ l, l < 32 → t.mask.getLsbD l = rs.any fun r => r.1 == l := by
  refine ⟨rfl, ?_, fun l hl => ?_⟩
  · rw [accessTrap_addr, List.head?_map, Option.map_map]
    rfl
  · rw [getLsbD_accessTrap_mask _ _ _ hl, List.any_map]
    rfl

/-! ## Global memory and the window -/

/-- An access of more than 8 bytes in the window, or of a two-word form there (R173, R187). -/
def Ask.wide (a : Ask) (q : Want) : Bool := a.win && onWindow q.va q.n && (a.w2 || decide (8 < q.n))

/-- An access that is not aligned as its form asks, or not naturally in the window (R173, R177). -/
def Ask.skewed (a : Ask) (q : Want) : Bool :=
  decide (q.va % a.align ≠ 0) || (a.win && onWindow q.va q.n && decide (q.va % min q.n 8 ≠ 0))

/-- What the window gives a block there, where it may touch it (R163, R187). -/
def State.gives (s : State) (blk : Nat) (a : Ask) (q : Want) : Bool :=
  match s.windowLoc blk q.va q.n with
  | none => false
  | some l => !a.spOnly || (match l with | .sp .. => true | _ => false)

/-- An access that R173 bars: in the window where the block is given nothing, or outside it by a form that admits nothing else. -/
def State.barred (s : State) (blk : Nat) (a : Ask) (q : Want) : Bool :=
  if onWindow q.va q.n then !(a.win && s.gives blk a q) else a.only

/-- A lane's result of the translation check that is a page fault, or another fault (R177). -/
def faulted (page : Bool) (r : Nat × Nat × Except Nat (List Piece)) : Bool :=
  match r.2.2 with | .error e => isPageFault e == page | .ok _ => false

/-- The results of lanes that fail the translation check, with their reasons. -/
def failures (rs : Checked) : List (Nat × Nat × Nat) :=
  rs.filterMap fun r => match r.2.2 with | .error e => some (r.1, r.2.1, e) | .ok _ => none

/-- What the translation of every lane comes to, by the results that fail: page faults come first (R177). -/
def Ask.verdict (a : Ask) (s : State) (bad : List (Nat × Nat × Nat)) (ps : List Piece) : State × Except Trap (List Piece) :=
  let page := bad.filter fun r => isPageFault r.2.2
  let fail := if page.isEmpty then bad else page
  match fail with
  | r :: _ => (s, .error (accessTrap (if page.isEmpty then .accessFault else .pageFault) (a.kind.code + 16 * r.2.2)
      (fail.map fun r => (r.1, r.2.1))))
  | [] => (s, .ok ps)

theorem page_failures (rs : Checked) :
    ((failures rs).filter fun r => isPageFault r.2.2).map (fun r => (r.1, r.2.1)) = (rs.filter (faulted true)).map fun r => (r.1, r.2.1) := by
  induction rs with
  | nil => rfl
  | cons r rs ih =>
    obtain ⟨lane, va, e | ps⟩ := r
    · cases he : isPageFault e <;> simpa [failures, faulted, he] using ih
    · simpa [failures, faulted] using ih

section
variable {rs : Checked}

/-- Where no lane has a page fault, every failure is an access fault. -/
theorem failures_of_no_page (h : rs.filter (faulted true) = []) :
    (failures rs).map (fun r => (r.1, r.2.1)) = (rs.filter (faulted false)).map fun r => (r.1, r.2.1) := by
  induction rs with
  | nil => rfl
  | cons r rs ih =>
    obtain ⟨lane, va, e | ps⟩ := r
    · cases he : isPageFault e
      · simpa [failures, faulted, he] using ih (by simpa [faulted, he] using h)
      · simp [faulted, he] at h
    · simpa [failures, faulted] using ih (by simpa [faulted] using h)

variable (a : Ask) (s : State) (ps : List Piece)

theorem verdict_of_page (h : rs.filter (faulted true) ≠ []) : ∃ sub, a.verdict s (failures rs) ps =
    (s, .error (accessTrap .pageFault sub ((rs.filter (faulted true)).map fun r => (r.1, r.2.1)))) := by
  have hmap := page_failures rs
  unfold Ask.verdict
  cases hpage : (failures rs).filter fun r => isPageFault r.2.2 with
  | nil => rw [hpage] at hmap; exact absurd (List.map_eq_nil_iff.mp hmap.symm) h
  | cons r rest =>
    rw [hpage] at hmap
    exact ⟨_, congrArg (fun l => (s, Except.error (accessTrap .pageFault _ l))) hmap⟩

section
variable (hnone : rs.filter (faulted true) = [])
include hnone

theorem no_page_failure : ((failures rs).filter fun r => isPageFault r.2.2) = [] :=
  List.map_eq_nil_iff.mp ((page_failures rs).trans (by rw [hnone]; rfl))

theorem verdict_of_access (h : rs.filter (faulted false) ≠ []) : ∃ sub, a.verdict s (failures rs) ps =
    (s, .error (accessTrap .accessFault sub ((rs.filter (faulted false)).map fun r => (r.1, r.2.1)))) := by
  have hmap := failures_of_no_page hnone
  unfold Ask.verdict
  rw [no_page_failure hnone]
  cases hbad : failures rs with
  | nil => rw [hbad] at hmap; exact absurd (List.map_eq_nil_iff.mp hmap.symm) h
  | cons r rest =>
    rw [hbad] at hmap
    exact ⟨_, congrArg (fun l => (s, Except.error (accessTrap .accessFault _ l))) hmap⟩

theorem verdict_of_no_fault (h : rs.filter (faulted false) = []) : a.verdict s (failures rs) ps = (s, .ok ps) := by
  have hbad : failures rs = [] := List.map_eq_nil_iff.mp ((failures_of_no_page hnone).trans (by rw [h]; rfl))
  rw [hbad]
  rfl

end

end

/-- The parts of accesses that have passed their checks, in lane order. -/
def State.partsFound (s : State) (blk : Nat) (rs : Checked) (qs : List Want) : List Piece :=
  qs.flatMap fun q =>
    if onWindow q.va q.n then (s.windowPart blk q).toList
    else (rs.findSome? fun r => if r.1 = q.lane ∧ r.2.1 = q.va then r.2.2.toOption else none).getD []

theorem bne_zero_eq (n : Nat) : (n != 0) = decide (n ≠ 0) := by
  simp only [ne_eq, decide_not]
  rfl

theorem skewed_eq (a : Ask) :
    (fun q : Want => q.va % a.align != 0 || (a.win && onWindow q.va q.n && q.va % min q.n 8 != 0)) = a.skewed := by
  funext q
  simp only [Ask.skewed, bne_zero_eq]

section
variable {s : State} {core ctx blk : Nat} {a : Ask} {qs : List Want}

theorem checkGlobal_of_wide (h : ¬∀ q ∈ qs, a.wide q = false) :
    s.checkGlobal core ctx blk a qs = (s, .error (trapOf .illegalOperand qs a.wide)) :=
  if_pos (by simpa [Ask.wide] using h)

variable (hwide : ∀ q ∈ qs, a.wide q = false)
include hwide

theorem checkGlobal_of_skewed (h : ¬∀ q ∈ qs, a.skewed q = false) :
    s.checkGlobal core ctx blk a qs = (s, .error (trapOf .misaligned qs a.skewed)) := by
  unfold State.checkGlobal
  rw [skewed_eq, if_neg, if_pos]
  · rfl
  · simpa using h
  · simpa [Ask.wide] using hwide

variable (hskew : ∀ q ∈ qs, a.skewed q = false)
include hskew

/-- The one part of an access in the window that is neither wide nor skewed is at what the window gives there. -/
theorem windowPart_eq {q : Want} (hq : q ∈ qs) (hwin : a.win = true) (hon : onWindow q.va q.n = true) :
    s.windowPart blk q = (s.windowLoc blk q.va q.n).map fun l => { lane := q.lane, off := 0, len := q.n, va := q.va, loc := l } := by
  obtain ⟨-, hn⟩ : a.w2 = false ∧ q.n ≤ 8 := by simpa [Ask.wide, hwin, hon] using hwide q hq
  obtain ⟨-, hnat⟩ : q.va % a.align = 0 ∧ q.va % q.n = 0 := by
    simpa [Ask.skewed, hwin, hon, Nat.min_eq_left hn] using hskew q hq
  exact if_neg (not_not.mpr hnat)

theorem filter_barred : (qs.filter fun q =>
    if onWindow q.va q.n then
      !a.win || (s.windowPart blk q).isNone
        || (a.spOnly && !((s.windowPart blk q).any fun p => match p.loc with | .sp .. => true | _ => false))
    else a.only) = qs.filter (s.barred blk a) := by
  refine List.filter_congr fun q hq => ?_
  unfold State.barred
  cases hon : onWindow q.va q.n with
  | false => rfl
  | true =>
    cases hwin : a.win with
    | false => rfl
    | true =>
      rw [windowPart_eq hwide hskew hq hwin hon, State.gives]
      cases s.windowLoc blk q.va q.n with
      | none => rfl
      | some l => cases l <;> cases a.spOnly <;> rfl

theorem checkGlobal_of_barred (h : ¬∀ q ∈ qs, s.barred blk a q = false) :
    s.checkGlobal core ctx blk a qs = (s, .error (trapOf .windowPerm qs (s.barred blk a))) := by
  have hperm := filter_barred (s := s) (blk := blk) hwide hskew
  have hsome : (!(qs.filter (s.barred blk a)).isEmpty) = true := by simpa using h
  unfold State.checkGlobal
  rw [skewed_eq, if_neg, if_neg]
  · refine (if_pos ((congrArg (fun l => !l.isEmpty) hperm).trans hsome)).trans ?_
    exact congrArg (fun l => (s, Except.error (accessTrap .windowPerm 0 (l.map fun q => (q.lane, q.va))))) hperm
  · simpa using hskew
  · simpa [Ask.wide] using hwide

/-- Where nothing fails before the translation, its results decide (R177). -/
theorem checkGlobal_of_translated (hbar : ∀ q ∈ qs, s.barred blk a q = false) {s1 : State} {rs : Checked}
    (ht : s.translateAll core ctx a (qs.filter fun q => !onWindow q.va q.n) = (s1, rs)) :
    s.checkGlobal core ctx blk a qs = a.verdict s1 (failures rs) (s1.partsFound blk rs qs) := by
  have hperm := filter_barred (s := s) (blk := blk) hwide hskew
  have hnone : ¬(!(qs.filter (s.barred blk a)).isEmpty) = true := by simpa using hbar
  unfold State.checkGlobal
  rw [skewed_eq, if_neg, if_neg]
  · refine (if_neg fun e => hnone ((congrArg (fun l => !l.isEmpty) hperm).symm.trans e)).trans ?_
    rw [ht]
    rfl
  · simpa using hskew
  · simpa [Ask.wide] using hwide

end

/-! ## The scratchpad -/

section
variable {s : State} {core blk align : Nat} {whole : Bool} {qs : List Want}

/-- A scratchpad access beyond the region of the block (R158). -/
def State.beyond (s : State) (core blk : Nat) (q : Want) : Bool :=
  decide ((((s.block blk).bind fun b => b.region core).getD (0, 0)).2 < q.va + q.n)

theorem misaligned_eq (align : Nat) : (fun q : Want => q.va % align != 0) = fun q => decide (q.va % align ≠ 0) :=
  funext fun _ => bne_zero_eq _

theorem checkSp_of_misaligned (h : ∃ q ∈ qs, decide (q.va % align ≠ 0) = true) : s.checkSp core blk align whole qs =
    .error (trapOf .misaligned qs fun q => decide (q.va % align ≠ 0)) := by
  unfold State.checkSp
  rw [misaligned_eq, if_pos]
  · rfl
  · simpa using h

variable (halign : ∀ q ∈ qs, decide (q.va % align ≠ 0) = false)
include halign

theorem checkSp_of_beyond (h : ∃ q ∈ qs, s.beyond core blk q = true) : s.checkSp core blk align whole qs =
    .error (trapOf .scratchRange qs (s.beyond core blk)) := by
  unfold State.checkSp
  rw [misaligned_eq, if_neg]
  · exact if_pos (by simpa [State.beyond] using h)
  · simpa using halign

theorem checkSp_of_within (h : ∀ q ∈ qs, s.beyond core blk q = false) : ∃ ps, s.checkSp core blk align whole qs = .ok ps := by
  unfold State.checkSp
  rw [misaligned_eq, if_neg]
  · exact ⟨_, if_neg (by simpa [State.beyond] using h)⟩
  · simpa using halign

end

/-- Settles O32: the first of the checks that finds an access names it. -/
theorem windowChecks : Obligations.WindowChecks := by
  unfold Obligations.WindowChecks
  constructor
  · intro s core ctx blk a qs there wide skewed gives barred ok
    refine ⟨fun h => ⟨_, checkGlobal_of_wide h, blames_trapOf ..⟩, fun hw h => ⟨_, checkGlobal_of_skewed hw h, blames_trapOf ..⟩,
      fun hw hk h => ⟨_, checkGlobal_of_barred hw hk h, blames_trapOf ..⟩, fun hw hk hb s1 rs ht => ?_⟩
    have hcheck := checkGlobal_of_translated hw hk hb ht
    refine ⟨fun h => ?_, fun hnone h => ?_, fun hnone h => ⟨_, hcheck.trans (verdict_of_no_fault a s1 _ hnone h)⟩⟩
    · obtain ⟨sub, hv⟩ := verdict_of_page a s1 _ h
      exact ⟨_, hcheck.trans hv, names_accessTrap ..⟩
    · obtain ⟨sub, hv⟩ := verdict_of_access a s1 _ hnone h
      exact ⟨_, hcheck.trans hv, names_accessTrap ..⟩
  · intro s core blk align whole qs skewed beyond
    exact ⟨fun h => ⟨_, checkSp_of_misaligned h, blames_trapOf ..⟩, fun hk h => ⟨_, checkSp_of_beyond hk h, blames_trapOf ..⟩,
      fun h => checkSp_of_within (fun q hq => (h q hq).1) fun q hq => (h q hq).2⟩

end Sys2Proof.Machine

/-! # A supervisor's read of a scratchpad (R162, R366) -/

namespace Sys2Proof.Machine

theorem step_read {s : State} {who addr n : Nat} {ins : List Input} (h : s.agenda = .read who addr n :: ins) :
    step s = .next (({ s with agenda := ins } : State).readBy who addr n) := by
  rw [step, State.advance, h]
  rfl

/-- What a supervisor has heard after it has read a scratchpad's bytes in its window: the releases that they carry as well (R366). -/
theorem heard_readBy_scratchpad {s : State} {addr size core off : Nat} (hsize : size = 1 ∨ size = 2 ∨ size = 4 ∨ size = 8)
    (halign : addr % size = 0) (hcore : (addr - windowBase) / 0x400000 = core)
    (hoff : (addr - windowBase) % 0x400000 = 0x100000 + off) (hlt : off < 0x40000) :
    ((s.readBy 1 addr size).sup core).heard =
      (List.range size).foldl (fun a i => joinRels a (cget s.co.spRels (2 ^ 18 * core + off + i) [])) (s.sup core).heard := by
  unfold State.readBy
  rw [if_neg (by rcases hsize with rfl | rfl | rfl | rfl <;> simp [halign])]
  dsimp only
  rw [hoff, hcore, if_neg fun ⟨_, _, htrapq, _⟩ => by omega, if_neg (show ¬1 = 4 by decide), if_pos ⟨rfl, by omega, by omega⟩,
    Nat.add_sub_cancel_left]
  simp only [State.sup, mgetD, putSup_co, mget_mput_same, Option.getD_some]

/-- A release that core 1 has made at device scope. -/
def farRelease : Rel := { core := 1, scope := 4, deps := [7], lazy := false }

/-- A byte of core 0's scratchpad carries a release, and the core's supervisor reads it in its window. -/
def scratchRead : State :=
  { State.reset with
    co := { State.reset.co with spRels := [(0, [farRelease])] }
    agenda := [.read 1 (windowBase + 0x100000) 1] }

/-- Refutes O59: its last clause lets a register read leave the cores as they are, but a supervisor's read of a scratchpad's byte makes
the supervisor hear the releases that the byte carries (R366). -/
theorem not_supervisorEvents : ¬ Obligations.SupervisorEvents := by
  unfold Obligations.SupervisorEvents
  intro h
  obtain ⟨-, -, -, -, -, -, -, -, -, -, -, -, -, -, -, -, -, -, -, hread⟩ :=
    h scratchRead 0 0 0 1 (startWave fetchBlock 0 0 0 []) { slot := 0, frame := 0, blk := 0, ctx := 0, cause := 1, at' := 0 } []
  obtain ⟨t, hstep, -, -, -, hco, -⟩ :=
    hread [] 1 (windowBase + 0x100000) rfl (.inl rfl) (Nat.mod_one _) (.inl rfl) (by decide) (by decide)
  obtain rfl := Host.Outcome.next.inj ((step_read rfl).symm.trans hstep)
  have hheard := heard_readBy_scratchpad (s := { scratchRead with agenda := [] }) (addr := windowBase + 0x100000) (size := 1) (core := 0)
    (off := 0) (.inl rfl) (Nat.mod_one _) (by decide) (by decide) (by decide)
  rw [State.sup, hco] at hheard
  exact absurd hheard (by decide)

end Sys2Proof.Machine

/-! # Atomics (R184 to R188, R268) -/

namespace Sys2Proof.Machine

/-! ## What each row issues as -/

section
variable (x : Body)

theorem issuesAs_atom : IssuesAs (.atom x) fun c s =>
    if c.b.aW = 0#2 then
      c.scratch s c.atomN false c.atomN fun ps =>
        .go { s := s.notDiscardable c.x.blk, parts := ps
              work := some (.spAtom c.atomCode c.atomN (passesOf (s.swz c.x.blk)
                (fun (o : WordOp) => (match o.loc with | .sp _ off _ => off | _ => o.va, o.len)) (ps.flatMap (c.wordOps s))) [] [] c.dstV) }
    else
      c.global s (c.ask true) (c.wants s c.atomN) fun s ps =>
        .go { s := s.notDiscardable c.x.blk, parts := ps, work := some (.near c.atomCode c.atomN (ps.flatMap (c.wordOps s)) [] [] c.dstV) } :=
  fun _ => rfl

theorem issuesAs_atomf : IssuesAs (.atomf x) fun c s =>
    c.global s (c.ask false) (c.wants s c.atomN) fun s ps =>
      .go { s := s.notDiscardable c.x.blk, parts := ps
            work := some (.far c.atomCode c.atomN (ps.flatMap (c.wordOps s)) [] [] (some c.dstV)) } := fun _ => rfl

theorem issuesAs_red : IssuesAs (.red x) fun c s =>
    c.global s (c.ask false) (c.wants s c.atomN) fun s ps =>
      .go { s := s.notDiscardable c.x.blk, parts := ps
            work := some (.far c.atomCode c.atomN (ps.flatMap (c.wordOps s)) [] [] none) } := fun _ => rfl

end

/-! ## A check that fails -/

/-- An effect that is the fault of a failing check traps, or leaves the check pending with what its issue leaves (R98, R260, R268). -/
theorem IssuesAs.failsCheck {i : Instr} {eff : Issue → State → Eff} {s s1 : State} {c : Issue} {t : Trap} (hi : IssuesAs i eff)
    (hs : Starts i s c) (he : eff c s = c.fault s1 t) :
    failsCheck i s s1 (if endsDiscard i.core then s1.notDiscardable c.x.blk else s1) c t := by
  obtain ⟨-, -, -, hci, -⟩ := issuer_spec hs.1
  refine ⟨fun hnot => hi.traps hs ?_, fun ⟨hcause, hskid⟩ hnone => hi.does hs ?_⟩
  · rw [he, Issue.fault, if_neg fun ⟨hcause, hskid, _⟩ => hnot ⟨hcause, hskid⟩]
  · rw [he, Issue.fault, if_pos ⟨hcause, hskid, by simpa using hnone⟩, hci]

/-! ## The word operations of a part (R185) -/

/-- The word operations of a part, in the words of the statement: the two-word forms are those of 8 bytes from code 12 on. -/
theorem wordOps_eq (c : Issue) (s : State) : c.wordOps s = fun p =>
    let n := if 16 ≤ c.b.mdN then 8 else 4
    let b := c.regB s p.lane
    if 16 ≤ c.b.mdN ∧ 12 ≤ c.b.mdN % 16 then
      [({ lane := p.lane, half := 0, len := 4, va := p.va, loc := p.loc, b := b % 2 ^ 32, bHigh := 0 } : WordOp),
       { lane := p.lane, half := 1, len := 4, va := p.va + 4, loc := p.loc.plus 4, b := b / 2 ^ 32, bHigh := 0 }]
    else [{ lane := p.lane, half := 0, len := n, va := p.va, loc := p.loc, b := b % 2 ^ (8 * n), bHigh := b / 2 ^ (8 * n) % 2 ^ (8 * n) }] := by
  funext p
  simp [Issue.wordOps, Issue.atomW2, Issue.atomN]

theorem ask_eq (c : Issue) (win : Bool) : c.ask win =
    { kind := .rmw, align := if 16 ≤ c.b.mdN then 8 else 4, win := win, spOnly := true
      w2 := decide (16 ≤ c.b.mdN ∧ 12 ≤ c.b.mdN % 16) } := by
  simp [Issue.ask, Issue.atomN, Issue.atomW2]

/-! ## The arithmetic of a word operation (R185) -/

/-- The two signed readings of the model agree. -/
theorem signedOf_eq_intOf (w x : Nat) : signedOf w x = intOf w true x := by
  have hlt : x % 2 ^ w < 2 ^ w := Nat.mod_lt _ (Nat.two_pow_pos w)
  have hbit : (x % 2 ^ w).testBit (w - 1) = decide (2 ^ (w - 1) ≤ x % 2 ^ w) := by
    rcases Nat.eq_zero_or_pos w with rfl | hw
    · simp [Nat.mod_one]
    · rw [Nat.testBit_eq_decide_div_mod_eq, decide_eq_decide]
      have hpow : 2 ^ w = 2 * 2 ^ (w - 1) := (mul_pow_sub_one hw.ne' 2).symm
      have hpos := Nat.two_pow_pos (w - 1)
      have hdiv : x % 2 ^ w / 2 ^ (w - 1) < 2 := Nat.div_lt_of_lt_mul (by omega)
      rw [Nat.mod_eq_of_lt hdiv, ← Nat.one_le_div_iff hpos]
      omega
  unfold signedOf intOf
  simp only [hbit, Bool.true_and, decide_eq_true_eq, ← Nat.not_lt, ite_not]

section
variable (m old b h : Nat)

theorem wordOp_min : intOf (8 * m) true (wordOp 1 m old b h) = min (intOf (8 * m) true old) (intOf (8 * m) true b) := by
  simp only [wordOp, signedOf_eq_intOf]
  split <;> omega

theorem wordOp_max : intOf (8 * m) true (wordOp 2 m old b h) = max (intOf (8 * m) true old) (intOf (8 * m) true b) := by
  simp only [wordOp, signedOf_eq_intOf]
  split <;> omega

end

/-! ## A word operation in the L1 of a core that owns its line (R186, R187) -/

@[simp] theorem length_leBytesOf (n x : Nat) : (leBytesOf n x).length = n := by
  induction n generalizing x with
  | zero => rfl
  | succ n ih => exact congrArg (· + 1) (ih _)

theorem readBytes_eq_map (f : Nat → Byte) (a n : Nat) : readBytes f a n = (List.range n).map fun i => f (a + i) := by
  induction n generalizing a with
  | zero => rfl
  | succ n ih =>
    rw [readBytes, ih, List.range_succ_eq_map, List.map_cons, List.map_map]
    exact congrArg (_ :: ·) (List.map_congr_left fun i _ => congrArg f (Nat.add_right_comm ..))

theorem cput_rising {α : Type} [DecidableEq α] {d : α} {m : Map α} (hm : mrising m = true) (k : Nat) (v : α) :
    mrising (cput m k d v) = true := by
  unfold cput
  split
  · exact mdel_rising hm k
  · exact mput_rising hm k v

/-- Cells written one after another at keys that differ read back. -/
theorem cget_foldl_cput {α : Type} [DecidableEq α] {d : α} {key : Nat → Nat} (hkey : ∀ i j, key i = key j → i = j) (g : Nat → α) (n : Nat)
    {m : Map α} (hm : mrising m = true) {i : Nat} (hi : i < n) :
    cget ((List.range n).foldl (fun m i => cput m (key i) d (g i)) m) (key i) d = g i := by
  induction n with
  | zero => exact absurd hi (Nat.not_lt_zero i)
  | succ n ih =>
    have hrise : mrising ((List.range n).foldl (fun m i => cput m (key i) d (g i)) m) = true :=
      List.foldlRecOn (motive := fun m => mrising m = true) _ _ hm fun _ hm _ _ => cput_rising hm _ _
    rw [List.range_succ, List.foldl_append, List.foldl_cons, List.foldl_nil]
    by_cases hin : i = n
    · rw [hin, cget_cput_same hrise]
    · rw [cget_cput_other _ _ fun e => hin (hkey _ _ e), ih (by omega)]

/-- Merging the writes of an instruction changes no L1. -/
theorem merged_stored (m : Mem) (core pa : Nat) (bs : List Byte) (rels : List Rel) (n : Nat) :
    (m.stored core pa bs rels).merged n = (m.merged n).stored core pa bs rels := rfl

/-- The location of a word operation is in one line that the core owns, and not poisoned. -/
def WordOp.fits (o : WordOp) (s : State) (core pa : Nat) : Prop :=
  o.loc = .mem pa ∧ pa % 128 + o.len ≤ 128 ∧ s.locBad core (.mem pa) o.len = false ∧ mget s.m.own (pa / 128) = some core

/-- The old bytes of a word operation at an address, and those that it leaves. -/
def WordOp.oldBytes (o : WordOp) (s : State) (core pa : Nat) : List Byte := readBytes (s.m.coreByte core) pa o.len
def WordOp.newBytes (o : WordOp) (s : State) (core pa code : Nat) : List Byte :=
  leBytesOf o.len (wordOp code o.len (leVal (o.oldBytes s core pa)) o.b o.bHigh)

theorem length_newBytes (o : WordOp) (s : State) (core pa code : Nat) : (o.newBytes s core pa code).length = o.len := length_leBytesOf ..

theorem oldBytes_eq_locBytes (o : WordOp) (s : State) (core pa : Nat) : o.oldBytes s core pa = s.locBytes core (.mem pa) o.len :=
  readBytes_eq_map ..

section
variable {s : State} {w code pa : Nat} {o : WordOp} (got : Map Byte) (bad : List Nat) (h : o.fits s (coreOf w) pa)
include h

/-- A word operation that fits stores its new bytes as a plain store does, notes the old ones and marks nothing. -/
theorem doWordOp_of_fits : ∃ rels,
    s.doWordOp w (.l1 (coreOf w)) code o got bad =
      (s.storeLine (coreOf w) pa (o.newBytes s (coreOf w) pa code) rels,
       (List.range o.len).foldl (fun g i => cput g (32 * o.lane + 4 * o.half + i) 0#8 ((o.oldBytes s (coreOf w) pa).getD i 0#8)) got, bad) := by
  obtain ⟨hloc, -, hgood, -⟩ := h
  have hzip : ((List.range o.len).map fun i => 32 * o.lane + 4 * o.half + i).zip (o.oldBytes s (coreOf w) pa) =
      (List.range o.len).map fun i => (32 * o.lane + 4 * o.half + i, (o.oldBytes s (coreOf w) pa).getD i 0#8) := by
    rw [WordOp.oldBytes, readBytes_eq_map, List.zip_map']
    exact List.map_congr_left fun i hi => by simp [List.mem_range.mp hi]
  unfold State.doWordOp
  simp only [hloc, hgood, ← oldBytes_eq_locBytes, hzip, List.foldl_map]
  exact ⟨_, rfl⟩

/-- The memory after it is that after a plain store of an owned line. -/
theorem doWordOp_m : ∃ rels, (s.doWordOp w (.l1 (coreOf w)) code o got bad).1.m =
    s.m.stored (coreOf w) pa (o.newBytes s (coreOf w) pa code) rels := by
  obtain ⟨rels, he⟩ := doWordOp_of_fits (code := code) got bad h
  obtain ⟨-, -, -, hown⟩ := h
  exact ⟨rels, by rw [he, storeLine_m, recallFrom_of_unowned (line := lineOf pa) (.inr hown)]⟩

theorem coreByte_doWordOp {i : Nat} (hi : i < o.len) :
    (s.doWordOp w (.l1 (coreOf w)) code o got bad).1.m.coreByte (coreOf w) (pa + i) = (o.newBytes s (coreOf w) pa code).getD i 0#8 := by
  obtain ⟨rels, hm⟩ := doWordOp_m (code := code) got bad h
  obtain ⟨-, hfit, -⟩ := h
  rw [hm]
  exact coreByte_stored_same _ _ (by rwa [length_newBytes]) (by rwa [length_newBytes])

/-- The old bytes are noted for the lane. -/
theorem got_doWordOp (hgot : mrising got = true) {i : Nat} (hi : i < o.len) :
    cget (s.doWordOp w (.l1 (coreOf w)) code o got bad).2.1 (32 * o.lane + 4 * o.half + i) 0#8 = (o.oldBytes s (coreOf w) pa).getD i 0#8 := by
  obtain ⟨rels, he⟩ := doWordOp_of_fits (code := code) got bad h
  rw [he]
  exact cget_foldl_cput (fun _ _ => Nat.add_left_cancel) _ _ hgot hi

end

/-- A second operation at the location reads what the first left, and its bytes stand at last (R186). -/
theorem coreByte_doWordOps {s : State} {w code pa : Nat} {o o' : WordOp} (got : Map Byte) (bad : List Nat)
    (h' : o'.fits (s.doWordOp w (.l1 (coreOf w)) code o got bad).1 (coreOf w) pa) {i : Nat}
    (hi : i < o'.len) :
    (s.doWordOps w (.l1 (coreOf w)) code [o, o'] got bad).1.m.coreByte (coreOf w) (pa + i) =
      (o'.newBytes (s.doWordOp w (.l1 (coreOf w)) code o got bad).1 (coreOf w) pa code).getD i 0#8 := by
  have hm : (s.doWordOps w (.l1 (coreOf w)) code [o, o'] got bad).1.m =
      ((s.doWordOp w (.l1 (coreOf w)) code o got bad).1.doWordOp w (.l1 (coreOf w)) code o'
        (s.doWordOp w (.l1 (coreOf w)) code o got bad).2.1 (s.doWordOp w (.l1 (coreOf w)) code o got bad).2.2).1.m.merged s.m.writes := rfl
  obtain ⟨rels, hm'⟩ := doWordOp_m (code := code) (s.doWordOp w (.l1 (coreOf w)) code o got bad).2.1
    (s.doWordOp w (.l1 (coreOf w)) code o got bad).2.2 h'
  obtain ⟨-, hfit, -⟩ := h'
  rw [hm, hm', merged_stored]
  exact coreByte_stored_same _ _ (by rwa [length_newBytes]) (by rwa [length_newBytes])

/-- Settles O34: each row is the issue of its checks and word operations, and a word operation at an owned line is a plain store of its
new bytes. -/
theorem atomics : Obligations.Atomics := by
  unfold Obligations.Atomics
  refine ⟨fun x s s1 c ps => ?_, fun m old b h => ?_, fun s w code pa o o' got bad => ?_⟩
  · simp only [← wordOps_eq, ← ask_eq]
    refine ⟨fun hs hw hcheck => (issuesAs_atom x).does hs ((if_neg hw).trans (global_ok hcheck _)),
      fun hs hw hcheck => (issuesAs_atom x).does hs ((if_pos hw).trans (scratch_ok hcheck)),
      fun hs hcheck => (issuesAs_atomf x).does hs (global_ok hcheck _), fun hs hcheck => (issuesAs_red x).does hs (global_ok hcheck _),
      fun i t hi hs => ?_, fun t hs hw hcheck => (issuesAs_atom x).traps hs ((if_pos hw).trans (scratch_error hcheck))⟩
    rcases hi with ⟨rfl, hw, hcheck⟩ | ⟨rfl | rfl, hcheck⟩
    · exact (issuesAs_atom x).failsCheck hs ((if_neg hw).trans (global_error hcheck _))
    · exact (issuesAs_atomf x).failsCheck hs (global_error hcheck _)
    · exact (issuesAs_red x).failsCheck hs (global_error hcheck _)
  · exact ⟨rfl, wordOp_min .., wordOp_max .., rfl, rfl, fun k => ⟨Nat.testBit_and .., Nat.testBit_or .., Nat.testBit_xor ..⟩, rfl, rfl,
      rfl, rfl, rfl, rfl, rfl⟩
  · intro core fits old new r hfits
    obtain ⟨rels, he⟩ := doWordOp_of_fits (code := code) got bad hfits
    exact ⟨congrArg (·.2.2) he, fun i => coreByte_doWordOp got bad hfits, fun hgot i => got_doWordOp got bad hfits hgot,
      fun hfits' i => coreByte_doWordOps got bad hfits'⟩

end Sys2Proof.Machine

/-! # Prefetches, fences and cache maintenance (R180, R182, R183) -/

namespace Sys2Proof.Machine

section
variable (x : Body)

theorem issuesAs_pf : IssuesAs (.pf x) fun _ s => .go { s := s } := fun _ => rfl

theorem issuesAs_fence : IssuesAs (.fence x) fun c s => .go { s := s, work := some (.fence (c.b.mdN / 8) (c.b.mdN % 8)) } := fun _ => rfl

theorem issuesAs_maint (inval : Bool) : IssuesAs (if inval then .inval x else .clean x) (maintEff inval) := by
  cases inval <;> exact fun _ => rfl

end

section
variable (inval : Bool) (c : Issue) (s : State)

/-- The range of a maintenance wraps or touches the window (R183). -/
def Issue.badRange (c : Issue) (s : State) : Prop :=
  let lo := c.addr s 0
  let n := (c.s s c.b.b.toNat).toNat
  n ≠ 0 ∧ (2 ^ 64 < lo + n ∨ (lo < 0xE000020000000 ∧ 0xE000000000000 < lo + n))

theorem maintEff_of_badRange (h : c.badRange s) : maintEff inval c s = .trap { cause := .illegalOperand, mask := c.act } := if_pos h

theorem maintEff_of_low_scope (h : ¬c.badRange s) (hscope : c.b.mdN < 2) : maintEff inval c s = .go { s := s } :=
  (if_neg h).trans (if_pos hscope)

theorem maintEff_of_range (h : ¬c.badRange s) (hscope : 2 ≤ c.b.mdN) {s1 : State} {pages : List (Nat × Nat)}
    (hmap : s.rangeMap (coreOf c.w) (s.ctxNo c.x) (c.addr s 0) (c.s s c.b.b.toNat).toNat = (s1, pages)) :
    maintEff inval c s = .go { s := s1, work := some (.maint inval c.b.mdN
      (s1.maintLines (coreOf c.w) c.x pages (c.addr s 0) (c.s s c.b.b.toNat).toNat)) } := by
  refine ((if_neg h).trans (if_neg (Nat.not_lt.mpr hscope))).trans ?_
  rw [hmap]

end

/-- Settles O35: each row is the issue of its effect, and that of CLEAN and INVAL goes by their range and scope. -/
theorem fencesAndMaintenance : Obligations.FencesAndMaintenance := by
  unfold Obligations.FencesAndMaintenance
  intro x s c lo n wrong
  refine ⟨fun hs => (issuesAs_pf x).does hs rfl, fun hs => (issuesAs_fence x).does hs rfl, ?_⟩
  rintro inval i rfl hs
  exact ⟨fun hw => (issuesAs_maint x inval).traps hs (maintEff_of_badRange inval c s hw),
    fun hw hscope => (issuesAs_maint x inval).does hs (maintEff_of_low_scope inval c s hw hscope),
    fun hw hscope s1 pages hmap => (issuesAs_maint x inval).does hs (maintEff_of_range inval c s hw hscope hmap)⟩

end Sys2Proof.Machine

/-! # The multi-line conditional store (R189 to R192) -/

namespace Sys2Proof.Machine

/-- An instruction that waits for the wave's older accesses issues once they have been performed (log entry 21). -/
theorem settled_eq {c : Issue} (h : c.x.settled = true) (k : Eff) : c.settled k = k := by
  rw [Issue.settled, if_pos h]

theorem mlAccess_ok {c : Issue} {s s1 : State} {k : AccKind} {ps : List Piece}
    (h : s.checkGlobal (coreOf c.w) (s.ctxNo c.x) c.x.blk { kind := k, align := c.mlN, win := false }
      [{ lane := c.low, va := c.addr s c.low, n := c.mlN }] = (s1, .ok ps))
    (f : State → List Piece → Eff) : c.mlAccess s k f = f s1 ps := by
  rw [Issue.mlAccess, h]

/-! ## MLRES (R190, R191) -/

/-- The line of an access. -/
def firstLine (ps : List Piece) : Nat := lineOf (firstPa ps)

/-- The transaction reserves the line of an access. -/
def Issue.mlKnown (c : Issue) (ps : List Piece) : Bool := c.x.txn.lines.any fun p => p.1 == firstLine ps

/-- MLRES reads its line with the buffered stores over it. -/
def Issue.mlRead (c : Issue) (ps : List Piece) (s : State) (buf : List Put) : Fx :=
  { s := c.watchNow s ps false true, parts := ps
    work := some (.bound (c.toSD (leVal (overlay buf (firstPa ps) (readBytes (s.m.coreByte (coreOf c.w)) (firstPa ps) c.mlN))))) }

/-- The line of MLRES fetched: owned, unless the transaction is disturbed (log entry 42). -/
def Issue.mlFetched (c : Issue) (s : State) (ps : List Piece) : State :=
  if !c.x.txn.disturbed.isEmpty then s.fill (coreOf c.w) (firstLine ps) else s.exclusive (coreOf c.w) (firstLine ps)

/-- A transaction with a line more; of a disturbed one the line counts as disturbed. -/
def Issue.mlAdded (c : Issue) (clock line : Nat) (y : Wave) : Wave :=
  { y with txn := { y.txn with lines := y.txn.lines ++ [(line, clock)]
                               disturbed := if !c.x.txn.disturbed.isEmpty then ladd y.txn.disturbed line else y.txn.disturbed } }

/-- The line fetched and reserved. -/
def Issue.mlClaimed (c : Issue) (s : State) (ps : List Piece) : State :=
  if c.mlKnown ps then c.mlFetched s ps else (c.mlFetched s ps).modWave c.w (c.mlAdded s.clock (firstLine ps))

/-- The effect of MLRES whose access passes its check. -/
def mlresEff (c : Issue) (s : State) (ps : List Piece) : Eff :=
  if c.x.txn.lost then c.settled (.go (c.mlRead ps (s.fill (coreOf c.w) (firstLine ps)) []))
  else if !c.mlKnown ps && c.x.txn.lines.length ≥ 4 then .trap { cause := .mlLimit, mask := c.con }
  else if !c.mlKnown ps && !(s.reservedOn (coreOf c.w)).contains (firstLine ps) && (s.reservedOn (coreOf c.w)).length ≥ 64 then .wait
  else c.settled (.go (c.mlRead ps (c.mlClaimed s ps) c.x.txn.buf))

theorem issuesAs_mlres (x : Body) : IssuesAs (.mlres x) fun c s => c.mlAccess s .load (mlresEff c) := fun _ => rfl

section
variable {c : Issue} {s : State} {ps : List Piece}

theorem mlKnown_iff : c.mlKnown ps = true ↔ ∃ p ∈ c.x.txn.lines, p.1 = firstLine ps := by
  simp [Issue.mlKnown]

theorem mlKnown_eq_false (h : ¬∃ p ∈ c.x.txn.lines, p.1 = firstLine ps) : c.mlKnown ps = false :=
  Bool.eq_false_iff.mpr fun hk => h (mlKnown_iff.mp hk)

theorem mlresEff_of_lost (hset : c.x.settled = true) (h : c.x.txn.lost = true) :
    mlresEff c s ps = .go (c.mlRead ps (s.fill (coreOf c.w) (firstLine ps)) []) :=
  (if_pos h).trans (settled_eq hset _)

theorem mlresEff_of_limit (hl : c.x.txn.lost = false) (hk : c.mlKnown ps = false) (hn : 4 ≤ c.x.txn.lines.length) :
    mlresEff c s ps = .trap { cause := .mlLimit, mask := c.con } := by
  simp [mlresEff, hl, hk, hn]

theorem mlresEff_of_known {t : State} (hset : c.x.settled = true) (hl : c.x.txn.lost = false) (hk : c.mlKnown ps = true)
    (hfetch : c.mlFetched s ps = t) : mlresEff c s ps = .go (c.mlRead ps t c.x.txn.buf) := by
  simp [mlresEff, hl, hk, Issue.mlClaimed, settled_eq hset, hfetch]

/-- A line that the transaction does not reserve yet finds room in it and on its core. -/
theorem mlresEff_of_room {t : State} {g : Wave → Wave} (hset : c.x.settled = true) (hl : c.x.txn.lost = false) (hk : c.mlKnown ps = false)
    (hn : c.x.txn.lines.length < 4) (hroom : firstLine ps ∈ s.reservedOn (coreOf c.w) ∨ (s.reservedOn (coreOf c.w)).length < 64)
    (hfetch : c.mlFetched s ps = t) (hadd : c.mlAdded s.clock (firstLine ps) = g) :
    mlresEff c s ps = .go (c.mlRead ps (t.modWave c.w g) c.x.txn.buf) := by
  have hheld : ¬(firstLine ps ∉ s.reservedOn (coreOf c.w) ∧ 64 ≤ (s.reservedOn (coreOf c.w)).length) := by
    rintro ⟨hnot, hfull⟩
    exact hroom.elim hnot hfull.not_gt
  simp [mlresEff, hl, hk, Issue.mlClaimed, settled_eq hset, Nat.not_le.mpr hn, hheld, hfetch, hadd]

theorem mlFetched_of_undisturbed (h : c.x.txn.disturbed = []) : c.mlFetched s ps = s.exclusive (coreOf c.w) (firstLine ps) := by
  simp [Issue.mlFetched, h]

theorem mlFetched_of_disturbed (h : c.x.txn.disturbed ≠ []) : c.mlFetched s ps = s.fill (coreOf c.w) (firstLine ps) := by
  simp [Issue.mlFetched, h]

theorem mlAdded_of_undisturbed (h : c.x.txn.disturbed = []) (clock line : Nat) : c.mlAdded clock line = fun y =>
    { y with txn := { y.txn with lines := y.txn.lines ++ [(line, clock)] } } := by
  funext y
  simp [Issue.mlAdded, h]

theorem mlAdded_of_disturbed (h : c.x.txn.disturbed ≠ []) (clock line : Nat) : c.mlAdded clock line = fun y =>
    { y with txn := { y.txn with lines := y.txn.lines ++ [(line, clock)], disturbed := ladd y.txn.disturbed line } } := by
  funext y
  simp [Issue.mlAdded, h]

end

/-! ## MLST (R190) -/

/-- A transaction with a store more in its buffer. -/
def Issue.mlBuffered (c : Issue) (s : State) (p : Piece) (y : Wave) : Wave :=
  { y with txn := { y.txn with buf := y.txn.buf ++ [{ at' := { p with len := c.mlN }, bytes := c.data s c.mlN c.low }] } }

/-- The effect of MLST whose access passes its check. -/
def mlstEff (c : Issue) (s : State) (ps : List Piece) : Eff :=
  if c.x.txn.lost then .go { s := s }
  else if !c.mlKnown ps then .trap { cause := .mlState, mask := c.con }
  else if c.x.txn.buf.length ≥ 16 then .trap { cause := .mlLimit, mask := c.con }
  else
    match ps with
    | [] => .go { s := s }
    | p :: _ => .go { s := s.modWave c.w (c.mlBuffered s p) }

theorem issuesAs_mlst (x : Body) : IssuesAs (.mlst x) fun c s => c.mlAccess s .store (mlstEff c) := fun _ => rfl

section
variable {c : Issue} {s : State} {ps : List Piece}

theorem mlstEff_of_lost (h : c.x.txn.lost = true) : mlstEff c s ps = .go { s := s } := if_pos h

theorem mlstEff_of_unreserved (hl : c.x.txn.lost = false) (hk : c.mlKnown ps = false) :
    mlstEff c s ps = .trap { cause := .mlState, mask := c.con } := by
  simp [mlstEff, hl, hk]

theorem mlstEff_of_full (hl : c.x.txn.lost = false) (hk : c.mlKnown ps = true) (hn : 16 ≤ c.x.txn.buf.length) :
    mlstEff c s ps = .trap { cause := .mlLimit, mask := c.con } := by
  simp [mlstEff, hl, hk, hn]

theorem mlstEff_of_room {p : Piece} {rest : List Piece} (hl : c.x.txn.lost = false) (hk : c.mlKnown (p :: rest) = true)
    (hn : c.x.txn.buf.length < 16) : mlstEff c s (p :: rest) = .go { s := s.modWave c.w (c.mlBuffered s p) } := by
  simp [mlstEff, hl, hk, Nat.not_le.mpr hn]

end

/-! ## MLCOMMIT and MLABORT (R191, R192) -/

/-- A wave whose transaction has ended. -/
def Wave.mlEnded (y : Wave) : Wave := { y with txn := {} }

/-- MLCOMMIT ends the transaction and answers a status. -/
def Issue.mlAnswer (c : Issue) (s : State) (st : Nat) : Fx :=
  { s := (s.modWave c.w Wave.mlEnded).notDiscardable c.x.blk, work := some (.bound (c.toSD st)), parts := c.x.txn.buf.map Put.at' }

/-- The state after a commit that nothing disturbed. -/
def Issue.mlCommitted (c : Issue) (s : State) : State :=
  c.watchNow ((s.commitAcquire (coreOf c.w) c.b.mdN (c.x.txn.lines.map Prod.fst)).commit (coreOf c.w) c.b.mdN (c.x.fences (coreOf c.w)) c.x.txn.buf)
    (c.x.txn.buf.map Put.at') true true

theorem issuesAs_mlcommit (x : Body) : IssuesAs (.mlcommit x) fun c s =>
    if c.x.txn.status ≠ 0 then .go (c.mlAnswer s c.x.txn.status) else c.settled (.go (c.mlAnswer (c.mlCommitted s) 0)) := fun _ => rfl

theorem issuesAs_mlabort (x : Body) : IssuesAs (.mlabort x) fun c s => .go { s := s.modWave c.w Wave.mlEnded } := fun _ => rfl

section
variable {t : Txn}

theorem status_of_ended (h : t.lost = true ∨ t.lines = []) : t.status = if t.lost then 2 else 3 := by
  unfold Txn.status
  split
  next => rfl
  next hl => simp [h.resolve_left hl]

theorem status_of_disturbed (hl : t.lost = false) (hn : t.lines ≠ []) (hd : t.disturbed ≠ []) : t.status = 1 := by
  simp [Txn.status, hl, hn, hd]

theorem status_of_undisturbed (hl : t.lost = false) (hn : t.lines ≠ []) (hd : t.disturbed = []) : t.status = 0 := by
  simp [Txn.status, hl, hn, hd]

end

section
variable {x : Body} {s : State} {c : Issue} (hs : Starts (.mlcommit x) s c)
include hs

theorem mlcommit_fails {n : Nat} (hst : c.x.txn.status = n) (hn : n ≠ 0) : Does (.mlcommit x) s c (c.mlAnswer s n) :=
  (issuesAs_mlcommit x).does hs (by rw [hst, if_pos hn])

theorem mlcommit_commits (hset : c.x.settled = true) (hst : c.x.txn.status = 0) : Does (.mlcommit x) s c (c.mlAnswer (c.mlCommitted s) 0) :=
  (issuesAs_mlcommit x).does hs ((if_neg (not_not.mpr hst)).trans (settled_eq hset _))

end

/-- Settles O36: each row is the issue of its effect, which goes by the state of the transaction. -/
theorem multiLineStores : Obligations.MultiLineStores := by
  unfold Obligations.MultiLineStores
  intro x s s1 c ps n check reserved core line reads
  have hres : ∀ {f : Fx}, Starts (.mlres x) s c → check .load = (s1, .ok ps) → mlresEff c s1 ps = .go f → Does (.mlres x) s c f :=
    fun hs hcheck he => (issuesAs_mlres x).does hs ((mlAccess_ok hcheck _).trans he)
  have hst : ∀ {f : Fx}, Starts (.mlst x) s c → check .store = (s1, .ok ps) → mlstEff c s1 ps = .go f → Does (.mlst x) s c f :=
    fun hs hcheck he => (issuesAs_mlst x).does hs ((mlAccess_ok hcheck _).trans he)
  have hknown : reserved → c.mlKnown ps = true := mlKnown_iff.mpr
  have hnew : ¬reserved → c.mlKnown ps = false := mlKnown_eq_false
  refine ⟨fun hs hset hcheck hl hd hr => hres hs hcheck (mlresEff_of_known hset hl (hknown hr) (mlFetched_of_undisturbed hd)),
    fun hs hset hcheck hl hd hr hn hroom => hres hs hcheck
      (mlresEff_of_room hset hl (hnew hr) hn hroom (mlFetched_of_undisturbed hd) (mlAdded_of_undisturbed hd _ _)),
    fun hs hset hcheck hl => hres hs hcheck (mlresEff_of_lost hset hl),
    fun hs hcheck hl hr hn => (issuesAs_mlres x).traps hs ((mlAccess_ok hcheck _).trans (mlresEff_of_limit hl (hnew hr) hn)),
    fun hs hset hcheck hl hd hr => hres hs hcheck (mlresEff_of_known hset hl (hknown hr) (mlFetched_of_disturbed hd)),
    fun hs hset hcheck hl hd hr hn hroom => hres hs hcheck
      (mlresEff_of_room hset hl (hnew hr) hn hroom (mlFetched_of_disturbed hd) (mlAdded_of_disturbed hd _ _)),
    fun hs hcheck hl => hst hs hcheck (mlstEff_of_lost hl),
    fun hs hcheck hl hr hn => (issuesAs_mlst x).traps hs ((mlAccess_ok hcheck _).trans (mlstEff_of_full hl (hknown hr) hn)),
    fun hs hcheck hl hr hn p rest hps => hst hs hcheck (hps ▸ mlstEff_of_room hl (hps ▸ hknown hr) hn),
    fun hs hcheck hl hr => (issuesAs_mlst x).traps hs ((mlAccess_ok hcheck _).trans (mlstEff_of_unreserved hl (hnew hr))),
    fun hs _ h => mlcommit_fails hs (status_of_ended h) (by split <;> decide),
    fun hs hl hn hd => mlcommit_fails hs (status_of_disturbed hl hn hd) (by decide),
    fun hs hset hl hn hd => mlcommit_commits hs hset (status_of_undisturbed hl hn hd), fun hs => (issuesAs_mlabort x).does hs rfl⟩

end Sys2Proof.Machine

/-! # Parked groups: how lanes park, and what a release leaves (R81, R82, R89) -/

namespace Sys2Proof.Machine

/-! ## Waves of a state -/

theorem mget_map {α : Type} (f : Nat → α → α) (m : Map α) (k : Nat) : mget (m.map fun p => (p.1, f p.1 p.2)) k = (mget m k).map (f k) := by
  induction m with
  | nil => rfl
  | cons p m ih =>
    obtain ⟨j, x⟩ := p
    rw [List.map_cons, mget, mget]
    split
    next e => rw [← e, Option.map_some]
    next => exact ih

theorem wave_mapWaves {s : State} {w : Nat} {x : Wave} (h : s.wave w = some x) (f : Nat → Wave → Wave) :
    (s.mapWaves f).wave w = some (f w x) := (mget_map f s.waves w).trans (congrArg (Option.map (f w)) h)

/-! ## Parking (R81) -/

theorem lane_park {x : Wave} {l : Nat} (h : l < x.lanes.length) (m : Word) (stamp : Nat) (k : ParkKind) : (x.park m stamp k).lane l =
    if m.getLsbD l = true ∧ (x.lane l).st = .live then { x.lane l with st := .parked } else x.lane l := by
  unfold Wave.park
  split
  next hm => simp [hm]
  next hm =>
    refine (lane_mapLanes h _).trans ?_
    simp

/-- Lanes that park: the wave's lanes and its list of groups change, and nothing else. -/
theorem park_eq (x : Wave) (m : Word) (stamp : Nat) (k : ParkKind) : x.park m stamp k =
    { x with lanes := (x.park m stamp k).lanes
             parks := x.parks ++ if m = 0#32 then [] else [{ mask := m, stamp := stamp, kind := k }] } := by
  unfold Wave.park
  split
  next hm => simp
  next hm => rfl

@[simp] theorem length_park (x : Wave) (m : Word) (stamp : Nat) (k : ParkKind) : (x.park m stamp k).lanes.length = x.lanes.length := by
  unfold Wave.park
  split
  next => rfl
  next => exact length_mapLanes ..

/-! ## Releasing (R82, R89) -/

/-- The lanes of the groups that a test selects. -/
def Wave.freed (x : Wave) (sel : Park → Bool) : Word := (x.parks.filter sel).foldl (fun (a : Word) p => a ||| p.mask) 0#32

/-- The wave with these lanes live and these groups gone from its list. -/
def Wave.unparked (x : Wave) (sel : Park → Bool) : Wave :=
  { (x.mapLanes fun l y => if (x.freed sel).getLsbD l && y.st == .parked then { y with st := .live, neglect := 0 } else y) with
    parks := x.parks.filter fun p => !sel p }

/-- What becomes of the instruction of a released group: where no group of it is left it has its result, or completes. -/
def Wave.endPark (clock : Nat) (val : Option Nat) (x : Wave) (p : Park) : Wave :=
  if x.parks.any fun q => q.stamp == p.stamp then x
  else
    match (x.pending p.stamp).map Pend.work, val with
    | some (.park (some d)), some v => x.bind p.stamp clock (d.writes 0 v 0)
    | _, _ => x.complete p.stamp

section
variable (x : Wave) (clock : Nat) (sel : Park → Bool) (val : Option Nat)

theorem unpark_eq : x.unpark clock sel val =
    if (x.parks.filter sel).isEmpty then x else (x.parks.filter sel).foldl (Wave.endPark clock val) (x.unparked sel) := rfl

theorem unpark_of_none (h : ∀ q ∈ x.parks, sel q = false) : x.unpark clock sel val = x := by
  rw [unpark_eq, if_pos]
  simpa using h

theorem unpark_of_mem {r : Park} (hr : r ∈ x.parks) (hsel : sel r = true) :
    x.unpark clock sel val = (x.parks.filter sel).foldl (Wave.endPark clock val) (x.unparked sel) := by
  rw [unpark_eq, if_neg]
  simpa using ⟨r, hr, hsel⟩

end

section
variable (clock : Nat) (val : Option Nat)

/-- The end of a group's instruction changes the slots and what is pending of its wave, and nothing else. -/
theorem endPark_eq (x : Wave) (p : Park) : x.endPark clock val p =
    { x with d := (x.endPark clock val p).d, pend := (x.endPark clock val p).pend } := by
  unfold Wave.endPark
  split
  next => rfl
  next =>
    split
    next => rfl
    next => exact complete_eq ..

@[simp] theorem endPark_parks (x : Wave) (p : Park) : (x.endPark clock val p).parks = x.parks := by rw [endPark_eq]
@[simp] theorem endPark_lane (x : Wave) (p : Park) (l : Nat) : (x.endPark clock val p).lane l = x.lane l := by rw [endPark_eq]; rfl

@[simp] theorem foldl_endPark_parks (ps : List Park) (x : Wave) : (ps.foldl (Wave.endPark clock val) x).parks = x.parks := by
  induction ps generalizing x with
  | nil => rfl
  | cons p ps ih => rw [List.foldl_cons, ih, endPark_parks]

@[simp] theorem foldl_endPark_lane (ps : List Park) (x : Wave) (l : Nat) : (ps.foldl (Wave.endPark clock val) x).lane l = x.lane l := by
  induction ps generalizing x with
  | nil => rfl
  | cons p ps ih => rw [List.foldl_cons, ih, endPark_lane]

end

/-- The lanes of a selected group are among those freed. -/
theorem getLsbD_freed {x : Wave} {sel : Park → Bool} {r : Park} {l : Nat} (hr : r ∈ x.parks) (hsel : sel r = true)
    (hm : r.mask.getLsbD l = true) : (x.freed sel).getLsbD l = true := by
  have hfold (ps : List Park) (a : Word) (h : a.getLsbD l = true ∨ r ∈ ps) :
      (ps.foldl (fun (a : Word) p => a ||| p.mask) a).getLsbD l = true := by
    induction ps generalizing a with
    | nil => exact h.resolve_right List.not_mem_nil
    | cons p ps ih =>
      refine ih _ ?_
      rcases h with h | h
      · exact .inl (by rw [BitVec.getLsbD_or, h, Bool.true_or])
      · rcases List.mem_cons.mp h with rfl | h
        · exact .inl (by rw [BitVec.getLsbD_or, hm, Bool.or_true])
        · exact .inr h
  exact hfold _ _ (.inr (List.mem_filter.mpr ⟨hr, hsel⟩))

/-- A state that holds a wave released by a test has woken every group that the test selects (R82, R89). -/
theorem wakes_of_unpark {t : State} {w clock : Nat} {x : Wave} {sel : Park → Bool} {val : Option Nat} {r : Park}
    (ht : t.wave w = some (x.unpark clock sel val)) (hr : r ∈ x.parks) (hsel : sel r = true) : wakes t w x r := by
  rw [unpark_of_mem x clock sel val hr hsel] at ht
  refine ⟨_, ht, ?_, fun l hl _ hm hst => ?_⟩
  · simp [Wave.unparked, hsel]
  · rw [foldl_endPark_lane]
    refine (lane_mapLanes hl _).trans ?_
    simp [getLsbD_freed hr hsel hm, hst]

/-! ## The instruction of a released group (R82) -/

theorem pending_complete_of_none {x : Wave} {n : Nat} (h : x.pending n = none) (m : Nat) : (x.complete m).pending n = none := by
  unfold Wave.complete
  split
  next => exact h
  next p hp =>
    simp only [Wave.pending, List.find?_eq_none] at h ⊢
    exact fun q hq => h q (List.mem_filter.mp hq).1

theorem pending_complete_of_ne {n m : Nat} (h : m ≠ n) (x : Wave) : (x.complete m).pending n = x.pending n := by
  unfold Wave.complete
  split
  next => rfl
  next p hp =>
    simp only [Wave.pending, List.find?_filter]
    exact List.find?_congr fun q _ => by by_cases hq : q.stamp = n <;> simp [hq, h.symm]

/-- A pending instruction with its results known. -/
def Pend.bound (n due : Nat) (ws : List RegWrite) (q : Pend) : Pend := if q.stamp == n then { q with work := .bound ws, due := due } else q

theorem pend_bind (x : Wave) (n due : Nat) (ws : List RegWrite) : x.bind n due ws = { x with pend := x.pend.map (Pend.bound n due ws) } := rfl

@[simp] theorem stamp_bound (n due : Nat) (ws : List RegWrite) (q : Pend) : (q.bound n due ws).stamp = q.stamp := by
  unfold Pend.bound
  split <;> rfl

theorem pending_bind_of_none {x : Wave} {n : Nat} (h : x.pending n = none) (m due : Nat) (ws : List RegWrite) :
    (x.bind m due ws).pending n = none := by
  simp only [Wave.pending, List.find?_eq_none] at h
  simpa [pend_bind, Wave.pending] using h

theorem pending_bind {x : Wave} {n : Nat} {p : Pend} (h : x.pending n = some p) (m due : Nat) (ws : List RegWrite) :
    (x.bind m due ws).pending n = some (p.bound m due ws) := pending_map (stamp_bound m due ws) h

theorem pending_bind_same {x : Wave} {n : Nat} {p : Pend} (h : x.pending n = some p) (due : Nat) (ws : List RegWrite) :
    (x.bind n due ws).pending n = some { p with work := .bound ws, due := due } :=
  (pending_bind h n due ws).trans (congrArg some (if_pos (beq_iff_eq.mpr (stamp_of_pending h))))

theorem pending_bind_of_ne {n m : Nat} (h : m ≠ n) (x : Wave) (due : Nat) (ws : List RegWrite) :
    (x.bind m due ws).pending n = x.pending n := by
  cases hp : x.pending n with
  | none => exact pending_bind_of_none hp ..
  | some p =>
    refine (pending_bind hp ..).trans (congrArg some (if_neg fun e => h ?_))
    rw [← beq_iff_eq.mp e, stamp_of_pending hp]

section
variable {clock : Nat} {val : Option Nat}

theorem pending_endPark_of_none {x : Wave} {n : Nat} (h : x.pending n = none) (p : Park) : (x.endPark clock val p).pending n = none := by
  unfold Wave.endPark
  split
  next => exact h
  next =>
    split
    next => exact pending_bind_of_none h ..
    next => exact pending_complete_of_none h _

theorem pending_endPark_of_ne {n : Nat} {p : Park} (h : p.stamp ≠ n) (x : Wave) : (x.endPark clock val p).pending n = x.pending n := by
  unfold Wave.endPark
  split
  next => rfl
  next =>
    split
    next => exact pending_bind_of_ne h ..
    next => exact pending_complete_of_ne h x

theorem pending_foldl_endPark_of_none {n : Nat} (ps : List Park) {x : Wave} (h : x.pending n = none) :
    (ps.foldl (Wave.endPark clock val) x).pending n = none :=
  List.foldlRecOn (motive := fun x : Wave => x.pending n = none) _ _ h fun _ h p _ => pending_endPark_of_none h p

theorem pending_foldl_endPark_of_ne {n : Nat} {ps : List Park} (h : ∀ p ∈ ps, p.stamp ≠ n) (x : Wave) :
    (ps.foldl (Wave.endPark clock val) x).pending n = x.pending n := by
  induction ps generalizing x with
  | nil => rfl
  | cons p ps ih =>
    rw [List.forall_mem_cons] at h
    exact (ih h.2 _).trans (pending_endPark_of_ne h.1 x)

end

theorem endPark_none {x : Wave} {clock : Nat} {p : Park} (h : (x.parks.any fun q => q.stamp == p.stamp) = false) :
    x.endPark clock none p = x.complete p.stamp := by
  simp [Wave.endPark, h]

theorem endPark_some {x : Wave} {clock v : Nat} {p : Park} {q : Pend} {d : Dst} (h : (x.parks.any fun q => q.stamp == p.stamp) = false)
    (hp : x.pending p.stamp = some q) (hwork : q.work = .park (some d)) :
    x.endPark clock (some v) p = x.bind p.stamp clock (d.writes 0 v 0) := by
  simp [Wave.endPark, h, hp, hwork]

section
variable {x : Wave} {clock : Nat} {sel : Park → Bool} {r : Park} (hr : r ∈ x.parks) (hsel : sel r = true)

/-- A release that takes every group of an instruction leaves none of them. -/
theorem no_group_left (hall : ∀ q ∈ x.parks, q.stamp = r.stamp → sel q = true) (val : Option Nat) (ps : List Park) :
    ((ps.foldl (Wave.endPark clock val) (x.unparked sel)).parks.any fun q => q.stamp == r.stamp) = false := by
  rw [foldl_endPark_parks]
  simp only [Wave.unparked, List.any_eq_false, List.mem_filter, beq_iff_eq, Bool.not_eq_true']
  rintro q ⟨hq, hnot⟩ hstamp
  rw [hall q hq hstamp] at hnot
  cases hnot

include hr hsel

/-- Where a release takes every group of an instruction and gives no result, the instruction is pending no more. -/
theorem pending_unpark_none (hall : ∀ q ∈ x.parks, q.stamp = r.stamp → sel q = true) :
    (x.unpark clock sel none).pending r.stamp = none := by
  obtain ⟨before, after, hout⟩ := List.append_of_mem (List.mem_filter.mpr ⟨hr, hsel⟩)
  rw [unpark_of_mem x clock sel none hr hsel, hout, List.foldl_append, List.foldl_cons, endPark_none (no_group_left hall ..)]
  exact pending_foldl_endPark_of_none _ (pending_complete ..)

/-- Where a release takes the one group of an instruction and gives a value, the value is what the instruction's result is bound to. -/
theorem pending_unpark_some {p : Pend} {d : Dst} {v : Nat} (hone : (x.parks.filter fun q => q.stamp == r.stamp) = [r])
    (hp : x.pending r.stamp = some p) (hwork : p.work = .park (some d)) :
    (x.unpark clock sel (some v)).pending r.stamp = some { p with work := .bound (d.writes 0 v 0), due := clock } := by
  obtain ⟨before, after, hout⟩ := List.append_of_mem (List.mem_filter.mpr ⟨hr, hsel⟩)
  have hsplit : before.filter (fun q => q.stamp == r.stamp) ++ r :: after.filter (fun q => q.stamp == r.stamp) = [r] := by
    have hsame := congrArg (List.filter fun q => q.stamp == r.stamp) hout
    rwa [List.filter_comm, hone, List.filter_cons_of_pos hsel, List.filter_nil, List.filter_append,
      List.filter_cons_of_pos (p := fun q : Park => q.stamp == r.stamp) (beq_self_eq_true r.stamp), eq_comm] at hsame
  have hlen := congrArg List.length hsplit
  rw [List.length_append, List.length_cons, List.length_singleton] at hlen
  have hbefore : ∀ q ∈ before, q.stamp ≠ r.stamp := by
    simpa using List.filter_eq_nil_iff.mp (List.length_eq_zero_iff.mp (show (before.filter fun q => q.stamp == r.stamp).length = 0 by omega))
  have hafter : ∀ q ∈ after, q.stamp ≠ r.stamp := by
    simpa using List.filter_eq_nil_iff.mp (List.length_eq_zero_iff.mp (show (after.filter fun q => q.stamp == r.stamp).length = 0 by omega))
  have hall : ∀ q ∈ x.parks, q.stamp = r.stamp → sel q = true := fun q hq hstamp => by
    have hmem : q ∈ x.parks.filter fun q => q.stamp == r.stamp := List.mem_filter.mpr ⟨hq, beq_iff_eq.mpr hstamp⟩
    rw [hone, List.mem_singleton] at hmem
    rw [hmem, hsel]
  have hp' : (before.foldl (Wave.endPark clock (some v)) (x.unparked sel)).pending r.stamp = some p :=
    (pending_foldl_endPark_of_ne hbefore _).trans hp
  rw [unpark_of_mem x clock sel _ hr hsel, hout, List.foldl_append, List.foldl_cons, pending_foldl_endPark_of_ne hafter,
    endPark_some (no_group_left hall ..) hp' hwork]
  exact pending_bind_same hp' ..

end

end Sys2Proof.Machine

/-! # Barriers: initialisation, enrolment, arrival and query (R95, R193 to R198) -/

namespace Sys2Proof.Machine

/-! ## The barrier that an instruction names (R193, R195) -/

section
variable {c : Issue} {s : State} {id key : Nat}

theorem barrier_some (h : s.barKey (coreOf c.w) c.x.blk id = some key) (f : Nat → Eff) : c.barrier s id f = f key := by
  rw [Issue.barrier, h]

theorem barrier_none (h : s.barKey (coreOf c.w) c.x.blk id = none) (f : Nat → Eff) :
    c.barrier s id f = .trap { cause := .syncRange, mask := c.con } := by
  rw [Issue.barrier, h]
  rfl

theorem enrolledState_eq : enrolledState s c id = (c.x.enrolled id).map fun e => s.modWave c.w fun y => { y with enrol := e } := by
  unfold enrolledState Wave.enrolled
  simp only [List.contains_iff_mem]
  split
  next => rfl
  next => split <;> rfl

theorem enrol_some {t : State} (hkey : s.barKey (coreOf c.w) c.x.blk id = some key) (ht : enrolledState s c id = some t)
    (f : State → Nat → Eff) : c.enrol s id f = f t key := by
  rw [enrolledState_eq, Option.map_eq_some_iff] at ht
  obtain ⟨e, he, rfl⟩ := ht
  rw [Issue.enrol, barrier_some hkey, he]

theorem enrol_full (hkey : s.barKey (coreOf c.w) c.x.blk id = some key) (ht : enrolledState s c id = none) (f : State → Nat → Eff) :
    c.enrol s id f = .trap { cause := .barrierLimit, mask := c.act } := by
  rw [enrolledState_eq, Option.map_eq_none_iff] at ht
  rw [Issue.enrol, barrier_some hkey, ht]
  rfl

theorem enrol_none (h : s.barKey (coreOf c.w) c.x.blk id = none) (f : State → Nat → Eff) :
    c.enrol s id f = .trap { cause := .syncRange, mask := c.con } := barrier_none h _

end

/-! ## What each row issues as -/

/-- A barrier as BARINIT leaves it. -/
def Bar.started (target clock : Nat) : Bar := { target := target, phase := 0, arr := 0, dep := 0, full := false, startClk := clock }

/-- What BARINIT does to the barrier of a key (R195). -/
def barinitEff (c : Issue) (s : State) (key : Nat) : Eff :=
  if c.sB s = 0 ∨ c.sB s > 8192 then .raise .illegalOperand c.act
  else if s.barParked key then .raise .barrierBusy c.con
  else .go { s := (s.putBar key (.started (c.sB s) s.clock)).mapWaves fun _ x =>
               { x with arrivals := x.arrivals.filter fun p => p.1 / 32 != key } }

section
variable (x : Body)

theorem issuesAs_barinit : IssuesAs (.barinit x) fun c s => c.barrier s (c.s s c.b.a.toNat).toNat (barinitEff c s) := fun _ => rfl

theorem issuesAs_barenrol : IssuesAs (.barenrol x) fun c s => c.enrol s (c.sA s) fun s _ => .go { s := s } := fun _ => rfl

theorem issuesAs_bararv : IssuesAs (.bararv x) fun c s => c.enrol s (c.sA s) fun s key =>
    c.settled (.go { s := s.arriveAll c.w key c.lanes false }) := fun _ => rfl

theorem issuesAs_barq : IssuesAs (.barq x) fun c s => c.barrier s (c.sA s) fun key =>
    .go { s := s, work := some (.barq key c.dstS) } := fun _ => rfl

end

/-! ## Queries land (R198) -/

theorem resultLanded_barq {s : State} {w n key : Nat} {x : Wave} {p : Pend} {d : Dst} (hw : s.wave w = some x) (hp : x.pending n = some p)
    (hk : p.work = .barq key d) : exec (.resultLanded w n) s =
      if p.due ≤ s.clock then
        let b := s.bar key (((s.block x.blk).map Block.threads).getD 1)
        .next (s.putWave w (x.bind n s.clock (d.writes 0 (b.arr * 2 ^ 16 + b.phase % 2 ^ 16) 0)))
      else .next s := by
  obtain rfl := stamp_of_pending hp
  dsimp only [exec, execResultLanded]
  simp only [pendOf_eq hw hp, State.land, hk]
  split <;> rfl

/-! ## One lane arrives (R196) -/

section
variable (key clock lane : Nat) (seen : List Nat) (b : Bar) (a : Map Nat)

/-- The barrier with the writes before an arrival noted. -/
def Bar.noted (b : Bar) (seen : List Nat) : Bar := { b with deps := seen.foldl ladd b.deps }

theorem arriveLane_again (h : mget a (arrKey key lane) = some b.phase) : arriveLane key clock false seen (b, a) lane = (b.noted seen, a) :=
  if_pos h

theorem arriveLane_first (h : mget a (arrKey key lane) ≠ some b.phase) :
    arriveLane key clock false seen (b, a) lane = ((b.noted seen).arrive clock, mput a (arrKey key lane) b.phase) := if_neg h

theorem arrive_below (h : b.arr + 1 < b.target) : b.arrive clock = { b with arr := b.arr + 1 } :=
  if_neg fun ⟨_, hreach⟩ => hreach.not_gt h

theorem arrive_reaches (h : b.arr + 1 = b.target) : b.arrive clock = ({ b with arr := b.arr + 1 } : Bar).next clock :=
  if_pos ⟨by omega, h.ge⟩

end

/-- Settles O37: each row is the issue of its effect on the barrier it names, and a lane's arrival goes by whether it has arrived and
whether the count reaches the target. -/
theorem barriers : Obligations.Barriers := by
  unfold Obligations.Barriers
  refine ⟨fun x s c => ?_, fun s w n key x p d hw hp hk => ?_, fun key clock lane seen b a => ?_⟩
  · intro named idA
    refine ⟨fun key hs hkey hlo hhi hfree => ?_, fun i id hi hs hnone => ?_, fun key hs hkey hbad => ?_, fun key hs hkey hlo hhi hbusy => ?_,
      fun key t hs hkey ht => (issuesAs_barenrol x).does hs (enrol_some hkey ht _),
      fun key hs hkey ht => (issuesAs_barenrol x).traps hs (enrol_full hkey ht _),
      fun key t hs hset hkey ht => (issuesAs_bararv x).does hs ((enrol_some hkey ht _).trans (settled_eq hset _)),
      fun key hs hkey => (issuesAs_barq x).does hs (barrier_some hkey _)⟩
    · have hok : ¬(c.sB s = 0 ∨ c.sB s > 8192) := by omega
      have hgo := (issuesAs_barinit x).does hs ((barrier_some hkey _).trans ((if_neg hok).trans (if_neg (Bool.eq_false_iff.mp hfree))))
      exact ⟨_, hgo, rfl, rfl, mget_mput_same .., fun k hk => mget_mput_other _ _ hk⟩
    · rcases hi with ⟨rfl, rfl⟩ | ⟨rfl | rfl | rfl, rfl⟩
      · exact (issuesAs_barinit x).traps hs (barrier_none hnone _)
      · exact (issuesAs_barenrol x).traps hs (enrol_none hnone _)
      · exact (issuesAs_bararv x).traps hs (enrol_none hnone _)
      · exact (issuesAs_barq x).traps hs (barrier_none hnone _)
    · exact (issuesAs_barinit x).traps hs ((barrier_some hkey _).trans (if_pos hbad))
    · have hok : ¬(c.sB s = 0 ∨ c.sB s > 8192) := by omega
      exact (issuesAs_barinit x).traps hs ((barrier_some hkey _).trans ((if_neg hok).trans (if_pos hbusy)))
  · have hland := resultLanded_barq hw hp hk
    exact ⟨fun hdue => hland.trans (if_pos hdue), fun hearly => hland.trans (if_neg hearly.not_ge)⟩
  · intro out
    refine ⟨fun h => ?_, fun h => ?_⟩
    · have hout : out = _ := arriveLane_again key clock lane seen b a h
      rw [hout]
      exact ⟨rfl, rfl⟩
    · have hout : out = _ := arriveLane_first key clock lane seen b a h
      rw [hout]
      refine ⟨rfl, fun hbelow => ?_, fun hreach => ?_⟩
      · rw [arrive_below clock (b.noted seen) hbelow]
        rfl
      · rw [arrive_reaches clock (b.noted seen) hreach]
        exact ⟨rfl, rfl, rfl, rfl, rfl⟩

end Sys2Proof.Machine

/-! # Barrier waits (R197, R275) -/

namespace Sys2Proof.Machine

/-! ## Lists of numbers without repeats -/

theorem mem_ladd {l : List Nat} {k n : Nat} : n ∈ ladd l k ↔ n = k ∨ n ∈ l := by
  induction l with
  | nil => simp [ladd]
  | cons j l ih =>
    unfold ladd
    split
    next => simp
    next =>
      split
      next h => simp [h]
      next => simp [ih, or_left_comm]

theorem mem_foldl_ladd {f : Nat → Nat} {l a : List Nat} {n : Nat} :
    n ∈ l.foldl (fun a x => ladd a (f x)) a ↔ n ∈ a ∨ ∃ x ∈ l, f x = n := by
  induction l generalizing a with
  | nil => simp
  | cons x l ih => simp [ih, mem_ladd, or_assoc, or_left_comm, eq_comm]

/-! ## Groups that park one after another -/

/-- A group for each phase of a barrier, with the lanes that wait for it. -/
def Wave.parkPhases (x : Wave) (key stamp : Nat) (mask : Nat → Word) (phases : List Nat) : Wave :=
  phases.foldl (fun y ph => y.park (mask ph) stamp (.bar key ph)) x

/-- The groups that this makes: one for each phase that some lane waits for. -/
def phaseGroups (key stamp : Nat) (mask : Nat → Word) (phases : List Nat) : List Park :=
  (phases.filter fun ph => mask ph != 0#32).map fun ph => { mask := mask ph, stamp := stamp, kind := .bar key ph }

section
variable (key stamp : Nat) (mask : Nat → Word) (phases : List Nat)

/-- Groups that park: the wave's lanes and its list of groups change, and nothing else. -/
theorem exists_parkPhases_eq (x : Wave) : ∃ lanes, x.parkPhases key stamp mask phases =
    { x with lanes := lanes, parks := x.parks ++ phaseGroups key stamp mask phases } := by
  induction phases generalizing x with
  | nil => exact ⟨x.lanes, by simp [Wave.parkPhases, phaseGroups]⟩
  | cons ph phases ih =>
    obtain ⟨lanes, h⟩ := ih (x.park (mask ph) stamp (.bar key ph))
    refine ⟨lanes, h.trans ?_⟩
    rw [park_eq]
    by_cases hm : mask ph = 0#32 <;> simp [phaseGroups, hm]

theorem lane_parkPhases {x : Wave} {l : Nat} (h : l < x.lanes.length) : (x.parkPhases key stamp mask phases).lane l =
    if (∃ ph ∈ phases, (mask ph).getLsbD l = true) ∧ (x.lane l).st = .live then { x.lane l with st := .parked } else x.lane l := by
  induction phases generalizing x with
  | nil => simp [Wave.parkPhases]
  | cons ph phases ih =>
    refine (ih (x := x.park (mask ph) stamp (.bar key ph)) (by rwa [length_park])).trans ?_
    rw [lane_park h]
    by_cases hm : (mask ph).getLsbD l = true <;> by_cases hst : (x.lane l).st = .live <;> simp [hm, hst]

variable {key stamp mask phases}

theorem mem_phaseGroups {r : Park} : r ∈ phaseGroups key stamp mask phases ↔
    ∃ ph ∈ phases, mask ph ≠ 0#32 ∧ { mask := mask ph, stamp := stamp, kind := .bar key ph } = r := by
  simp [phaseGroups, and_assoc]

end

/-! ## Who waits, and for what (R197) -/

/-- Whether a lane is a contributor that waits for a phase of a barrier that has not completed, or for the end of a stop. -/
def Wave.waitsFor (y : Wave) (key phase : Nat) (held : Bool) (con : Word) (l : Nat) : Bool :=
  con.getLsbD l && (held || decide (phase ≤ y.awaited key phase l))

/-- The contributors that wait for one phase. -/
def Wave.waitMask (y : Wave) (key phase : Nat) (held : Bool) (con : Word) (ph : Nat) : Word :=
  maskOf fun l => y.waitsFor key phase held con l && y.awaited key phase l == ph

/-- The phases that contributors wait for. -/
def Wave.waitedPhases (y : Wave) (key phase : Nat) (held : Bool) (con : Word) : List Nat :=
  ((lanesOf con).filter (y.waitsFor key phase held con)).foldl (fun a l => ladd a (y.awaited key phase l)) []

/-- The contributors that wait for nothing. -/
def Wave.pastLanes (y : Wave) (key phase : Nat) (held : Bool) (con : Word) : List Nat :=
  (lanesOf con).filter fun l => !y.waitsFor key phase held con l

/-- The state after the acquire of the contributors that go on. -/
def Issue.acquired (c : Issue) (u : State) (y : Wave) (key : Nat) (held : Bool) : State :=
  let b := u.bar key (c.threads u)
  let past := y.pastLanes key b.phase held c.con
  if past = [] then u else u.acquireAt (coreOf c.w) (barScope key) (b.before (past.map (y.awaited key b.phase)))

/-- The groups of the contributors that wait, one for each phase. -/
def Wave.waitGroups (y : Wave) (key stamp phase : Nat) (held : Bool) (con : Word) : List Park :=
  phaseGroups key stamp (y.waitMask key phase held con) (y.waitedPhases key phase held con)

/-- The wave with these groups parked. -/
def Wave.parkWaiters (y : Wave) (key stamp phase : Nat) (held : Bool) (con : Word) : Wave :=
  y.parkPhases key stamp (y.waitMask key phase held con) (y.waitedPhases key phase held con)

/-- The contributors that wait park, a group for each phase. -/
def Issue.parkWaiters (c : Issue) (u : State) (y : Wave) (key : Nat) (held : Bool) : State :=
  let phase := (u.bar key (c.threads u)).phase
  (c.acquired u y key held).modWave c.w fun z =>
    z.parkPhases key u.stamp (y.waitMask key phase held c.con) (y.waitedPhases key phase held c.con)

section
variable (y : Wave) (key phase : Nat) (held : Bool) (con : Word)

theorem filter_waitsFor : (lanesOf con).filter (fun l => held || decide (y.awaited key phase l ≥ phase)) =
    (lanesOf con).filter (y.waitsFor key phase held con) :=
  List.filter_congr fun l hl => by simp [Wave.waitsFor, (mem_lanesOf.mp hl).2]

theorem contains_waiters {l : Nat} (hl : l < 32) :
    ((lanesOf con).filter (y.waitsFor key phase held con)).contains l = y.waitsFor key phase held con l := by
  rw [Bool.eq_iff_iff]
  simp only [List.contains_iff_mem, List.mem_filter, mem_lanesOf, hl, true_and, and_iff_right_iff_imp]
  intro h
  exact (Bool.and_eq_true_iff.mp h).1

theorem getLsbD_waitMask (ph : Nat) {l : Nat} (hl : l < 32) :
    (y.waitMask key phase held con ph).getLsbD l = (y.waitsFor key phase held con l && y.awaited key phase l == ph) := getLsbD_maskOf _ hl

theorem mem_waitedPhases {ph : Nat} : ph ∈ y.waitedPhases key phase held con ↔
    ∃ l, l < 32 ∧ y.waitsFor key phase held con l = true ∧ y.awaited key phase l = ph := by
  rw [Wave.waitedPhases, mem_foldl_ladd]
  simp only [List.not_mem_nil, false_or, List.mem_filter, mem_lanesOf]
  constructor
  · rintro ⟨l, ⟨⟨hl, -⟩, hw⟩, he⟩
    exact ⟨l, hl, hw, he⟩
  · rintro ⟨l, hl, hw, he⟩
    exact ⟨l, ⟨⟨hl, (Bool.and_eq_true_iff.mp hw).1⟩, hw⟩, he⟩

end

section
variable (y : Wave) (key stamp phase : Nat) (held : Bool) (con : Word)

theorem waitGroups_spec {r : Park} (hr : r ∈ y.waitGroups key stamp phase held con) : r.stamp = stamp ∧ r.wake = none ∧
    ∃ ph, r.kind = .bar key ph
      ∧ ∀ l, l < 32 → r.mask.getLsbD l = (y.waitsFor key phase held con l && decide (y.awaited key phase l = ph)) := by
  obtain ⟨ph, -, -, rfl⟩ := mem_phaseGroups.mp hr
  exact ⟨rfl, rfl, ph, rfl, fun l hl => getLsbD_waitMask y key phase held con ph hl⟩

theorem exists_waitMask_iff {l : Nat} (hl : l < 32) :
    (∃ ph ∈ y.waitedPhases key phase held con, (y.waitMask key phase held con ph).getLsbD l = true) ↔ y.waitsFor key phase held con l = true := by
  simp only [getLsbD_waitMask _ _ _ _ _ _ hl, Bool.and_eq_true, beq_iff_eq]
  constructor
  · rintro ⟨ph, -, hw, -⟩
    exact hw
  · exact fun hw => ⟨_, (mem_waitedPhases y key phase held con).mpr ⟨l, hl, hw, rfl⟩, hw, rfl⟩

theorem exists_waitGroup {l : Nat} (hl : l < 32) (hw : y.waitsFor key phase held con l = true) :
    ∃ r ∈ y.waitGroups key stamp phase held con, r.mask.getLsbD l = true := by
  obtain ⟨ph, hph, hm⟩ := (exists_waitMask_iff y key phase held con hl).mpr hw
  have hne : y.waitMask key phase held con ph ≠ 0#32 := fun h0 => by
    rw [h0, BitVec.getLsbD_zero] at hm
    cases hm
  exact ⟨_, mem_phaseGroups.mpr ⟨ph, hph, hne, rfl⟩, hm⟩

theorem lane_parkWaiters {l : Nat} (hl : l < 32) (hlen : l < y.lanes.length) : (y.parkWaiters key stamp phase held con).lane l =
    if y.waitsFor key phase held con l = true ∧ (y.lane l).st = .live then { y.lane l with st := .parked } else y.lane l := by
  refine (lane_parkPhases _ _ _ _ hlen).trans ?_
  simp only [exists_waitMask_iff y key phase held con hl]

end

theorem maskOf_congr {p q : Nat → Bool} (h : ∀ l, l < 32 → p l = q l) : maskOf p = maskOf q :=
  BitVec.eq_of_getLsbD_eq fun l hl => by rw [getLsbD_maskOf _ hl, getLsbD_maskOf _ hl, h l hl]

theorem acquired_only (c : Issue) (u : State) (y : Wave) (key : Nat) (held : Bool) : onlyMem u (c.acquired u y key held) :=
  onlyMem_ite (onlyMem_refl u) (acquireAt_only ..)

theorem parkBar_eq {c : Issue} {u : State} {y : Wave} (hw : u.wave c.w = some y) (key : Nat) (held : Bool) :
    c.parkBar u key held =
      if ((lanesOf c.con).filter (y.waitsFor key (u.bar key (c.threads u)).phase held c.con)).isEmpty then
        .go { s := c.acquired u y key held }
      else .go { s := c.parkWaiters u y key held, work := some (.park none) } := by
  have hpast : ((lanesOf c.con).filter fun l =>
      !((lanesOf c.con).filter (y.waitsFor key (u.bar key (c.threads u)).phase held c.con)).contains l) =
      y.pastLanes key (u.bar key (c.threads u)).phase held c.con :=
    List.filter_congr fun l hl => by rw [contains_waiters _ _ _ _ _ (mem_lanesOf.mp hl).1]
  have hmask (ph : Nat) : (maskOf fun l =>
      ((lanesOf c.con).filter (y.waitsFor key (u.bar key (c.threads u)).phase held c.con)).contains l
        && y.awaited key (u.bar key (c.threads u)).phase l == ph) = y.waitMask key (u.bar key (c.threads u)).phase held c.con ph :=
    maskOf_congr fun l hl => by rw [contains_waiters _ _ _ _ _ hl]
  have hacq : (if ((y.pastLanes key (u.bar key (c.threads u)).phase held c.con).map (y.awaited key (u.bar key (c.threads u)).phase)).isEmpty = true
      then u else u.acquireAt (coreOf c.w) (barScope key) ((u.bar key (c.threads u)).before
        ((y.pastLanes key (u.bar key (c.threads u)).phase held c.con).map (y.awaited key (u.bar key (c.threads u)).phase)))) =
      c.acquired u y key held := by
    simp only [List.isEmpty_map, List.isEmpty_iff]
    rfl
  have hstamp : (c.acquired u y key held).stamp = u.stamp := by
    obtain ⟨m, h⟩ := acquired_only c u y key held
    rw [h]
  unfold Issue.parkBar
  simp only [hw, Option.getD_some, Issue.lanes, filter_waitsFor, hpast, hmask, hacq, hstamp]
  rfl

/-! ## The rows -/

section
variable (x : Body)

theorem issuesAs_barwait : IssuesAs (.barwait x) fun c s => c.enrol s (c.sA s) fun s key => c.parkBar s key false := fun _ => rfl

theorem issuesAs_barsync : IssuesAs (.barsync x) fun c s => c.enrol s (c.sA s) fun s key =>
    c.settled (c.parkBar (s.arriveAll c.w key c.lanes false) key (s.barHeld c.w c.x)) := fun _ => rfl

end

/-- What the completion of a barrier's phases does to a wave: its groups that waited for them are released, now or some clocks on,
unless a stop holds it (R197, R275, R282). -/
def State.releasedBar (s : State) (key phase : Nat) (delay : Nat → Nat) (w : Nat) (x : Wave) : Wave :=
  if x.parks.isEmpty || s.barHeld w x then x
  else if delay (coreOf w) = 0 then x.unpark s.clock (fun p => p.passed key phase) none
  else { x with parks := x.parks.map fun (p : Park) => if p.passed key phase then { p with wake := some (s.clock + delay (coreOf w)) } else p }

/-- The acquires of the release, core by core, change nothing but the levels of memory. -/
theorem exists_releaseBar_eq (s : State) (key phase : Nat) (delay : Nat → Nat) : ∃ s1, onlyMem s s1 ∧
    s.releaseBar key phase delay = s1.mapWaves (s.releasedBar key phase delay) := by
  refine ⟨_, ?_, rfl⟩
  exact onlyMem_fold _ (fun s c => acquireAt_only s c _ _) _ s

@[simp] theorem releaseBar_stamp (s : State) (key phase : Nat) (delay : Nat → Nat) : (s.releaseBar key phase delay).stamp = s.stamp := by
  obtain ⟨s1, ⟨m, rfl⟩, h⟩ := exists_releaseBar_eq s key phase delay
  rw [h, mapWaves_stamp]

@[simp] theorem arriveAll_stamp (s : State) (w key : Nat) (lanes : List Nat) (depart : Bool) :
    (s.arriveAll w key lanes depart).stamp = s.stamp := by
  obtain ⟨m, h⟩ := releaseEager_only s (coreOf w) (barScope key)
  unfold State.arriveAll
  simp only [h]
  split
  next => rfl
  next =>
    rw [apply_ite State.stamp, releaseBar_stamp, ite_self]
    rfl

/-- A group that waits for a phase that has completed wakes with the release, where no stop holds its wave. -/
theorem releaseBar_wakes {s : State} {key phase ph w : Nat} {delay : Nat → Nat} {x : Wave} {r : Park} (hw : s.wave w = some x)
    (hr : r ∈ x.parks) (hkind : r.kind = .bar key ph) (hph : ph < phase) (hwake : r.wake = none) (hheld : s.barHeld w x = false)
    (hdelay : delay (coreOf w) = 0) : wakes (s.releaseBar key phase delay) w x r := by
  obtain ⟨s1, ⟨m, rfl⟩, h⟩ := exists_releaseBar_eq s key phase delay
  have hrel : s.releasedBar key phase delay w x = x.unpark s.clock (fun p => p.passed key phase) none := by
    have hne : x.parks ≠ [] := List.ne_nil_of_mem hr
    simp [State.releasedBar, hne, hheld, hdelay]
  have hwave : (s.releaseBar key phase delay).wave w = some (s.releasedBar key phase delay w x) := h ▸ wave_mapWaves hw _
  refine wakes_of_unpark (hwave.trans (congrArg some hrel)) hr ?_
  simp [Park.passed, hkind, hph, hwake]

/-- Contributors wait in the state that the row's arrival leaves: the effect of BARWAIT and of BARSYNC (R197). -/
theorem barrier_row_parks {x : Body} {s t u : State} {c : Issue} {key : Nat} {i : Instr} {held : Bool}
    (hkey : s.barKey (coreOf c.w) c.x.blk (c.sA s) = some key) (ht : enrolledState s c (c.sA s) = some t)
    (hi : (i = .barwait x ∧ u = t ∧ held = false)
      ∨ (i = .barsync x ∧ u = t.arriveAll c.w key (lanesOf c.con) false ∧ held = t.barHeld c.w c.x))
    (hset : i = .barsync x → c.x.settled = true) : ∃ eff, IssuesAs i eff ∧ eff c s = c.parkBar u key held := by
  rcases hi with ⟨rfl, rfl, rfl⟩ | ⟨rfl, rfl, rfl⟩
  · exact ⟨_, issuesAs_barwait x, enrol_some hkey ht _⟩
  · exact ⟨_, issuesAs_barsync x, (enrol_some hkey ht _).trans (settled_eq (hset rfl) _)⟩

theorem stamp_of_enrolledState {s t : State} {c : Issue} {id : Nat} (h : enrolledState s c id = some t) : t.stamp = s.stamp := by
  rw [enrolledState_eq, Option.map_eq_some_iff] at h
  obtain ⟨e, -, rfl⟩ := h
  rfl

/-- Settles O38: the contributors that wait park by the phases they wait for, and a release wakes them. -/
theorem barrierWaits : Obligations.BarrierWaits := by
  unfold Obligations.BarrierWaits
  refine ⟨fun x s t c key hkey ht i u held hi hs hset y hy => ?_,
    fun s key phase ph w delay x r hw hr hkind hph hwake hheld hdelay => releaseBar_wakes hw hr hkind hph hwake hheld hdelay⟩
  intro b awaited waits past acquired
  obtain ⟨eff, hissues, heff⟩ := barrier_row_parks hkey ht hi hset
  have hstamp : u.stamp = s.stamp := by
    rcases hi with ⟨-, rfl, -⟩ | ⟨-, rfl, -⟩
    · exact stamp_of_enrolledState ht
    · exact (arriveAll_stamp ..).trans (stamp_of_enrolledState ht)
  have hacq : c.acquired u y key held = acquired := rfl
  have hwaits : ∀ l, y.waitsFor key b.phase held c.con l = waits l := fun _ => rfl
  have hpark := heff.trans (parkBar_eq hy key held)
  refine ⟨fun hnone => hissues.does hs (hpark.trans (if_pos ?_)), fun hsome => ?_⟩
  · rw [List.isEmpty_iff, List.filter_eq_nil_iff]
    exact fun l hl => Bool.eq_false_iff.mp (hnone l (mem_lanesOf.mp hl).1)
  · obtain ⟨m, honly⟩ := acquired_only c u y key held
    obtain ⟨lanes, hz⟩ := exists_parkPhases_eq key u.stamp (y.waitMask key b.phase held c.con) (y.waitedPhases key b.phase held c.con) y
    have hwave : (c.acquired u y key held).wave c.w = some y := by rw [honly]; exact hy
    refine ⟨c.parkWaiters u y key held, y.parkWaiters key u.stamp b.phase held c.con, y.waitGroups key u.stamp b.phase held c.con,
      hissues.does hs (hpark.trans (if_neg ?_)), mget_mmod_same hwave _, fun v hv => ?_, ?_, rfl, rfl, ?_, fun r hr => ?_,
      fun l => exists_waitGroup y key u.stamp b.phase held c.con, fun l => lane_parkWaiters y key u.stamp b.phase held c.con⟩
    · obtain ⟨l, hl, hw⟩ := hsome
      rw [List.isEmpty_iff, List.filter_eq_nil_iff]
      exact fun hall => hall l (mem_lanesOf.mpr ⟨hl, (Bool.and_eq_true_iff.mp hw).1⟩) hw
    · refine (mget_mmod_other _ _ hv).trans ?_
      rw [honly]
      rfl
    · change (c.acquired u y key held).wk = u.wk
      rw [honly]
    · rw [Wave.parkWaiters, hz]
      rfl
    · exact hstamp ▸ waitGroups_spec y key u.stamp b.phase held c.con hr

end Sys2Proof.Machine

/-! # Semaphores: what their rows issue as, and the groups that a new value releases (R199) -/

namespace Sys2Proof.Machine

/-! ## The semaphore of an operand -/

section
variable {c : Issue} {s : State}

theorem semaphore_some {key : Nat} (h : s.semKey (coreOf c.w) c.x.blk (c.s s c.b.a.toNat).toNat = some key) (f : Nat → Eff) :
    c.semaphore s f = f key := by
  rw [Issue.semaphore, h]

theorem semaphore_none (h : s.semKey (coreOf c.w) c.x.blk (c.s s c.b.a.toNat).toNat = none) (f : Nat → Eff) :
    c.semaphore s f = .trap { cause := .syncRange, mask := c.con } := by
  rw [Issue.semaphore, h]
  rfl

end

/-! ## What each row issues as -/

/-- What SEMWAIT does with the semaphore of a key. -/
def semwaitEff (c : Issue) (s : State) (key : Nat) : Eff :=
  if reached (s.sem key) (c.sB s) then .go { s := s }
  else .go { s := s.modWave c.w fun x => x.park c.con s.stamp (.sem key (c.sB s)), work := some (.park none) }

section
variable (x : Body)

theorem issuesAs_semset : IssuesAs (.semset x) fun c s => c.semaphore s fun key => .go { s := s.setSem key (c.sB s) } := fun _ => rfl

theorem issuesAs_semadd : IssuesAs (.semadd x) fun c s => c.semaphore s fun key =>
    c.settled (.go { s := (s.releaseEager (coreOf c.w) 1).setSem key (((s.releaseEager (coreOf c.w) 1).sem key + c.sB s) % 2 ^ 32) }) :=
  fun _ => rfl

theorem issuesAs_semwait : IssuesAs (.semwait x) fun c s => c.semaphore s (semwaitEff c s) := fun _ => rfl

end

theorem reached_iff {v t : Nat} : reached v t = true ↔ (v + 2 ^ 32 - t) % 2 ^ 32 < 2 ^ 31 := decide_eq_true_iff

theorem reached_eq_false_iff {v t : Nat} : reached v t = false ↔ 2 ^ 31 ≤ (v + 2 ^ 32 - t) % 2 ^ 32 :=
  decide_eq_false_iff_not.trans Nat.not_lt

/-! ## A semaphore takes a value -/

section
variable (s : State) (key v : Nat)

theorem sem_setSem_same (hv : v < 2 ^ 32) (hs : mrising s.co.sems = true) : (s.setSem key v).sem key = v := by
  have hcell : (s.setSem key v).sem key = (BitVec.ofNat 32 v).toNat := congrArg BitVec.toNat (cget_cput_same hs key _)
  rw [hcell, BitVec.toNat_ofNat, Nat.mod_eq_of_lt hv]

theorem sem_setSem_other {k : Nat} (h : k ≠ key) : (s.setSem key v).sem k = s.sem k := congrArg BitVec.toNat (cget_cput_other _ _ h)

/-- The groups that a value of a semaphore releases. -/
def Park.semReached (key v : Nat) (p : Park) : Bool :=
  match p.kind with
  | .sem k t => k == key && reached (v % 2 ^ 32) t
  | _ => false

theorem semReached_of_kind {p : Park} {t : Nat} (h : p.kind = .sem key t) : p.semReached key v = reached (v % 2 ^ 32) t := by
  simp [Park.semReached, h]

/-- A semaphore with a new value, the groups on it that have not been released yet. -/
def State.semTaken (s : State) (key v : Nat) : State :=
  { s with co := { s.co with sems := cput s.co.sems key 0#32 (BitVec.ofNat 32 v) } }

theorem setSem_eq : s.setSem key v = (s.semTaken key v).unparkAll (fun _ => Park.semReached key v) none := rfl

theorem wave_unparkAll {s : State} {w : Nat} {x : Wave} (h : s.wave w = some x) (sel : Nat → Park → Bool) (val : Option Nat) :
    (s.unparkAll sel val).wave w = some (x.unpark s.clock (sel w) val) := by
  refine (wave_mapWaves h _).trans (congrArg some ?_)
  split
  next hnone => exact (unpark_of_none _ _ _ _ (by simp [List.isEmpty_iff.mp hnone])).symm
  next => rfl

theorem wave_setSem {w : Nat} {x : Wave} (h : s.wave w = some x) :
    (s.setSem key v).wave w = some (x.unpark s.clock (Park.semReached key v) none) := by
  rw [setSem_eq]
  exact wave_unparkAll (s := s.semTaken key v) h _ _

end

/-- Settles O39: SEMWAIT goes by whether the value has reached the threshold, and so do the groups that a new value finds. -/
theorem semaphores : Obligations.Semaphores := by
  unfold Obligations.Semaphores
  refine ⟨fun x s c => ?_, fun s w key v th x r hw hr hkind => ⟨fun hlt => ?_, fun hge hall => ?_⟩⟩
  · intro named
    refine ⟨fun key hkey hs => (issuesAs_semset x).does hs (semaphore_some hkey _),
      fun key hkey hs hset => (issuesAs_semadd x).does hs ((semaphore_some hkey _).trans (settled_eq hset _)),
      fun key hkey hs hlt => (issuesAs_semwait x).does hs ((semaphore_some hkey _).trans (if_pos (reached_iff.mpr hlt))),
      fun key hkey hs hge => (issuesAs_semwait x).does hs
        ((semaphore_some hkey _).trans (if_neg (Bool.eq_false_iff.mp (reached_eq_false_iff.mpr hge)))),
      fun hnone i hi hs => ?_, fun key v => sem_setSem_same s key v, fun key _ v hne => sem_setSem_other s key v hne⟩
    rcases hi with rfl | rfl | rfl
    · exact (issuesAs_semset x).traps hs (semaphore_none hnone _)
    · exact (issuesAs_semadd x).traps hs (semaphore_none hnone _)
    · exact (issuesAs_semwait x).traps hs (semaphore_none hnone _)
  · have hsel : r.semReached key v = true := (semReached_of_kind key v hkind).trans (reached_iff.mpr hlt)
    have hwave := wave_setSem s key v hw
    refine ⟨wakes_of_unpark hwave hr hsel, fun hone _ => ⟨_, hwave, pending_unpark_none hr hsel fun q hq hstamp => ?_⟩⟩
    rw [hone q hq hstamp, hsel]
  · refine (wave_setSem s key v hw).trans (congrArg some (unpark_of_none _ _ _ _ fun q hq => ?_))
    rw [hall q hq, semReached_of_kind key v hkind, reached_eq_false_iff.mpr hge]

end Sys2Proof.Machine

/-! # The monitor: arming it, and what a wait answers (R200) -/

namespace Sys2Proof.Machine

/-- The line that the first part of an access lies on: what MONARM watches. -/
def headLine (ps : List Piece) : Nat :=
  lineOf (match ps.head? with | some { loc := .mem pa, .. } => pa | _ => 0)

theorem headLine_cons {p : Piece} {pa : Nat} (h : p.loc = .mem pa) (rest : List Piece) : headLine (p :: rest) = pa / 128 := by
  obtain ⟨lane, off, len, va, loc⟩ := p
  obtain rfl : loc = .mem pa := h
  rfl

/-- What MONARM does: its address is checked as a load of one byte is. -/
def monarmEff (c : Issue) (s : State) : Eff :=
  match s.checkGlobal (coreOf c.w) (s.ctxNo c.x) c.x.blk { kind := .load, align := 1, win := false }
      [{ lane := c.low, va := c.addr s c.low, n := 1 }] with
  | (s, .error t) => c.fault s { t with mask := c.con }
  | (s, .ok ps) => .go { s := s.modWave c.w fun y => { y with mon := { line := some (headLine ps), event := false, resumed := false } } }

theorem monarmEff_ok {c : Issue} {s s1 : State} {ps : List Piece}
    (h : s.checkGlobal (coreOf c.w) (s.ctxNo c.x) c.x.blk { kind := .load, align := 1, win := false }
        [{ lane := c.low, va := c.addr s c.low, n := 1 }] = (s1, .ok ps)) : monarmEff c s =
    .go { s := s1.modWave c.w fun y => { y with mon := { line := some (headLine ps), event := false, resumed := false } } } := by
  rw [monarmEff, h]

/-- What MONWAIT does where it answers: the monitor is disarmed. -/
def Issue.monAnswer (c : Issue) (s : State) (v : Nat) : Eff :=
  .go { s := s.modWave c.w fun y => { y with mon := {} }, work := some (.bound (wordsOfD c v)) }

/-- What MONWAIT does with a monitor: after a restore, where nothing is armed and where the event has come it answers. -/
def monwaitEff (c : Issue) (s : State) : Eff :=
  if c.x.mon.resumed then c.monAnswer s 2
  else if c.x.mon.line.isNone then c.monAnswer s 3
  else if c.x.mon.event then c.monAnswer s 0
  else
    let t := (c.s s c.b.b.toNat).toNat
    .go { s := s.modWave c.w fun x => x.park c.con s.stamp (.mon (if t = 0 then none else some (s.clock + 1024 * t)))
          work := some (.park (some c.dstS)) }

section
variable (x : Body)

theorem issuesAs_monarm : IssuesAs (.monarm x) monarmEff := fun _ => rfl

theorem issuesAs_monwait : IssuesAs (.monwait x) monwaitEff := fun _ => rfl

end

section
variable {c : Issue} (s : State)

theorem monwaitEff_of_resumed (hr : c.x.mon.resumed = true) : monwaitEff c s = c.monAnswer s 2 := if_pos hr

theorem monwaitEff_of_unarmed (hr : c.x.mon.resumed = false) (hl : c.x.mon.line = none) : monwaitEff c s = c.monAnswer s 3 := by
  simp [monwaitEff, hr, hl]

theorem monwaitEff_of_armed (hr : c.x.mon.resumed = false) (hl : c.x.mon.line ≠ none) : monwaitEff c s =
    if c.x.mon.event then c.monAnswer s 0
    else .go { s := s.modWave c.w fun x => x.park c.con s.stamp
                 (.mon (if (c.s s c.b.b.toNat).toNat = 0 then none else some (s.clock + 1024 * (c.s s c.b.b.toNat).toNat)))
               work := some (.park (some c.dstS)) } := by
  simp [monwaitEff, hr, hl]

end

/-- Settles O40: MONARM by the part that its address names, MONWAIT by the monitor it finds. -/
theorem monitor : Obligations.Monitor := by
  unfold Obligations.Monitor
  intro x s s1 c p pa rest low gone t
  refine ⟨fun hs hok hp => ?_, fun hs hr => (issuesAs_monwait x).does hs (monwaitEff_of_resumed s hr),
    fun hs hr hl => (issuesAs_monwait x).does hs (monwaitEff_of_unarmed s hr hl),
    fun hs hr hl he => (issuesAs_monwait x).does hs ((monwaitEff_of_armed s hr hl).trans (if_pos he)),
    fun hs hr hl he => (issuesAs_monwait x).does hs ((monwaitEff_of_armed s hr hl).trans (if_neg (Bool.eq_false_iff.mp he)))⟩
  rw [← headLine_cons hp rest]
  exact (issuesAs_monarm x).does hs (monarmEff_ok hok)

end Sys2Proof.Machine

/-! # Reins: sends, the rows of a handler, and the handlers that wait (R213 to R216, R355) -/

namespace Sys2Proof.Machine

/-! ## Sending (R213) -/

/-- The state that a send is made from: older writes are released, and the block is no longer DISCARDABLE. -/
def Issue.sendState (c : Issue) (s : State) : State :=
  (s.releaseEager (coreOf c.w) (if bitsOf (c.sB s) 15 14 = 1 then 6 else 4)).notDiscardable c.x.blk

/-- The rein that RSEND makes. -/
def Issue.send (c : Issue) (s : State) : Send :=
  { id := 2 ^ 15 + s.ctxNo c.x, vec := bitsOf (c.sB s) 13 8, ctx := c.sB s % 256, payload := c.sGroup s c.b.a.toNat 2
    route := bitsOf (c.sB s) 15 14, w := some (c.w, s.stamp), page := none, deps := (c.sendState s).m.seenBy (coreOf c.w) }

/-- The register of predicates that a send's answer goes to. -/
def Issue.dstK (c : Issue) : Dst := { cls := 2, base := c.b.d.toNat, cnt := 1 }

/-- What RSEND does by its route. -/
def rsendEff (c : Issue) (s : State) : Eff :=
  let u := c.sendState s
  if bitsOf (c.sB s) 15 14 = 0 then .go { s := { u with wk := { u.wk with sends := u.wk.sends ++ [c.send s] } }, work := some (.send c.dstK) }
  else if bitsOf (c.sB s) 15 14 = 1 ∧ s.pk.twin.state = 2 then
    .go { s := { u with pk := { u.pk with peerSends := u.pk.peerSends ++ [c.send s] } }, work := some (.send c.dstK) }
  else .go { s := u, work := some (.bound (kwriteAll c.b.d.toNat 0#32)) }

theorem issuesAs_rsend (x : Body) : IssuesAs (.rsend x) fun c s => c.settled (rsendEff c s) := fun _ => rfl

/-! ## Handlers (R214) -/

section
variable {c : Issue} {s : State}

theorem handler_some {b : Block} {first : Nat} (hb : s.block c.x.blk = some b) (hr : b.rein = some first) (f : Nat → Nat → Eff) :
    c.handler s f = f b.ctx first := by
  rw [Issue.handler, hb, Option.bind_some, hr, Option.map_some]

theorem handler_none (h : ∀ b, s.block c.x.blk = some b → b.rein = none) (f : Nat → Nat → Eff) :
    c.handler s f = .trap { cause := .reinPerm, mask := c.con } := by
  have hnone : ((s.block c.x.blk).bind fun b => b.rein.map fun v => (b.ctx, v)) = none :=
    Option.bind_eq_none_iff.mpr fun b hb => by rw [h b hb, Option.map_none]
  rw [Issue.handler, hnone]
  rfl

end

/-- What RWAIT does in a handler, by what is found of its range. -/
def rwaitFound (c : Issue) : State × Option Nat → Eff
  | (s, some v) => .go { s := s, work := some (.bound (c.toSD v)) }
  | (s, none) => .go { s := s.modWave c.w fun x => x.park c.con s.stamp .rein, work := some (.park (some c.dstS)) }

/-- What RTAKE of a named vector does in a handler. -/
def rtakeEff (c : Issue) (s : State) (ctx first : Nat) : Eff :=
  let v := (c.s s c.b.a.toNat).toNat
  if v < first ∨ first + 16 ≤ v then .raise .reinPerm c.con else c.takeOut (s.claimVec (coreOf c.w) ctx v)

/-- What RTAKE of the lowest pending vector does in a handler, by what is found of its range. -/
def rtakeAnyFound (c : Issue) (ctx : Nat) : State × Option Nat → Eff
  | (s, some v) => c.takeOut (s.claimVec (coreOf c.w) ctx v)
  | (s, none) => c.takeOut (s, 0)

section
variable (x : Body)

theorem issuesAs_rwait : IssuesAs (.rwait x) fun c s => c.handler s (fun ctx first => rwaitFound c (s.lowestVec ctx first true)) := fun _ => rfl
theorem issuesAs_rtake : IssuesAs (.rtake x) fun c s => c.handler s (rtakeEff c s) := fun _ => rfl
theorem issuesAs_rtakeAny : IssuesAs (.rtakeAny x) fun c s => c.handler s (fun ctx first => rtakeAnyFound c ctx (s.lowestVec ctx first false)) := fun _ => rfl
theorem issuesAs_rmaskSet : IssuesAs (.rmaskSet x) (maskEff fun o m => o || m) := fun _ => rfl
theorem issuesAs_rmaskClr : IssuesAs (.rmaskClr x) (maskEff fun o m => o && !m) := fun _ => rfl
theorem issuesAs_rmaskWr : IssuesAs (.rmaskWr x) (maskEff fun _ m => m) := fun _ => rfl

end

/-- Every instruction that only a handler may run asks for the handler's range first. -/
theorem exists_handler_eff {i : Instr}
    (h : match i with | .rwait _ | .rtake _ | .rtakeAny _ | .rmaskSet _ | .rmaskClr _ | .rmaskWr _ => True | _ => False) :
    ∃ eff, IssuesAs i eff ∧ ∀ c s, ∃ f, eff c s = c.handler s f := by
  split at h
  case h_1 x => exact ⟨_, issuesAs_rwait x, fun c s => ⟨_, rfl⟩⟩
  case h_2 x => exact ⟨_, issuesAs_rtake x, fun c s => ⟨_, rfl⟩⟩
  case h_3 x => exact ⟨_, issuesAs_rtakeAny x, fun c s => ⟨_, rfl⟩⟩
  case h_4 x => exact ⟨_, issuesAs_rmaskSet x, fun c s => ⟨_, rfl⟩⟩
  case h_5 x => exact ⟨_, issuesAs_rmaskClr x, fun c s => ⟨_, rfl⟩⟩
  case h_6 x => exact ⟨_, issuesAs_rmaskWr x, fun c s => ⟨_, rfl⟩⟩
  case h_7 => exact h.elim

/-- Settles O43: a wave of a block that is no handler has no range to ask for. -/
theorem onlyHandlersTakeReins : Obligations.OnlyHandlersTakeReins := by
  unfold Obligations.OnlyHandlersTakeReins
  intro i s c hi hs hnone
  obtain ⟨eff, hissues, heff⟩ := exists_handler_eff hi
  obtain ⟨f, hf⟩ := heff c s
  exact hissues.traps hs (hf.trans (handler_none hnone f))

/-! ## Masking (R216) -/

/-- The mask bits of a handler's range change one after another. -/
theorem maskEff_eq {c : Issue} {s : State} {b : Block} {first : Nat} (hb : s.block c.x.blk = some b) (hr : b.rein = some first)
    (f : Bool → Bool → Bool) : maskEff f c s = .go { s := masked f s b.ctx first (c.sA s) } := by
  refine (handler_some hb hr _).trans (congrArg (fun t => Eff.go { s := t }) (congrArg (List.foldl · s (List.range 16)) ?_))
  funext s n
  rcases s.vecAt b.ctx (first + n) with ⟨s1, _ | e⟩
  · rfl
  · dsimp only
    split
    next => rfl
    next =>
      generalize s1.putVec b.ctx (first + n) _ = r
      rcases r with ⟨s2, _ | _⟩
      · rfl
      · simp

/-! ## Handlers that wait (R355) -/

section
variable {s s1 : State} {ctx first v : Nat}

theorem reinNotify_of_handled {u : Nat} (hu : u / 16 * 16 = first) (h : ∃ p ∈ s.waves, s.handles ctx first p.2 = true) :
    s.reinNotify ctx u = s.wakeReins ctx first := by
  subst hu
  exact if_pos (List.any_eq_true.mpr h)

theorem wakeReins_some (h : s.lowestVec ctx first true = (s1, some v)) : s.wakeReins ctx first =
    s1.mapWaves fun _ x => if s1.handles ctx first x then x.unpark s1.clock (fun p => p.kind == .rein) (some v) else x := by
  unfold State.wakeReins
  rw [h]

theorem wave_wakeReins {w : Nat} {x : Wave} (h : s.lowestVec ctx first true = (s1, some v)) (hw : s1.wave w = some x)
    (hx : s1.handles ctx first x = true) :
    (s.wakeReins ctx first).wave w = some (x.unpark s1.clock (fun p => p.kind == .rein) (some v)) := by
  rw [wakeReins_some h, wave_mapWaves hw, if_pos hx]

end

/-- Settles O42: a send goes by its route, the rows of a handler by the vector they find, and a handler that waits wakes with it. -/
theorem reins : Obligations.Reins := by
  unfold Obligations.Reins
  refine ⟨fun x s s1 c b first v => ?_, fun s s1 ctx first v w x r hlow => ⟨fun u => reinNotify_of_handled, fun hw hx hr hkind => ?_⟩⟩
  · intro t u send dk handler claimed asked
    refine ⟨fun hs hset h0 => ?_, fun hs hset h1 htwin => ?_, fun hs hset hother => ?_,
      fun hs ⟨hb, hr⟩ hv => (issuesAs_rwait x).does hs ((handler_some hb hr _).trans (congrArg (rwaitFound c) hv)),
      fun hs ⟨hb, hr⟩ hv => (issuesAs_rwait x).does hs ((handler_some hb hr _).trans (congrArg (rwaitFound c) hv)),
      fun hs ⟨hb, hr⟩ hlo hhi => (issuesAs_rtake x).does hs ((handler_some hb hr _).trans (if_neg (by omega))),
      fun hs ⟨hb, hr⟩ hout => (issuesAs_rtake x).traps hs ((handler_some hb hr _).trans (if_pos hout)),
      fun hs ⟨hb, hr⟩ hv => (issuesAs_rtakeAny x).does hs ((handler_some hb hr _).trans (congrArg (rtakeAnyFound c b.ctx) hv)),
      fun hs ⟨hb, hr⟩ hv => (issuesAs_rtakeAny x).does hs ((handler_some hb hr _).trans (congrArg (rtakeAnyFound c b.ctx) hv)),
      fun i f hi hs ⟨hb, hr⟩ => ?_⟩
    · exact (issuesAs_rsend x).does hs ((settled_eq hset _).trans (if_pos h0))
    · exact (issuesAs_rsend x).does hs ((settled_eq hset _).trans ((if_neg (h1.trans_ne Nat.one_ne_zero)).trans (if_pos ⟨h1, htwin⟩)))
    · have hroute : bitsOf (c.sB s) 15 14 ≠ 0 ∧ ¬(bitsOf (c.sB s) 15 14 = 1 ∧ s.pk.twin.state = 2) := by
        change 2 ≤ bitsOf (c.sB s) 15 14 ∨ (bitsOf (c.sB s) 15 14 = 1 ∧ s.pk.twin.state ≠ 2) at hother
        omega
      exact (issuesAs_rsend x).does hs ((settled_eq hset _).trans ((if_neg hroute.1).trans (if_neg hroute.2)))
    · rcases hi with ⟨rfl, rfl⟩ | ⟨rfl, rfl⟩ | ⟨rfl, rfl⟩
      · exact (issuesAs_rmaskSet x).does hs (maskEff_eq hb hr _)
      · exact (issuesAs_rmaskClr x).does hs (maskEff_eq hb hr _)
      · exact (issuesAs_rmaskWr x).does hs (maskEff_eq hb hr _)
  · have hsel : (r.kind == .rein) = true := beq_iff_eq.mpr hkind
    have hwave := wave_wakeReins hlow hw hx
    exact ⟨wakes_of_unpark hwave hr hsel, fun p d hone hp hwork => ⟨_, hwave, pending_unpark_some hr hsel hone hp hwork⟩⟩

end Sys2Proof.Machine

/-! # Copy entries and collectives: how an entry goes on, and what takes and ends it (R204, R206, R209, R442 to R444) -/

namespace Sys2Proof.Machine

/-! ## What is left of an entry -/

theorem failing_iff {st : Nat} : failing st = true ↔ 0x80 ≤ st ∧ st ≠ 0x88 := by simp [failing]

theorem failing_eq_false_iff {st : Nat} : failing st = false ↔ st < 0x80 ∨ st = 0x88 := by
  rw [← Bool.not_eq_true, failing_iff]
  omega

section
variable {e : Copy}

theorem left_of_failing (h : failing e.status = true) : e.left = 0 := if_pos h

theorem left_of_moving (h : failing e.status = false) : e.left = 2 * e.total - e.at' := if_neg (Bool.eq_false_iff.mp h)

/-- Of nothing, nothing is done. -/
theorem chunk_of_left_zero (h : e.left = 0) (free : Nat) : e.chunk free = 0 := by rw [Copy.chunk, h, Nat.zero_sub]

theorem copyActs_zero (s : State) (core ctx blk : Nat) (e : Copy) : s.copyActs core ctx blk e 0 = (s, e) := rfl

end

/-! ## One read or write of an entry -/

section
variable {s s1 : State} {core ctx blk i : Nat} {e : Copy}

theorem copyAct_of_failing (h : failing e.status = true) : State.copyAct core ctx blk (s, e) i = (s, e) := if_pos h

theorem copyAct_reads {got : List Byte × List Bool} (h : failing e.status = false) (hheld : e.held.find? (fun h => h.1 == i) = none)
    (hread : s.copyRead core ctx blk e i = (s1, .ok got)) :
    State.copyAct core ctx blk (s, e) i = (s1, { e with held := (i, got.1, got.2) :: e.held }) := by
  unfold State.copyAct
  simp only [h, hheld, hread, Bool.false_eq_true, if_false]

theorem copyAct_writes {st : Nat} {bs : List Byte} {bad : List Bool} (h : failing e.status = false)
    (hheld : e.held.find? (fun h => h.1 == i) = some (i, bs, bad)) (hwrite : s.copyWrite core ctx blk e i bs bad = (s1, st)) :
    State.copyAct core ctx blk (s, e) i =
      (s1, { e with held := e.held.filter (fun h => h.1 != i), status := if st = 1 then e.status else st }) := by
  unfold State.copyAct
  simp only [h, hheld, hwrite, Bool.false_eq_true, if_false]

end

/-! ## An entry goes on, or completes (R206, R209, R266) -/

/-- An entry of a resident block after some of it has been moved: it completes where nothing is left. -/
def entryMoved (core blk : Nat) (r : State × Copy) : State :=
  if r.2.left = 0 then r.1.finishCopy core blk r.2 r.2.status else r.1.putRing blk core ((r.1.ring blk core).progress r.2)

/-- The same of a saved block, in its image. -/
def savedMoved (core blk : Nat) (v : Saved) (r : State × Copy) : State :=
  if r.2.left = 0 then r.1.finishSaved core blk v r.2 r.2.status
  else { r.1 with wk := { r.1.wk with saved := mput r.1.wk.saved blk (v.progress core r.2) } }

section
variable {s : State} {core blk idx : Nat} {e : Copy}

theorem copyEntryComplete_resident {b : Block} (hb : s.block blk = some b) (he : (s.ring blk core).busy.find? (fun e => e.idx == idx) = some e)
    (hcoll : e.coll = none) : exec (.copyEntryComplete core blk idx) s =
      .next (entryMoved core blk (s.bump.copyActs core b.ctx blk e (e.chunk s.free))) := by
  change execCopyEntryComplete core blk idx s = _
  unfold execCopyEntryComplete
  simp only [hb, he, hcoll]
  rfl

theorem copyEntryComplete_saved {v : Saved} (hb : s.block blk = none) (hv : mget s.wk.saved blk = some v) (he : v.entry core idx = some e)
    (hcoll : e.coll = none) : exec (.copyEntryComplete core blk idx) s =
      .next (savedMoved core blk v (s.bump.copyActs core v.block.ctx blk e (e.chunk s.free))) := by
  change execCopyEntryComplete core blk idx s = _
  unfold execCopyEntryComplete
  simp only [hb, hv, he, hcoll]
  rfl

end

/-! ## Taking an entry (R202) -/

theorem ring_putRing (s : State) (blk core : Nat) (r : Ring) : (s.putRing blk core r).ring blk core = r := by
  simp [State.ring, State.putRing, mgetD]

/-- The engine notes the entry that it takes in its ring, whatever STATUS the entry's checks give it. -/
theorem copyEntryTake_takes {s : State} {core blk : Nat} {b : Block} (hb : s.block blk = some b) (hmay : s.mayTake core blk = true)
    (hlink : s.pk.twin.state ≠ 1) : ∃ t c, exec (.copyEntryTake core blk) s = .next t
      ∧ (t.ring blk core).taken = (s.ring blk core).taken + 1 ∧ c.idx = (s.ring blk core).taken ∧ c ∈ (t.ring blk core).busy := by
  change ∃ t c, execCopyEntryTake core blk s = _ ∧ _
  have hgo : ¬(!s.mayTake core blk) = true := by simp [hmay]
  unfold execCopyEntryTake
  rw [hb]
  dsimp -zeta only
  rw [if_neg hgo]
  extract_lets r k off ws shapeOff size sh e semIn coll key st s3 e' r3 s4 c
  have htaken (t : State) (ht : t.ring blk core = s4.ring blk core) : (t.ring blk core).taken = k + 1 ∧ e' ∈ (t.ring blk core).busy := by
    rw [ht, ring_putRing]
    exact ⟨rfl, List.mem_append_right _ (List.mem_singleton_self _)⟩
  rw [if_neg fun h => hlink h.2.1]
  split
  next =>
    obtain ⟨hcount, hbusy⟩ := htaken { s4 with pk := { s4.pk with colls := mput s4.pk.colls key c } } rfl
    exact ⟨_, e', rfl, hcount, rfl, hbusy⟩
  next =>
    obtain ⟨hcount, hbusy⟩ := htaken s4 rfl
    exact ⟨_, e', rfl, hcount, rfl, hbusy⟩

theorem copyEntryTake_waits {s : State} {core blk : Nat} (h : s.mayTake core blk = false) : exec (.copyEntryTake core blk) s = .next s := by
  change execCopyEntryTake core blk s = _
  unfold execCopyEntryTake
  split
  next => rfl
  next => rw [h]; rfl

/-! ## Collectives (R442 to R444) -/

/-- Whether the peer's entry of a key agrees with this module's. -/
def Coll.agrees (c : Coll) (opc rcode rtype len : Nat) : Prop :=
  (opc = c.opc ∨ (c.opc = 0x13 ∧ opc = 0x14) ∨ (c.opc = 0x14 ∧ opc = 0x13)) ∧ len = c.n ∧ rtype = c.rtype ∧ rcode = c.rcode

section
variable {s : State} {key opc rcode rtype len src : Nat} {c : Coll}

/-- A collective whose peer's entry has come. -/
def State.collMatched (s : State) (key opc rcode rtype len src : Nat) (c : Coll) : State :=
  let peer := (opc, rcode, rtype, len, leBytesOf (collLens opc len).1 src)
  { s with pk := { s.pk with colls := mput s.pk.colls key { c with peer := some peer } } }

section
variable (hc : mget s.pk.colls key = some c) (hup : s.pk.twin.state = 2) (hpeer : c.peer = none)
include hc hup hpeer

theorem collectiveMatch_agrees (h : c.agrees opc rcode rtype len) :
    exec (.collectiveMatch key opc rcode rtype len src) s = .next (s.collMatched key opc rcode rtype len src c) := by
  change execCollectiveMatch key opc rcode rtype len src s = _
  unfold execCollectiveMatch
  rw [hc]
  refine (if_neg (by simp [hup, hpeer])).trans (if_pos ?_)
  exact h

theorem collectiveMatch_differs (h : ¬c.agrees opc rcode rtype len) :
    exec (.collectiveMatch key opc rcode rtype len src) s = .next (s.finishColl key c 0x8B) := by
  change execCollectiveMatch key opc rcode rtype len src s = _
  unfold execCollectiveMatch
  rw [hc]
  refine (if_neg (by simp [hup, hpeer])).trans (if_neg ?_)
  exact h

end

/-- A matched collective whose source can be read writes its result and completes with the STATUS of that, POISON where a source byte
that goes into it is poisoned. -/
theorem collectiveComplete_completes {p : Nat × Nat × Nat × Nat × List Byte} {s1 s2 : State} {mine : List Byte} {bad : List Bool} {st : Nat}
    (hc : mget s.pk.colls key = some c) (hpeer : c.peer = some p)
    (hread : s.engineBytes c.core c.ctx c.blk c.src (collLens c.opc c.n).1 = (s1, .ok (mine, bad)))
    (hwrite : s1.engineBytesTo c.core c.ctx c.blk c.dst (collResult c s1.pk.twin.rank mine p.2.2.2.2)
      (collBad c s1.pk.twin.rank bad) = (s2, st)) :
    exec (.collectiveComplete key) s =
      .next (s2.finishColl key c (if st = 1 ∧ (collBad c s1.pk.twin.rank bad).any id = true then 0x88 else st)) := by
  have hdata : s.collData c p.2.2.2.2 =
      (s1, .ok (collResult c s1.pk.twin.rank mine p.2.2.2.2, collBad c s1.pk.twin.rank bad)) := by
    unfold State.collData
    rw [hread]
  change execCollectiveComplete key s = _
  unfold execCollectiveComplete
  simp only [hc, hpeer, hdata, hwrite]

end

end Sys2Proof.Machine

/-! # Launches: what queues, bins and grids start when it is their turn (R280, R287, R293) -/

namespace Sys2Proof.Machine

/-- What a turn may give a queue or a bin to start: a new block, of a kernel that can be read or not. -/
def Start.isNew (st : Start) : Bool := match st with | .fresh _ | .bad => true | _ => false

theorem isNew_of {st : Start} (h : st = .bad ∨ ∃ k, st = .fresh k) : st.isNew = true := by
  rcases h with rfl | ⟨k, rfl⟩ <;> rfl

section
variable {s : State} {q bind cluster : Nat} {y : Bind} {st : Start} {p : Spot}

/-! ## Task queues (R287) -/

/-- The grid of one block that a queue launches for its oldest record. -/
def TQ.launchGrid (t : TQ) (q : Nat) (r : Rec) : Grid :=
  oneBlock t.ctx (q / 64 / 8) t.kdesc (fieldOf r.bytes 0 8) t.prio t.depth [] [trailerOf r.bytes] (2 * q + 2) r.deps

theorem queueLaunch_launches {t : TQ} {r : Rec} {rest : List Rec} {s2 : State} {gn : Nat} (hturn : s.turn (q / 64) = some (bind, y, st, p))
    (ht : mget s.wk.tqs q = some t) (hheld : t.held = r :: rest) (hsrc : y.src = 1) (hsrcn : y.srcn = q % 64)
    (hst : st = .bad ∨ ∃ k, st = .fresh k)
    (hgrid : (s.putTq q { t with held := rest, shead := (t.shead + 1) % t.slots }).newGrid (t.launchGrid q r) = (s2, some gn)) :
    exec (.queueLaunch q bind) s = .next (s2.startOne bind (q / 64) gn (fieldOf r.bytes 8 4) (fieldOf r.bytes 12 4)
      (fieldOf r.bytes 16 4) 0 0 (fieldOf r.bytes 0 8) t.depth none p) := by
  change execQueueLaunch q bind s = _
  unfold execQueueLaunch
  rw [hturn, ht]
  dsimp -zeta only
  rw [hheld]
  have hmine : ¬(bind ≠ bind ∨ y.src ≠ 1 ∨ y.srcn ≠ q % 64 ∨ (!st.isNew) = true) := by simp [hsrc, hsrcn, isNew_of hst]
  refine (if_neg hmine).trans ?_
  unfold TQ.launchGrid at hgrid
  dsimp only
  rw [hgrid]
  rfl

/-! ## Node bins (R293) -/

theorem binLaunch_waits {b : NBin} (hturn : s.turn (q / 256) = some (bind, y, st, p)) (hb : mget s.wk.nbins q = some b)
    (hland : b.landing = none) : exec (.binLaunch q bind) s = .next s := by
  change execBinLaunch q bind s = _
  unfold execBinLaunch
  rw [hturn, hb]
  dsimp -zeta only
  rw [hland]

/-- How many of its records a bin's launch takes, and those records. -/
def NBin.taking (b : NBin) : Nat := min b.held.length b.count
def NBin.taken (b : NBin) : List Rec := b.held.take b.taking

/-- The address of a landing slot. -/
def NBin.landAt (b : NBin) (slot : Nat) : Nat := b.lbase + 4096 * slot

/-- The state in which a bin has given up the records of its launch. -/
def State.binFired (s : State) (q : Nat) (b : NBin) (slot : Nat) : State := s.putBin q (b.launched b.taking slot s.timeNs)

/-- A write that a launch makes, logged where it faults. -/
def orLogged (ctx va n : Nat) (r : State × Bool) : State := if r.2 then r.1 else r.1.logWork ctx .store va n

theorem orLogged_eq (ctx va n : Nat) (r : State × Bool) :
    (match r with | (s, true) => s | (s, false) => s.logWork ctx .store va n) = orLogged ctx va n r := by
  rcases r with ⟨s, _ | _⟩ <;> rfl

/-- The state in which those records have been copied to a landing slot. -/
def State.binLanded (s : State) (q : Nat) (b : NBin) (slot : Nat) : State :=
  let bytes := b.taken.flatMap Rec.bytes
  orLogged b.ctx (b.landAt slot) bytes.length ((s.binFired q b slot).devWrite b.ctx (b.landAt slot) bytes)

/-- The depth of a bin's launch. -/
def NBin.depth (b : NBin) : Nat := 1 + b.taken.foldl (fun a r => max a r.depth) 0

/-- The grid of one block that a bin launches: after its records' sends, and after the writes of the copy. -/
def State.binGrid (s : State) (q arg : Nat) (b : NBin) (slot : Nat) : Grid :=
  let s1 := s.binFired q b slot
  oneBlock b.ctx (q / 256 / 8) b.kdesc arg b.prio b.depth (b.taken.map Rec.emitter)
    (b.taken.map fun r => if b.trl then trailerOf r.bytes else (0, 0, 0)) (2 * q + 3)
    (b.taken.foldl (fun a r => r.deps.foldl ladd a)
      ((List.range ((s.binLanded q b slot).m.writes - s1.m.writes)).map (s1.m.writes + ·)))

theorem binLaunch_launches {b : NBin} {slot : Nat} {s3 : State} {gn : Nat} (hturn : s.turn (q / 256) = some (bind, y, st, p))
    (hb : mget s.wk.nbins q = some b) (hland : b.landing = some slot) (hsrc : y.src = 2) (hsrcn : y.srcn = q % 256)
    (hst : st = .bad ∨ ∃ k, st = .fresh k) (hgrid : (s.binLanded q b slot).newGrid (s.binGrid q y.arg b slot) = (s3, some gn)) :
    exec (.binLaunch q bind) s = .next ((s3.binKernel q gn).startOne bind (q / 256) gn 0 0 0 b.taking (b.landAt slot) y.arg b.depth
      (some (q, slot)) p) := by
  change execBinLaunch q bind s = _
  unfold execBinLaunch
  rw [hturn, hb]
  dsimp -zeta only
  rw [hland]
  have hmine : ¬(bind ≠ bind ∨ y.src ≠ 2 ∨ y.srcn ≠ q % 256 ∨ (!st.isNew) = true) := by simp [hsrc, hsrcn, isNew_of hst]
  refine (if_neg hmine).trans ?_
  extract_lets k rs at' bytes s1 s2 depth g
  have hs2 : s2 = s.binLanded q b slot := orLogged_eq ..
  have hg : g = s.binGrid q y.arg b slot := by
    rw [State.binGrid, ← hs2]
    rfl
  rw [hg, hs2, hgrid]
  rfl

/-! ## Grids (R280) -/

theorem blockStart_again {t : Block} (hturn : s.turn cluster = some (bind, y, .again t, p)) : exec (.blockStart bind cluster) s =
    .next ((s.modBind bind fun z => { z with requeue := z.requeue.drop 1 }).startBlock bind cluster t p) := by
  change execBlockStart bind cluster s = _
  unfold execBlockStart
  rw [hturn]
  exact if_neg (not_not_intro rfl)

/-- The bind of a range after it has taken the descriptor that its launch resolved. -/
def State.rangeBind (s : State) (y : Bind) (k : KDesc) : Bind := y.ofKernel (((s.bindKernel y).map Prod.fst).getD y.kdesc) k

/-- The next block of a range: the one at the place of a grid that the bind has come to. -/
def Bind.nextBlock (z : Bind) (bind gx : Nat) (k : KDesc) : Block :=
  z.block bind z.item z.kdesc k (z.next % gx) (z.next / gx % max z.gy 1) (z.next / (gx * max z.gy 1)) 0 0 z.arg z.depth none

theorem blockStart_fresh {k : KDesc} {g : Grid} (hturn : s.turn cluster = some (bind, y, .fresh k, p)) (hsrc : y.src = 0)
    (hg : (s.putBind bind { s.rangeBind y k with next := (s.rangeBind y k).next + 1, run := (s.rangeBind y k).run + 1 }).grid
      (s.rangeBind y k).item = some g) : exec (.blockStart bind cluster) s =
    .next (((s.putBind bind { s.rangeBind y k with next := (s.rangeBind y k).next + 1, run := (s.rangeBind y k).run + 1 }).putGrid'
      (s.rangeBind y k).item { g with child := false }).startBlock bind cluster ((s.rangeBind y k).nextBlock bind (max y.gx 1) k) p) := by
  change execBlockStart bind cluster s = _
  unfold execBlockStart
  rw [hturn]
  refine (if_neg (not_not_intro rfl)).trans ((if_pos hsrc).trans ?_)
  unfold State.rangeBind at hg
  dsimp only
  rw [hg]
  rfl

end

/-- Settles O56: an entry goes on by what is left of it, a collective by what the peer's entry asks for, and a launch by the turn of its
bind. -/
theorem copiesAndLaunches : Obligations.CopiesAndLaunches := by
  unfold Obligations.CopiesAndLaunches
  intro s core blk idx q bind cluster key b e
  refine ⟨fun hb he hcoll => ?_, fun v hb hv he hcoll => ?_, ⟨fun hfail => ?_, fun hmove => ?_⟩, copyEntryTake_takes, copyEntryTake_waits,
    fun c opc rcode rtype len src hc hup hpeer => ?_, fun c p s1 s2 mine bad st hc hpeer hread => ?_,
    fun y st p t r rest s2 gn hturn ht hheld hsrc hsrcn hst hgrid => queueLaunch_launches hturn ht hheld hsrc hsrcn hst hgrid,
    fun y st p b hturn hb hland => binLaunch_waits hturn hb hland,
    fun y st p b slot hturn hb hland hsrc hsrcn hst => ?_,
    fun y p t hturn => blockStart_again hturn, fun y p k hturn hsrc => ?_⟩
  · have hnext := copyEntryComplete_resident hb he hcoll
    refine ⟨fun hleft => ?_, fun s1 e1 hacts => ?_⟩
    · rw [hnext, chunk_of_left_zero hleft, copyActs_zero, entryMoved, if_pos hleft]
    · rw [hnext, hacts]
      exact ⟨fun hleft => congrArg _ (if_pos hleft), fun hleft => congrArg _ (if_neg hleft)⟩
  · have hnext := copyEntryComplete_saved hb hv he hcoll
    refine ⟨fun hleft => ?_, fun s1 e1 hacts => ?_⟩
    · rw [hnext, chunk_of_left_zero hleft, copyActs_zero, savedMoved, if_pos hleft]
    · rw [hnext, hacts]
      exact ⟨fun hleft => congrArg _ (if_pos hleft), fun hleft => congrArg _ (if_neg hleft)⟩
  · exact ⟨left_of_failing (failing_iff.mpr hfail), copyAct_of_failing (failing_iff.mpr hfail)⟩
  · have hgo := failing_eq_false_iff.mpr hmove
    exact ⟨left_of_moving hgo, fun s1 got => copyAct_reads hgo, fun s1 st bs bad => copyAct_writes hgo⟩
  · exact ⟨fun h => ⟨_, collectiveMatch_agrees hc hup hpeer h, rfl, rfl, rfl, mget_mput_same ..⟩, collectiveMatch_differs hc hup hpeer⟩
  · intro hurt hwrite
    exact collectiveComplete_completes hc hpeer hread hwrite
  · intro k rs at' bytes s1 s2 depth s3 gn hgrid
    exact binLaunch_launches hturn hb hland hsrc hsrcn hst hgrid
  · intro gxy z t s1 g hg
    exact blockStart_fresh hturn hsrc hg

end Sys2Proof.Machine

/-! # Mustering: how a wave signs a grid's register (R220, R221, R243) -/

namespace Sys2Proof.Machine

theorem Muster.ok_iff {m : Muster} : m.ok = true ↔
    1 ≤ m.expect ∧ m.expect ≤ 16 * groupRows m.shape ∧ 1 ≤ m.accu ∧ m.accu ≤ min 16 (4 * groupRows m.shape) := by
  simp only [Muster.ok, Bool.and_eq_true, decide_eq_true_eq, and_assoc]

/-- The clauses of a match, with membership in the list of signers for its test. -/
theorem Issue.mismatch_eq (c : Issue) (s : State) (h : HGrid) (m : Muster) : c.mismatch s h m =
    if h.ctx ≠ s.ctxNo c.x ∨ h.blk ≠ c.x.blk then 1
    else if h.shape ≠ m.shape ∨ h.accu ≠ m.accu ∨ h.expect ≠ m.expect then 2
    else if clusterRow c.w < h.base ∨ h.base + groupRows h.shape ≤ clusterRow c.w then 3
    else if c.w ∈ h.signed then 4 else if h.state ≠ 1 then 6 else 0 := by
  simp only [Issue.mismatch, List.contains_iff_mem]

/-! ## A signature, by stages -/

section
variable (c : Issue) (s : State)

/-- The grid key of the register that HMUST names. -/
def Issue.mustKey : Nat := hKey c.w (c.b.mdN % 16)

/-- The fields of HMUST's control word. -/
def Issue.must : Muster := Muster.of (c.sB s)

/-- The register that the wave signs: a free one is bound first. -/
def Issue.mustered : HGrid := if (s.hgrid c.mustKey).state = 0 then c.freshGrid s (c.must s) else s.hgrid c.mustKey

/-- The register with the wave among its signers. -/
def Issue.signedGrid : HGrid := { c.mustered s with signed := (c.mustered s).signed ++ [c.w] }

/-- A free register would claim a row that another holds. -/
def Issue.claimsHeld : Prop :=
  (s.hgrid c.mustKey).state = 0 ∧ (groupRowsOf c.mustKey (c.freshGrid s (c.must s))).any (fun r => s.rowHeld r) = true

/-- The clause of the match that fails; a free register has none. -/
def Issue.failingClause : Nat := if (s.hgrid c.mustKey).state = 0 then 0 else c.mismatch s (s.hgrid c.mustKey) (c.must s)

/-- The register takes this content, and the wave parks until the group has switched. -/
def Issue.signs (h : HGrid) : Eff :=
  .go { s := (s.putGrid c.mustKey h).modWave c.w fun y => y.park c.con s.stamp (.muster c.mustKey), work := some (.park none) }

/-- The last signature takes the accumulators' granules, where every row has them. -/
def Issue.signsLast : Eff :=
  match s.takeGroup c.mustKey (c.signedGrid s) with
  | none => .raise .harnessRfBusy c.con
  | some gs => c.signs s { c.signedGrid s with state := 2, granules := gs }

/-- What a wave that is no member does, with a control word within its limits. -/
def Issue.musters : Eff :=
  if (s.hgrid c.mustKey).state = 0 ∧ (groupRowsOf c.mustKey (c.mustered s)).any fun r => s.rowHeld r then .raise .harnessMismatch c.con 5
  else if c.failingClause s ≠ 0 then .raise .harnessMismatch c.con (c.failingClause s)
  else if (c.signedGrid s).signed.length < (c.must s).expect then c.signs s (c.signedGrid s)
  else c.signsLast s

/-- What HMUST does. -/
def hmustEff : Eff :=
  if (s.gridOfWave c.w).isSome then .raise .harnessState c.con
  else if c.sB s / 2 ^ 16 ≠ 0 then c.hrange 1 (c.sB s)
  else if !(c.must s).ok then c.hrange 2 (c.sB s)
  else c.musters s

end

theorem issuesAs_hmust (x : Body) : IssuesAs (.hmust x) hmustEff := fun _ => rfl

section
variable {c : Issue} {s : State}

theorem hmustEff_of_member (h : s.gridOfWave c.w ≠ none) : hmustEff c s = .raise .harnessState c.con :=
  if_pos (Option.isSome_iff_ne_none.mpr h)

section
variable (hfree : s.gridOfWave c.w = none)
include hfree

theorem hmustEff_of_wide (hcw : 65536 ≤ c.sB s) : hmustEff c s = c.hrange 1 (c.sB s) :=
  (if_neg (by simp [hfree])).trans (if_pos (by omega))

theorem hmustEff_of_not_ok (hcw : c.sB s < 65536) (hok : (c.must s).ok = false) : hmustEff c s = c.hrange 2 (c.sB s) :=
  (if_neg (by simp [hfree])).trans ((if_neg (by omega)).trans (if_pos (by simp [hok])))

theorem hmustEff_of_ok (hcw : c.sB s < 65536) (hok : (c.must s).ok = true) : hmustEff c s = c.musters s :=
  (if_neg (by simp [hfree])).trans ((if_neg (by omega)).trans (if_neg (by simp [hok])))

end

theorem mustered_of_free (h : (s.hgrid c.mustKey).state = 0) : c.mustered s = c.freshGrid s (c.must s) := if_pos h

theorem failingClause_of_free (h : (s.hgrid c.mustKey).state = 0) : c.failingClause s = 0 := if_pos h

theorem failingClause_of_bound (h : (s.hgrid c.mustKey).state ≠ 0) :
    c.failingClause s = c.mismatch s (s.hgrid c.mustKey) (c.must s) := if_neg h

theorem claimsHeld_iff : c.claimsHeld s ↔
    (s.hgrid c.mustKey).state = 0 ∧ (groupRowsOf c.mustKey (c.mustered s)).any (fun r => s.rowHeld r) = true :=
  and_congr_right fun h => by rw [mustered_of_free h]

theorem musters_of_claimsHeld (h : c.claimsHeld s) : c.musters s = .raise .harnessMismatch c.con 5 := if_pos (claimsHeld_iff.mp h)

theorem musters_of_mismatch (hbound : (s.hgrid c.mustKey).state ≠ 0) (h : c.failingClause s ≠ 0) :
    c.musters s = .raise .harnessMismatch c.con (c.failingClause s) :=
  (if_neg fun hc => hbound hc.1).trans (if_pos h)

section
variable (hclaim : ¬c.claimsHeld s) (hclause : c.failingClause s = 0)
include hclaim hclause

theorem musters_of_matches : c.musters s =
    if (c.signedGrid s).signed.length < (c.must s).expect then c.signs s (c.signedGrid s) else c.signsLast s :=
  (if_neg fun hc => hclaim (claimsHeld_iff.mpr hc)).trans (if_neg (not_not_intro hclause))

theorem musters_of_more (hlen : (c.signedGrid s).signed.length < (c.must s).expect) : c.musters s = c.signs s (c.signedGrid s) :=
  (musters_of_matches hclaim hclause).trans (if_pos hlen)

theorem musters_of_last (hlen : (c.must s).expect ≤ (c.signedGrid s).signed.length) : c.musters s = c.signsLast s :=
  (musters_of_matches hclaim hclause).trans (if_neg (Nat.not_lt.mpr hlen))

end

theorem signsLast_some {gs : List (Nat × List Nat)} (h : s.takeGroup c.mustKey (c.signedGrid s) = some gs) :
    c.signsLast s = c.signs s { c.signedGrid s with state := 2, granules := gs } := by
  rw [Issue.signsLast, h]

theorem signsLast_none (h : s.takeGroup c.mustKey (c.signedGrid s) = none) : c.signsLast s = .raise .harnessRfBusy c.con := by
  rw [Issue.signsLast, h]

end

/-- Settles O45: the register that the wave names refuses the signature, waits for more, or was waiting for this one. -/
theorem mustering : Obligations.Mustering := by
  unfold Obligations.Mustering
  intro x s c hs m g h0 gr limits claimed clause
  have htraps {t : Trap} (he : hmustEff c s = .trap t) : Traps (.hmust x) s c t 0#5 := (issuesAs_hmust x).traps hs he
  have hmusters (hfree : s.gridOfWave c.w = none) (hcw : c.sB s < 65536) (hlim : limits) : hmustEff c s = c.musters s :=
    hmustEff_of_ok hfree hcw (Muster.ok_iff.mpr hlim)
  have hclause (hbound : h0.state ≠ 0) : c.failingClause s = clause := (failingClause_of_bound hbound).trans (Issue.mismatch_eq ..)
  refine ⟨fun hmember => htraps (hmustEff_of_member hmember), fun hfree hcw => htraps (hmustEff_of_wide hfree hcw),
    fun hfree hcw hlim => htraps (hmustEff_of_not_ok hfree hcw (Bool.eq_false_iff.mpr fun hok => hlim (Muster.ok_iff.mp hok))),
    fun hfree hcw hlim hclaim => htraps ((hmusters hfree hcw hlim).trans (musters_of_claimsHeld hclaim)),
    fun hfree hcw hlim hbound hbad => ?_, fun hfree hcw hlim => ?_⟩
  · rw [← hclause hbound] at hbad ⊢
    exact htraps ((hmusters hfree hcw hlim).trans (musters_of_mismatch hbound hbad))
  · intro h h1 hclaim hmatch
    have hzero : c.failingClause s = 0 := by
      by_cases hbound : h0.state = 0
      · exact failingClause_of_free hbound
      · exact (hclause hbound).trans (hmatch hbound)
    have heff := hmusters hfree hcw hlim
    refine ⟨fun hmore => ?_, fun gs hlast htake => ?_, fun hlast htake => ?_⟩
    · exact (issuesAs_hmust x).does hs (heff.trans (musters_of_more hclaim hzero hmore))
    · exact (issuesAs_hmust x).does hs (heff.trans ((musters_of_last hclaim hzero hlast).trans (signsLast_some htake)))
    · exact htraps (heff.trans ((musters_of_last hclaim hzero hlast).trans (signsLast_none htake)))

end Sys2Proof.Machine

/-! # Harnessed grids: the switch, the end of a release, and the completions (R222, R232, R234, R241, R244) -/

namespace Sys2Proof.Machine

/-! ## The switch and the end of a release -/

section
variable {s : State} {g : Nat} {h : HGrid}

/-- A group that is about to switch, all of whose pending instructions may stay pending, switches. -/
theorem gridSwitch_switches (hg : mget s.wk.hgrids g = some h) (hstate : h.state = 2) (hsw : h.sw = false)
    (hkept : ∀ p ∈ s.onGroup g h, ∀ r ∈ p.2.pend, r.work.kept = true) : exec (.gridSwitch g) s =
      .next ((s.putGrid g { h with sw := true, lead := some h.leader, store := [], marks := [], curb := 0, fl := 0#5 }).modWave
        h.leader fun y => y.unpark s.clock (fun r => r.kind == .muster g) none) := by
  have hall : ((s.onGroup g h).any fun p => !p.2.pend.all fun q => q.work.kept) = false :=
    List.any_eq_false.mpr fun p hp => by simpa using hkept p hp
  change execGridSwitch g s = _
  unfold execGridSwitch
  rw [hg]
  exact if_neg (by simp [hstate, hsw, hall])

/-- The register of a grid is free, and its members are live. -/
def State.gridFreed (s : State) (g : Nat) : State :=
  ({ s with wk := { s.wk with hgrids := mdel s.wk.hgrids g } } : State).unparkAll (fun _ p => p.kind == .muster g) none

/-- The HREL of a lead completes when its grid's release ends. -/
def HGrid.relDone (h : HGrid) (g w : Nat) (x : Wave) : Wave :=
  if h.lead = some w then
    match x.pend.find? fun p => match p.work with | .hrel k => k == g | _ => false with
    | some p => x.complete p.stamp
    | none => x
  else x

theorem gridReleaseEnd_ends (hg : mget s.wk.hgrids g = some h) (hstate : h.state = 3) :
    exec (.gridReleaseEnd g) s = .next ((s.gridFreed g).mapWaves (h.relDone g)) := by
  change execGridReleaseEnd g s = _
  unfold execGridReleaseEnd
  rw [hg]
  exact if_neg (not_not_intro hstate)

@[simp] theorem complete_parks (x : Wave) (n : Nat) : (x.complete n).parks = x.parks := by rw [complete_eq]

@[simp] theorem relDone_parks (w : Nat) (x : Wave) : (h.relDone g w x).parks = x.parks := by
  unfold HGrid.relDone
  split
  next => split <;> simp
  next => rfl

/-- The groups that a release selects are gone. -/
theorem unpark_parks (x : Wave) (clock : Nat) (sel : Park → Bool) (val : Option Nat) :
    (x.unpark clock sel val).parks = x.parks.filter fun p => !sel p := by
  rw [unpark_eq]
  split
  next hnone =>
    have hsel := List.filter_eq_nil_iff.mp (List.isEmpty_iff.mp hnone)
    exact (List.filter_eq_self.mpr fun p hp => by simpa using hsel p hp).symm
  next => exact foldl_endPark_parks ..

theorem exists_of_wave_mapWaves {w : Nat} {y : Wave} {f : Nat → Wave → Wave} (h : (s.mapWaves f).wave w = some y) :
    ∃ x, s.wave w = some x ∧ f w x = y := Option.map_eq_some_iff.mp ((mget_map f s.waves w).symm.trans h)

/-- After the end of a grid's release no wave has lanes parked on its mustering. -/
theorem not_muster_of_freed {w : Nat} {y : Wave} (hy : ((s.gridFreed g).mapWaves (h.relDone g)).wave w = some y) {r : Park}
    (hr : r ∈ y.parks) : r.kind ≠ .muster g := by
  obtain ⟨z, hz, rfl⟩ := exists_of_wave_mapWaves hy
  obtain ⟨x, hx, -⟩ := exists_of_wave_mapWaves hz
  obtain rfl := Option.some.inj (hz.symm.trans (wave_unparkAll hx _ _))
  rw [relDone_parks, unpark_parks, List.mem_filter] at hr
  simpa using hr.2

end

/-! ## The oldest instruction of a grid completes -/

section
variable {s : State} {g w n : Nat} {h : HGrid} {o : HOp} {rest : List HOp}

/-- Nothing holds back the oldest instruction of a lead's grid, other than HMMA, once its clocks have passed. -/
theorem oldest_not_held_back (hn : o.stamp = n) (hclk : o.start + h.latency o ≤ s.clock) (hlead : h.lead = some w)
    (hmma : o.code ≠ 0x1E6) :
    ¬(o.stamp ≠ n ∨ o.code = 0x1E6 ∨ s.clock < o.start + h.latency o ∨ h.lead ≠ some w) := by
  simp [hn, hmma, hclk, hlead]

variable (hg : s.gridOfWave w = some (g, h)) (hops : h.ops = o :: rest) (hn : o.stamp = n) (hclk : o.start + h.latency o ≤ s.clock)
include hg hops hn hclk

theorem hmmaComplete_completes (hcode : o.code = 0x1E6) (hrows : o.args.getD 0 0 ≤ o.done) : exec (.hmmaComplete w n) s =
    .next ((s.putGrid g { h.pop with cut := false }).modWave w fun y => y.complete n) := by
  change execHmmaComplete w n s = _
  unfold execHmmaComplete
  rw [hg]
  dsimp -zeta only
  rw [hops]
  exact if_neg (by omega)

section
variable (hlead : h.lead = some w)
include hlead

theorem harnessCompletion_releases (hcode : o.code = 0x1E1) (hq : h.queries = 0) :
    exec (.harnessCompletion w n) s = .next (s.putGrid g h.releasing) := by
  change execHarnessCompletion w n s = _
  unfold execHarnessCompletion
  rw [hg]
  dsimp -zeta only
  rw [hops]
  exact (if_neg (oldest_not_held_back hn hclk hlead (by omega))).trans ((if_pos hcode).trans (if_pos hq))

theorem harnessCompletion_completes {x : Wave} (hrel : o.code ≠ 0x1E1) (hmma : o.code ≠ 0x1E6) (hw : s.wave w = some x)
    (horder : ∀ p, x.pending n = some p → x.inOrder p = true) :
    exec (.harnessCompletion w n) s = .next (s.harnessDone w g o) := by
  change execHarnessCompletion w n s = _
  unfold execHarnessCompletion
  rw [hg]
  dsimp -zeta only
  rw [hops]
  refine (if_neg (oldest_not_held_back hn hclk hlead hmma)).trans ((if_neg hrel).trans ?_)
  rw [hw]
  dsimp only
  split
  next p hp => exact if_pos (horder p hp)
  next => rfl

end

end

end Sys2Proof.Machine

/-! # Engines: queues, bins, queries and the router (R288, R292, R307 to R310, R315, R352, R354, R445) -/

namespace Sys2Proof.Machine

/-! ## Queues and bins -/

section
variable {s : State} {q : Nat}

theorem queueRefill_refills {t : TQ} (ht : mget s.wk.tqs q = some t) (hheld : 2 * t.held.length < t.slots) (hring : 0 < t.ringed) :
    exec (.queueRefill q) s = .next (s.refill q 65536) := by
  change execQueueRefill q s = _
  unfold execQueueRefill
  rw [ht]
  exact if_pos ⟨hheld, hring⟩

theorem binTimerExpire_fires {b : NBin} (hb : mget s.wk.nbins q = some b) (hrun : b.trun = true)
    (hdue : b.timerAt + 1000 * b.timer ≤ s.timeNs) (hheld : b.held ≠ []) :
    exec (.binTimerExpire q) s = .next (s.putBin q { b with fired := true, trun := false }) := by
  change execBinTimerExpire q s = _
  unfold execBinTimerExpire
  rw [hb]
  exact if_pos (by simp [hrun, hdue, hheld])

end

/-! ## Queries -/

/-- What a query does with the units of a node that have been read so far: once all have been, the visit's compare batch (R307). -/
def State.visitRead (s : State) (q : Nat) (x : Query) (node : Nat) (r : Rg) (lvl e : Nat) (rest : List BTodo)
    (us : Map (List Byte)) : State :=
  if us.length < 16 then s.putQuery q { x with state := 2, units := us }
  else
    match parseNode (us.flatMap Prod.snd), itemOf (x.kind == 3) x.words x.ctl with
    | some cs, .ok t => s.putQuery q { x with state := 2, units := [], todo := t.visit cs r lvl e ++ rest }
    | _, _ => s.endQuery q x 0x14 0 node

/-- The bin that a query's records go to. -/
def Query.bin (x : Query) : Nat := 256 * x.bcl + x.ctl.getD 2 0 % 256

/-- A query's bundle record, as its bin holds it (R309). -/
def State.bundle (s : State) (x : Query) (bytes : List Byte) : Rec :=
  { bytes := bytes, emitter := x.grid, depth := ((s.block x.blk).map Block.depth).getD 0, deps := s.m.seenBy (coreOf x.wave) }

/-- The state after a bin has been offered a query's record: the query stalls where the bin is full (R310). -/
def State.offered (s : State) (q : Nat) (x : Query) (b : NBin) (rest : List BTodo) (r : Rec) : State :=
  if b.held.length ≥ 2 ^ b.slog2 then s.putQuery q { x with state := 3 }
  else
    (((s.releaseEager (coreOf x.wave) 4).intoBin x.bin b r).putQuery q
      { x with state := 2, count := x.count + 1, todo := rest }).notDiscardable x.blk

section
variable {s : State} {q : Nat} {x : Query}

/-- A query that goes on is neither over nor stopped. -/
theorem not_over_and_resident (hruns : s.queryRuns x = true) (hstate : x.state = 2 ∨ x.state = 3) :
    ¬(x.state ≠ 2 ∧ x.state ≠ 3) ∧ ¬(!s.queryRuns x) = true := by
  rw [hruns]
  exact ⟨by omega, by decide⟩

variable (hx : s.query q = some x) (hruns : s.queryRuns x = true)
include hx hruns

theorem queryStart_starts {t : Item} (hstate : x.state = 1) (ht : itemOf (x.kind == 3) x.words x.ctl = .ok t) : exec (.queryStart q) s =
    .next (s.putQuery q { x with
      state := 2, todo := [.visit (x.ctl.getD 0 0 + 2 ^ 32 * x.ctl.getD 1 0) 0 0 t.lw t.lh 0 1] }) := by
  change execQueryStart q s = _
  unfold execQueryStart
  rw [hx]
  refine (if_neg (by simp [hstate, hruns])).trans ?_
  rw [ht]

section
variable (hstate : x.state = 2 ∨ x.state = 3)
include hstate

theorem queryEnd_ends (htodo : x.todo = []) : exec (.queryEnd q) s = .next (s.endQuery q x 0x10 0 0) := by
  obtain ⟨hgoes, hresident⟩ := not_over_and_resident hruns hstate
  change execQueryEnd q s = _
  unfold execQueryEnd
  rw [hx]
  refine (if_neg (not_or.mpr ⟨hgoes, hresident⟩)).trans ?_
  rw [htodo]

theorem compareBatch_reads {node i j lw lh lvl e : Nat} {rest : List BTodo} {s1 : State} {us : Map (List Byte)}
    (htodo : x.todo = .visit node i j lw lh lvl e :: rest) (he : e < 65) (hrows : (s.hgrid x.hgrid).rowsLeft = false)
    (hread : s.readNode x node = (s1, .ok us)) :
    exec (.compareBatch q) s = .next (s1.visitRead q x node ⟨i, j, lw, lh⟩ lvl e rest us) := by
  obtain ⟨hgoes, hresident⟩ := not_over_and_resident hruns hstate
  change execCompareBatch q s = _
  unfold execCompareBatch State.visitRead
  rw [hx]
  dsimp -zeta only
  rw [htodo]
  refine (if_neg (not_or.mpr ⟨hgoes, not_or.mpr ⟨by omega, not_or.mpr ⟨hresident, by simp [hrows]⟩⟩⟩)).trans ?_
  rw [hread]
  dsimp only
  split
  next => rfl
  next => cases parseNode (us.flatMap Prod.snd) <;> cases itemOf (x.kind == 3) x.words x.ctl <;> rfl

theorem recordEmit_offers {i j lw lh lvl first count hit tin tout : Nat} {rest : List BTodo} {b : NBin}
    (htodo : x.todo = .emit i j lw lh lvl first count hit tin tout :: rest) (hcount : x.count < 4096) (hup : s.clusterUp x.bcl = true)
    (hb : mget s.wk.nbins x.bin = some b) (hvalid : b.valid = true) (hctx : b.ctx = x.ctx) : exec (.recordEmit q) s =
      .next (s.offered q x b rest (s.bundle x (x.record i j lw lh lvl first count hit tin tout b.trl))) := by
  obtain ⟨hgoes, hresident⟩ := not_over_and_resident hruns hstate
  unfold Query.bin at hb
  change execRecordEmit q s = _
  unfold execRecordEmit State.offered
  rw [hx]
  dsimp -zeta only
  rw [htodo]
  refine (if_neg (not_or.mpr ⟨hgoes, not_or.mpr ⟨by omega, hresident⟩⟩)).trans ?_
  rw [hb]
  refine (if_neg (by simp [hup, hvalid, hctx])).trans ?_
  split <;> rfl

end

end

/-! ## Reins (R352, R354, R445) -/

section
variable {s : State} {n k : Nat} {d : Send}

/-- No older send of the same sender to the same vector waits: the router handles this one, and answers the wave that made it. -/
theorem reinRouterSend_answers {s1 : State} {ok : Bool} {v : Nat × Nat} (hd : s.wk.sends[n]? = some d)
    (hfirst : ∀ e ∈ s.wk.sends.take n, ¬(e.id = d.id ∧ e.vec = d.vec ∧ e.ctx = d.ctx))
    (hroute : ({ s with wk := { s.wk with sends := s.wk.sends.eraseIdx n } } : State).routeSend d.id d.ctx d.vec d.payload d.deps =
      (s1, ok)) (hpage : d.page = none) (hv : d.w = some v) : exec (.reinRouterSend n) s = .next (s1.sendAnswer v ok) := by
  have hnone : ¬((s.wk.sends.take n).any fun e => e.id == d.id && e.vec == d.vec && e.ctx == d.ctx) = true := by
    simpa [and_assoc] using hfirst
  change execReinRouterSend n s = _
  unfold execReinRouterSend
  rw [hd]
  refine (if_neg hnone).trans ?_
  dsimp only
  rw [hroute, hv, hpage]

theorem refusedWriteback_writes (hdirty : (s.ctx k).dirty = true) (hrecord : (s.ctx k).record = true) : exec (.refusedWriteback k) s =
    .next ((s.putCtx k { s.ctx k with dirty := false }).qWrite 0 ((s.ctx k).image + 72) (leBytesOf 4 (s.ctx k).refused)).1 :=
  if_pos ⟨hdirty, hrecord⟩

theorem peerReinArrival_routes (hup : s.pk.twin.state = 2) : exec (.peerReinArrival n) s =
    .next (s.routeSend (2 ^ 14 + bitsOf n 85 78) (bitsOf n 77 70) (bitsOf n 69 64) (n % 2 ^ 64)).1 := if_neg (not_not_intro hup)

theorem peerReinAnswer_answers {v : Nat × Nat} (hd : (s.pk.peerSends.find? fun e => (e.w.map Prod.snd) == some n) = some d)
    (hv : d.w = some v) (ok : Nat) : exec (.peerReinAnswer n ok) s =
      .next (({ s with pk := { s.pk with peerSends := s.pk.peerSends.filter fun e => e.w != d.w } } : State).sendAnswer v (ok == 1)) := by
  change execPeerReinAnswer n ok s = _
  unfold execPeerReinAnswer
  rw [hd]
  dsimp only
  rw [hv]

end

/-- Settles O55: each event by the equation of its own. -/
theorem engineEvents : Obligations.EngineEvents := by
  unfold Obligations.EngineEvents
  intro s g w n q k h
  refine ⟨gridSwitch_switches, fun hrising hg hstate => ?_,
    fun o rest hg hops hn hcode hrows hclk => hmmaComplete_completes hg hops hn hclk hcode hrows,
    fun o rest hg hops hn hcode hclk hlead hq => harnessCompletion_releases hg hops hn hclk hlead hcode hq,
    fun o rest x hg hops hn hrel hmma hclk hlead hw horder => harnessCompletion_completes hg hops hn hclk hlead hrel hmma hw horder,
    fun t ht hheld hring => queueRefill_refills ht hheld hring, fun b => binTimerExpire_fires,
    fun x t hx hstate hruns ht => queryStart_starts hx hruns hstate ht, fun x hx hstate hruns htodo => queryEnd_ends hx hruns hstate htodo,
    fun x node i j lw lh lvl e rest s1 us hx htodo hstate he hruns hrows hread => ?_,
    fun x b i j lw lh lvl first count hit tin tout rest hx htodo hstate hcount hruns hup hb hvalid hctx => ?_,
    fun d s1 ok hd hfirst hroute hpage v hv => reinRouterSend_answers hd hfirst hroute hpage hv, refusedWriteback_writes,
    peerReinArrival_routes, fun d v hd hv => peerReinAnswer_answers hd hv 1⟩
  · exact ⟨_, gridReleaseEnd_ends hg hstate, mget_mdel_same hrising g, rfl, fun k hk => mget_mdel_other _ hk,
      fun v y hy r hr => not_muster_of_freed hy hr⟩
  · rw [compareBatch_reads hx hruns hstate htodo he hrows hread]
    refine ⟨fun hfew => congrArg _ (if_pos hfew), fun cs t hall hnode hitem => congrArg _ ((if_neg (Nat.not_lt.mpr hall)).trans ?_)⟩
    rw [hnode, hitem]
  · rw [recordEmit_offers hx hruns hstate htodo hcount hup hb hvalid hctx]
    exact ⟨fun hfull => congrArg _ (if_pos hfull), fun hroom => congrArg _ (if_neg (Nat.not_le.mpr hroom))⟩

end Sys2Proof.Machine

/-! # The lead of a harnessed grid: what its instructions check, and what they add to the grid's order (R239 to R255) -/

namespace Sys2Proof.Machine

/-! ## The checks of a lead (R230, R239, R240) -/

/-- An instruction issues as what a grid's lead does with its grid, as that is after every older instruction of the lead. -/
def IssuesAsLead (i : Instr) (f : Issue → State → Nat → HGrid → Eff) : Prop := IssuesAs i fun c s => c.lead s (f c)

section
variable {c : Issue} {s : State} {g : Nat} {h0 : HGrid}

/-- A wave that leads its switched grid, with no older scratchpad access pending, goes on with that grid (R239). -/
theorem lead_of_leads (h : Leads s c g h0) (f : State → Nat → HGrid → Eff) : c.lead s f = f s g h0.ahead := by
  obtain ⟨hgrid, hlead, hstate, hsw, hsp⟩ := h
  rw [Issue.lead, hgrid]
  exact (if_pos ⟨hlead, hstate, hsw⟩).trans (if_neg (Bool.eq_false_iff.mp hsp))

/-- Any other wave traps (R239). -/
theorem lead_of_not_lead (h : ∀ g h, s.gridOfWave c.w = some (g, h) → ¬(h.lead = some c.w ∧ h.state = 2 ∧ h.sw = true))
    (f : State → Nat → HGrid → Eff) : c.lead s f = .trap { cause := .harnessState, mask := c.con } := by
  rw [Issue.lead]
  split
  next g grid hgrid => exact if_neg (h g grid hgrid)
  next => rfl

/-- A well-formed record goes on as its fields (R230). -/
theorem recordAt_of_ok {any : Bool} {off : Nat} {r : Record} (h : recordOk (c.sGroup s c.b.a.toNat 4) any = true)
    (hr : .of (c.sGroup s c.b.a.toNat 4) off = r) (f : Record → Eff) : c.recordAt s any off f = f r :=
  hr ▸ if_pos h

/-- Ranges that lie in the lead's region pass (R240). -/
theorem ranges_of_inRegion {rs : List (Nat × Nat)} (h : inRegion c s rs) (f : Unit → Eff) : c.ranges s rs f = f () := by
  have hnone : rs.find? (fun r => decide (r.1 + r.2 > c.regionSize s)) = none :=
    List.find?_eq_none.mpr fun r hr => by simpa [Issue.regionSize] using h r hr
  rw [Issue.ranges, hnone]

theorem bitsOf_eq_div {x hi lo : Nat} (h : x < 2 ^ (hi + 1)) (hlo : lo ≤ hi) : bitsOf x hi lo = x / 2 ^ lo := by
  refine Nat.mod_eq_of_lt ((Nat.div_lt_iff_lt_mul (Nat.two_pow_pos lo)).mpr ?_)
  rwa [← Nat.pow_add, Nat.sub_add_cancel (by omega)]

/-- What a lead does with its grid is what its instruction does. -/
theorem IssuesAsLead.does {i : Instr} {f : Issue → State → Nat → HGrid → Eff} {e : Fx} (hi : IssuesAsLead i f) (hl : Leads s c g h0)
    (hs : Starts i s c) (he : f c s g h0.ahead = .go e) : Does i s c e :=
  IssuesAs.does hi hs ((lead_of_leads hl (f c)).trans he)

end

/-- Settles O44: each of these instructions asks first whether its wave leads a switched grid. -/
theorem onlyLeadsHarness : Obligations.OnlyLeadsHarness := by
  unfold Obligations.OnlyLeadsHarness
  intro i s c hi hs hno
  have hlead : ∃ f, IssuesAsLead i f := by
    split at hi
    case h_14 => exact hi.elim
    all_goals exact ⟨_, fun _ => rfl⟩
  obtain ⟨f, hf⟩ := hlead
  exact IssuesAs.traps hf hs (lead_of_not_lead hno (f c))

/-! ## Instructions with few operands (R244, R245, R248, R252, R255) -/

section
variable {x : Body} {c : Issue} {s : State} {g b : Nat} {h0 : HGrid} (hl : Leads s c g h0) (hb : (c.s s c.b.b.toNat).toNat = b)
include hl hb

/-- R245: up to 64 entries, each at most 511, at an even address. -/
theorem hlda_joins {a : Nat} {es : List Nat} (ha : c.spAddr s 0 = a)
    (hes : (List.range b).map (fun i => s.spNum (coreOf c.w) c.x.blk a (2 * b) / 65536 ^ i % 65536) = es) (hs : Starts (.hlda x) s c)
    (hmin : 1 ≤ b) (hmax : b ≤ 64) (halign : a % 2 = 0) (hin : inRegion c s [(a, 2 * b)]) (hfit : ∀ e ∈ es, e ≤ 511) :
    Does (.hlda x) s c (joins c (c.spRead s a (2 * b)).1 g 0x1E2
      [1 - h0.ahead.ixCur, (List.range 64).foldl (fun n i => n + (es.getD i 0xFFFF) * 65536 ^ i) 0] (.grid g [] none) false) := by
  subst hb ha hes
  refine IssuesAsLead.does (fun _ => rfl) hl hs ?_
  refine (if_neg (by omega)).trans ((if_neg (not_not_intro halign)).trans ((ranges_of_inRegion hin _).trans (if_neg ?_)))
  simpa using hfit

/-- R252: CNT + 1 accumulator rows from ROW on. -/
theorem hzero_joins (hs : Starts (.hzero x) s c) (hcw : b < 2 ^ 22) (hrows : b % 2048 + b / 2048 < h0.ahead.accRows) :
    Does (.hzero x) s c (joins c s g 0x1E7 [b % 2048, b / 2048 + 1] (.grid g [] none) false) := by
  subst hb
  refine IssuesAsLead.does (fun _ => rfl) hl hs ((if_neg (by omega)).trans ?_)
  rw [bitsOf_eq_div hcw (by decide)]
  exact if_neg (Nat.not_le.mpr hrows)

/-- R252: lane l of register i of A holds the factor of row ROW + 32·i + l. -/
theorem hrowsc_joins (hs : Starts (.hrowsc x) s c) (hcw : b < 2 ^ 11) (hrows : b + 32 * Body.regs c.b.aW ≤ h0.ahead.accRows) :
    Does (.hrowsc x) s c (joins c s g 0x1E8 (32 * Body.regs c.b.aW :: (List.range (Body.regs c.b.aW)).flatMap fun i =>
      (lanesOf c.con).flatMap fun l => [b + 32 * i + l, (c.v s (c.b.a.toNat + i) l).toNat]) (.grid g [] none) false) := by
  subst hb
  have hregs : 0 < Body.regs c.b.aW := Nat.two_pow_pos _
  refine IssuesAsLead.does (fun _ => rfl) hl hs ((if_neg (by omega)).trans ?_)
  rw [Nat.mod_eq_of_lt (show _ < 2048 from hcw)]
  exact if_neg (by omega)

/-- R255: boxes and planes at multiples of 4. -/
theorem hboxt_joins {a : Nat} (ha : (c.s s c.b.a.toNat).toNat % 2 ^ 18 = a) (hs : Starts (.hboxt x) s c) (hboxes : a % 4 = 0)
    (hplanes : b % 2 ^ 18 % 4 = 0) (hin : inRegion c s (boxesOf a (lanesOf c.con) ++
      (List.range (c.b.mdN % 8 + 1)).map fun i => (planeAt (b % 2 ^ 18) i, 16))) :
    Does (.hboxt x) s c (joins c s g 0x1EA [c.b.mdN % 8 + 1, a, b % 2 ^ 18, c.b.d.toNat] (.grid g [] none) false) := by
  subst hb ha
  refine IssuesAsLead.does (fun _ => rfl) hl hs ?_
  exact (if_neg (not_not_intro hboxes)).trans ((if_neg (not_not_intro hplanes)).trans (ranges_of_inRegion hin _))

end

/-- The boxes of the lower lanes, then those of the upper (R239). -/
theorem boxesOf_eq_append (a : Nat) (ls : List Nat) :
    boxesOf a ls = (ls.map fun l => ((a + 24 * l) % 2 ^ 18, 24)) ++ ls.map fun l => ((a + 24 * (l + 32)) % 2 ^ 18, 24) := by
  rw [boxesOf, List.map_append, List.map_map]
  rfl

/-- A plane is taken modulo 2^18 as a whole, so its base may be reduced before (R158). -/
theorem planeAt_mod (b i : Nat) : planeAt (b % 2 ^ 18) i = (b + 16 * i) % 2 ^ 18 := Nat.mod_add_mod ..

/-- Settles O46: each instruction's checks pass, so it joins the order. -/
theorem harnessControl : Obligations.HarnessControl := by
  unfold Obligations.HarnessControl
  intro x s c g h0 hl u h b a at' seen es all
  refine ⟨fun hs => IssuesAsLead.does (fun _ => rfl) hl hs rfl, fun hs => IssuesAsLead.does (fun _ => rfl) hl hs rfl,
    fun hs => IssuesAsLead.does (fun _ => rfl) hl hs rfl, fun hs => IssuesAsLead.does (fun _ => rfl) hl hs rfl,
    fun hs hmin hmax halign hin hfit => hlda_joins hl rfl rfl rfl hs hmin hmax halign hin hfit, hzero_joins hl rfl, hrowsc_joins hl rfl,
    fun hs hboxes hplanes hin => hboxt_joins hl rfl rfl hs hboxes hplanes ?_⟩
  simp only [boxesOf_eq_append, planeAt_mod]
  exact hin

/-! ## Instructions that name a record (R246, R247, R249 to R253) -/

/-- The Kc codes at which a format's weights are loaded (R246). -/
def kcFits (fmt kc : Nat) : Bool := match fmt with | 5 | 6 => kc == 0 | 4 => kc == 1 || kc == 2 | _ => kc == 1

theorem kcFits_of {fmt kc : Nat} (h16 : fmt = 5 ∨ fmt = 6 → kc = 0) (h4 : fmt = 4 → kc = 1 ∨ kc = 2)
    (h8 : fmt ≠ 4 → fmt ≠ 5 → fmt ≠ 6 → kc = 1) : kcFits fmt kc = true := by
  unfold kcFits
  split <;> simp_all

/-- The columns of a weight bank in the scratchpad, of `vals` stored values each (R246). -/
def bankColumns (h : HGrid) (r : Record) (vals : Nat) : List (Nat × Nat) :=
  (List.range (gridN h.shape)).map fun i => ((r.off + i * r.pitch) % 2 ^ 18, vals * fmtBits r.fmt / 8)

/-- Stored values of a column of physical K `p`, of `gs` groups where it is sparse (R228). -/
def Record.colVals (r : Record) (p gs : Nat) : Nat := if r.spn = 0 then p else gs * groupVals r.spn

/-- Where the metadata of a sparse bank begins (R246). -/
def Record.metaAt (r : Record) : Nat := 8 * r.metaoff % 2 ^ 18

/-- The range of the metadata of `n` columns of `gs` groups; a dense bank has none. -/
def Record.metaRange (r : Record) (n gs : Nat) : List (Nat × Nat) := if r.spn = 0 then [] else [(r.metaAt, 8 * n * gs)]

/-- The metadata words that HLDB reads as it issues. -/
def Issue.metaWords (c : Issue) (s : State) (r : Record) (n gs : Nat) : List Nat :=
  if r.spn = 0 then [] else
    (List.range (n * gs)).map fun i => s.spNum (coreOf c.w) c.x.blk r.metaAt (8 * n * gs) / 2 ^ (64 * i) % 2 ^ 64

/-- The state in which the metadata's read has been watched. -/
def Issue.metaSeen (c : Issue) (s : State) (r : Record) (n gs : Nat) : State :=
  if r.spn = 0 then s else (c.spRead s r.metaAt (8 * n * gs)).1

/-- Which of its record's rows HMMA reads as row i: entry i of the current index vector while one is in use (R245, R250). -/
def HGrid.streamRow (h : HGrid) (i : Nat) : Nat := if h.idxv = true then h.num (0x5C000 + 128 * h.ixCur + 2 * i) 2 else i

section
variable {x : Body} {c : Issue} {s : State} {g cw : Nat} {h0 : HGrid} (hl : Leads s c g h0)
include hl

section
variable (hb : (c.s s c.b.b.toNat).toNat = cw)
include hb

/-- R247: lines of scales for the 512 rows of an A record, or for the N columns of a bank. -/
theorem hlds_joins {r : Record} {off : Nat} (hr : Record.of (c.sGroup s c.b.a.toNat 4) (litExt true 64 (c.b.lit.getD 0#32)) = r)
    (hoff : wrapInt 18 ((r.stoff * 128 : Nat) + ((c.b.lit.getD 0#32).toInt)) = off) (hs : Starts (.hlds x) s c)
    (hok : recordOk (c.sGroup s c.b.a.toNat 4) false = true) (hcw : cw < 2 ^ 18)
    (hlines : cw % 512 + cw / 512 < if c.b.mdN % 4 = 0 then 512 else gridN h0.ahead.shape)
    (hin : inRegion c s [(off, 16 * (cw / 512 + 1))]) :
    Does (.hlds x) s c (joins c s g 0x1E5 [c.b.mdN % 4, cw % 512, cw / 512 + 1, off] (.grid g [] none) false) := by
  subst hb hoff
  refine IssuesAsLead.does (fun _ => rfl) hl hs ((recordAt_of_ok hok hr _).trans ((if_neg (by omega)).trans ?_))
  rw [bitsOf_eq_div hcw (by decide)]
  exact (if_neg (Nat.not_le.mpr hlines)).trans (ranges_of_inRegion hin _)

/-- R253: CNT + 1 accumulator rows, to the scratchpad rows that the record names. -/
theorem hdrnSp_joins {r : Record} (hr : Record.of (c.sGroup s c.b.a.toNat 4) (litExt true 64 (c.b.lit.getD 0#32)) = r)
    (hs : Starts (.hdrnSp x) s c) (hok : recordOk (c.sGroup s c.b.a.toNat 4) true = true) (hspn : r.spn = 0) (hmx : r.mx = false)
    (hcw : cw < 2 ^ 22) (hrows : cw % 2048 + cw / 2048 < h0.ahead.accRows)
    (hin : inRegion c s ((List.range (cw / 2048 + 1)).map fun i =>
      ((r.off + i * r.pitch) % 2 ^ 18, gridN h0.ahead.shape * drainBits (c.b.mdN % 16) / 8))) :
    Does (.hdrnSp x) s c (joins c s g 0x2E9 [c.b.mdN % 16, c.b.mdN / 16, cw % 2048, cw / 2048 + 1, r.off, r.pitch]
      (.grid g [] none) true true) := by
  subst hb
  refine IssuesAsLead.does (fun _ => rfl) hl hs ((recordAt_of_ok hok hr _).trans ((if_neg (by simp [hspn, hmx])).trans
    ((if_neg (by omega)).trans ?_)))
  rw [bitsOf_eq_div hcw (by decide)]
  exact (if_neg (Nat.not_le.mpr hrows)).trans (ranges_of_inRegion hin _)

/-- R253: contributor l receives `e` columns of row ROW + l. -/
theorem hdrnReg_joins {e : Nat} (he : (if drainBits (c.b.mdN % 16) = 6 then 4 * Body.regs c.b.dW
      else 32 * Body.regs c.b.dW / drainBits (c.b.mdN % 16)) = e) (hs : Starts (.hdrnReg x) s c) (hcw : cw < 2 ^ 18)
    (hrows : ∀ l, l < 32 → c.con.getLsbD l = true → cw % 2048 + l < h0.ahead.accRows)
    (hcols : cw / 2048 + e ≤ gridN h0.ahead.shape) :
    Does (.hdrnReg x) s c (joins c s g 0x1E9
      [c.b.mdN % 16, c.b.mdN / 16, cw % 2048, cw / 2048, e, c.b.d.toNat, Body.regs c.b.dW] (.grid g [] none) true true) := by
  subst hb he
  have hlanes : ¬(c.lanes.any fun l => decide ((c.s s c.b.b.toNat).toNat % 2048 + l ≥ h0.ahead.accRows)) = true := by
    simpa [Issue.lanes, -BitVec.getLsbD_eq_getElem] using hrows
  refine IssuesAsLead.does (fun _ => rfl) hl hs ((if_neg (by omega)).trans ((if_neg hlanes).trans ?_))
  rw [bitsOf_eq_div hcw (by decide)]
  exact if_neg (Nat.not_lt.mpr hcols)

end

/-- R249 to R251: `k` is the used length of a row, the bank's full K unless the control word shortens it. -/
theorem hmma_joins {r : Record} {d k : Nat} (hr : Record.of (c.sGroup s c.b.a.toNat 4) 0 = r) (hw : c.sB s = cw)
    (hd : h0.ahead.desc h0.ahead.curb = d) (hk : (if bitsOf cw 23 20 = 0 then h0.ahead.fullK d else 32 * bitsOf cw 23 20) = k)
    (hs : Starts (.hmma x) s c) (hok : recordOk (c.sGroup s c.b.a.toNat 4) false = true) (hspn : r.spn = 0) (hvalid : 512 ≤ d)
    (hpair : pairKc r.fmt (d % 16) = some (bitsOf d 8 7)) (hmx : r.mx = true → h0.ahead.fullK d % 32 = 0) (hcw : cw < 2 ^ 24)
    (hlen : bitsOf cw 23 20 ≠ 0 → descSpn d = 0 ∧ 32 * bitsOf cw 23 20 ≤ h0.ahead.fullK d)
    (hrows : bitsOf cw 19 9 + cw % 512 < h0.ahead.accRows)
    (hidx : h0.ahead.idxv = true → cw % 512 < 64 ∧ ∀ i, i < cw % 512 + 1 → h0.ahead.streamRow i ≠ 0xFFFF)
    (hin : inRegion c s ((List.range (cw % 512 + 1)).map fun i =>
      ((r.off + h0.ahead.streamRow i * r.pitch) % 2 ^ 18, ceilDiv (k * fmtBits r.fmt) 8))) :
    Does (.hmma x) s c (joins c s g 0x1E6 [cw % 512 + 1, bitsOf cw 19 9, k, r.fmt, r.mx.toNat, r.off, r.pitch, h0.ahead.idxv.toNat,
      h0.ahead.ixCur, h0.ahead.curb] (.hmma g) false) := by
  subst hk hw hd
  refine IssuesAsLead.does (fun _ => rfl) hl hs ((recordAt_of_ok hok hr _).trans ((if_neg ?_).trans ((if_neg (by omega)).trans
    ((if_neg ?_).trans ((if_neg (by omega)).trans ((if_neg ?_).trans (ranges_of_inRegion hin _)))))))
  · rintro (hsparse | hempty | hother | ⟨hscaled, hblocks⟩)
    · exact hsparse hspn
    · omega
    · exact hother hpair
    · exact hblocks (hmx hscaled)
  · rintro ⟨hpart, hlong⟩
    obtain ⟨hdense, hshort⟩ := hlen hpart
    omega
  · rintro ⟨huse, hmany⟩
    obtain ⟨hfew, hnamed⟩ := hidx huse
    rcases hmany with hmany | hmany
    · omega
    · obtain ⟨i, hi, hno⟩ := List.any_eq_true.mp hmany
      exact hnamed i (List.mem_range.mp hi) (beq_iff_eq.mp hno)

/-- R246: a bank of physical K `p` in `gs` groups a column, with its metadata read and checked where it is sparse. -/
theorem hldb_joins {r : Record} {kc p gs : Nat} (hr : Record.of (c.sGroup s c.b.a.toNat 4) (litExt true 64 (c.b.lit.getD 0#32)) = r)
    (hkc : c.b.mdN / 2 % 4 = kc) (hp : 4 * 2 ^ kc * gridRows h0.ahead.shape = p) (hgs : sparseGroups p r.spn = gs)
    (hs : Starts (.hldb x) s c) (hok : recordOk (c.sGroup s c.b.a.toNat 4) false = true) (hfit : kcFits r.fmt kc = true)
    (hsparse : r.spn ≠ 0 → 128 ≤ p ∧ 24 * gs ≤ 512 ∧ (r.mx = true → 24 * gs % 32 = 0))
    (hin : inRegion c s (bankColumns h0.ahead r (r.colVals p gs) ++ r.metaRange (gridN h0.ahead.shape) gs))
    (hmeta : ∀ m ∈ c.metaWords s r (gridN h0.ahead.shape) gs, metaOk (groupVals r.spn) m = true) :
    Does (.hldb x) s c (joins c (c.metaSeen s r (gridN h0.ahead.shape) gs) g 0x1E3
      ([c.b.mdN % 2, kc, r.fmt, r.spn, r.off, r.pitch, r.metaAt, gs, 512 + kc * 128 + r.spn * 32 + r.mx.toNat * 16 + r.fmt]
        ++ c.metaWords s r (gridN h0.ahead.shape) gs) (.grid g [] none) false) := by
  have hall : (c.metaWords s r (gridN h0.ahead.shape) gs).any (fun m => !metaOk (groupVals r.spn) m) = false :=
    List.any_eq_false.mpr fun m hm => by rw [hmeta m hm]; decide
  subst hkc hp hgs
  refine IssuesAsLead.does (fun _ => rfl) hl hs ((recordAt_of_ok hok hr _).trans ((if_neg ?_).trans ?_))
  · rintro (hno | ⟨hspn, hbad⟩)
    · exact Bool.eq_false_iff.mp ((Bool.not_eq_true' _).mp hno) hfit
    · obtain ⟨hlong, hshort, hmx⟩ := hsparse (of_decide_eq_true hspn)
      rcases hbad with hbad | hbad | ⟨hscaled, hblocks⟩
      · omega
      · omega
      · exact hblocks (hmx hscaled)
  · simp only [Record.colVals, Record.metaRange, Issue.metaWords, Issue.metaSeen] at hin hall ⊢
    by_cases hspn : r.spn = 0
    · rw [decide_eq_false (not_not_intro hspn)]
      simp only [if_pos hspn] at hin ⊢
      exact ranges_of_inRegion hin _
    · rw [decide_eq_true hspn]
      simp only [if_neg hspn] at hin hall ⊢
      exact (ranges_of_inRegion hin _).trans (if_neg (Bool.eq_false_iff.mp hall))

end

/-- Settles O47: the record, the control word and the metadata pass their checks, so the instruction joins the order. -/
theorem harnessStreams : Obligations.HarnessStreams := by
  unfold Obligations.HarnessStreams
  intro x s c g h0 hl u h q r cw n lds
  refine ⟨fun hs hok h16 h4 h8 => ?_, hlds_joins hl rfl rfl rfl, fun hs => hmma_joins hl rfl rfl rfl rfl hs, hdrnSp_joins hl rfl rfl,
    fun hs hcw hrows => hdrnReg_joins hl rfl rfl hs hcw hrows⟩
  exact hldb_joins hl rfl rfl rfl rfl hs hok (kcFits_of h16 h4 h8)

end Sys2Proof.Machine

/-! # Work records: what TQPUSH, NREC and LAUNCH issue as (R285, R295 to R297) -/

namespace Sys2Proof.Machine

/-! ## A check of addresses leaves the registers (R177) -/

/-- The registers, and the stamp that decides how early a pending write is seen, are the same. -/
def sameRegs (s t : State) : Prop := t.stamp = s.stamp ∧ t.co.rf = s.co.rf

theorem sameRegs_refl (s : State) : sameRegs s s := ⟨rfl, rfl⟩

theorem sameRegs_trans {s t u : State} (h : sameRegs s t) (h' : sameRegs t u) : sameRegs s u :=
  ⟨h'.1.trans h.1, h'.2.trans h.2⟩

theorem sameRegs_only {s t : State} (h : onlyMem s t) : sameRegs s t := by
  obtain ⟨m, rfl⟩ := h
  exact sameRegs_refl s

theorem wrote_regs (s : State) (line : Nat) : sameRegs s (s.wrote line) := by
  have hresv : sameRegs s (s.unreserve line fun _ => true) := by
    unfold State.unreserve
    dsimp only
    split <;> exact ⟨rfl, rfl⟩
  unfold State.wrote
  dsimp only
  split <;> exact hresv

/-- A write at the point of coherence. -/
theorem cohStore_regs (s : State) (host : Bool) (pa : Nat) (bs : List Byte) (rels : List Rel) :
    sameRegs s (s.cohStore host pa bs rels) := by
  unfold State.cohStore
  dsimp only
  refine sameRegs_trans (sameRegs_trans (sameRegs_only ?_) (wrote_regs _ _)) (sameRegs_only (cleanse_only ..))
  exact onlyMem_trans (onlyMem_fold _ (fun s c => expel_only s c _) _ s)
    (onlyMem_trans (onlyMem_mapMem ..) (onlyMem_trans (onlyMem_mapMem ..) (onlyMem_mapMem ..)))

/-- The last checks of a translation keep the state that the lookup left. -/
theorem confirmed_fst (k : AccKind) (va : Nat) (dev : Bool) (f : State × Except Nat (Nat × Nat)) :
    (match f with
      | (s, .error e) => ((s, .error e) : State × Except Nat Nat)
      | (s, .ok (pte, bits)) =>
        match (pteDenies k pte).orElse fun _ => if dev then some 8 else none with
        | some r => (s, .error r)
        | none => if s.inMemory (pteAddr pte bits va) then (s, .ok (pteAddr pte bits va)) else (s, .error 10)).1 = f.1 := by
  obtain ⟨s, e | ⟨pte, bits⟩⟩ := f
  · rfl
  · dsimp only
    split
    · rfl
    · split <;> rfl

/-- A translation may set the A and D bits of a page-table entry and fill the TLBs; it writes no register. -/
theorem translate_regs (s : State) (core ctx va : Nat) (k : AccKind) : sameRegs s (s.translate core ctx va k).1 := by
  unfold State.translate
  dsimp only
  split
  · exact sameRegs_refl s
  split
  next hp => exact sameRegs_only (procCtx_only hp)
  next u p dev hp =>
    refine sameRegs_trans (sameRegs_only (procCtx_only hp)) ?_
    split
    next => exact sameRegs_refl u
    refine (congrArg (sameRegs u) (confirmed_fst ..)).mpr ?_
    -- a TLB entry that serves; a walk that fails; an entry whose A or D bit may not be set; one that denies the access
    split
    next => exact sameRegs_refl u
    split
    next => exact sameRegs_refl u
    split
    next => exact sameRegs_refl u
    split
    next => exact sameRegs_refl u
    dsimp only
    refine sameRegs_trans ?_ (sameRegs_only (onlyMem_mapMem _ _))
    exact iteInduction (motive := sameRegs u) (fun _ => sameRegs_refl u) fun _ => cohStore_regs ..

theorem partsOf_regs (core ctx : Nat) (q : Want) (k : AccKind) (l : List (Nat × Nat)) (s : State) :
    sameRegs s (s.partsOf core ctx q k l).1 := by
  induction l generalizing s with
  | nil => exact sameRegs_refl s
  | cons a l ih =>
    have hfirst := translate_regs s core ctx (a.1 % 2 ^ 64) k
    unfold State.partsOf
    split <;> next ht =>
      rw [ht] at hfirst
      have hall := sameRegs_trans hfirst (ih _)
      split <;> next hr => rwa [hr] at hall

theorem translateAll_regs (core ctx : Nat) (a : Ask) (qs : List Want) (s : State) :
    sameRegs s (s.translateAll core ctx a qs).1 := by
  induction qs generalizing s with
  | nil => exact sameRegs_refl s
  | cons q qs ih => exact sameRegs_trans (partsOf_regs ..) (ih _)

theorem checkGlobal_regs {s t : State} {core ctx blk : Nat} {a : Ask} {qs : List Want} {r : Except Trap (List Piece)}
    (h : s.checkGlobal core ctx blk a qs = (t, r)) : sameRegs s t := by
  rw [show t = (s.checkGlobal core ctx blk a qs).1 from (congrArg Prod.fst h).symm]
  unfold State.checkGlobal
  dsimp only
  split
  · exact sameRegs_refl s
  split
  · exact sameRegs_refl s
  split
  · exact sameRegs_refl s
  have hall := translateAll_regs core ctx a (qs.filter fun q => !onWindow q.va q.n) s
  split <;> exact hall

/-- An operand is read from the registers alone. -/
theorem sameRegs.regA {s t : State} (h : sameRegs s t) (c : Issue) (lane : Nat) : c.regA t lane = c.regA s lane := by
  obtain ⟨hstamp, hrf⟩ := h
  have hs : ∀ cnt n, c.sGroup t n cnt = c.sGroup s n cnt := fun cnt => by
    induction cnt with
    | zero => exact fun _ => rfl
    | succ cnt ih => exact fun n => by rw [Issue.sGroup, Issue.sGroup, Issue.s, Issue.s, ih, hstamp]
  have hv : ∀ cnt n, c.vGroup t n lane cnt = c.vGroup s n lane cnt := fun cnt => by
    induction cnt with
    | zero => exact fun _ => rfl
    | succ cnt ih => exact fun n => by rw [Issue.vGroup, Issue.vGroup, Issue.v, Issue.v, State.vread, State.vread, ih, hstamp, hrf]
  rw [Issue.regA, Issue.regA, Issue.group, Issue.group, hs, hv]

/-! ## Records are offered one after another (R296) -/

/-- The model's loop over the records, which appends each status, is `offerEach`. -/
theorem foldl_offer (f : State → List Byte → State × Nat) (rs : List (Nat × List Byte)) (s : State) (done : List (Nat × Nat)) :
    rs.foldl (fun (a : State × List (Nat × Nat)) r =>
      match f a.1 r.2 with
      | (s, st) => (s, a.2 ++ [(r.1, st)])) (s, done) = ((offerEach f s rs).1, done ++ (offerEach f s rs).2) := by
  induction rs generalizing s done with
  | nil => simp [offerEach]
  | cons r rs ih => simp [offerEach, ih]

/-- The lanes with ill-formed records, each with its first bad field (R296). -/
def misfits (bad : List Byte → Option Nat) (rs : List (Nat × List Byte)) : List (Nat × Nat) :=
  rs.filterMap fun r => (bad r.2).map fun i => (r.1, i)

theorem misfits_eq_nil {bad : List Byte → Option Nat} {rs : List (Nat × List Byte)} (h : ∀ r ∈ rs, bad r.2 = none) :
    misfits bad rs = [] :=
  List.filterMap_eq_nil_iff.mpr fun r hr => by rw [h r hr]; rfl

/-- A lane is among them exactly where a record of its own is ill-formed. -/
theorem contains_misfits (bad : List Byte → Option Nat) (rs : List (Nat × List Byte)) (m : Nat) :
    ((misfits bad rs).map Prod.fst).contains m = rs.any fun r => r.1 == m && (bad r.2).isSome := by
  rw [Bool.eq_iff_iff]
  simp only [misfits, List.contains_iff_mem, List.mem_map, List.mem_filterMap, List.any_eq_true, Bool.and_eq_true, beq_iff_eq,
    Option.map_eq_some_iff, Option.isSome_iff_exists]
  constructor
  · rintro ⟨-, ⟨r, hr, off, hbad, rfl⟩, rfl⟩
    exact ⟨r, hr, rfl, off, hbad⟩
  · rintro ⟨r, hr, rfl, off, hbad⟩
    exact ⟨_, ⟨r, hr, off, hbad, rfl⟩, rfl⟩

/-- The address of a lane's record: of the scratchpad modulo 2^18, of global memory modulo 2^64 (R57, R296). -/
def Issue.recordAddr (c : Issue) (s : State) (sp : Bool) (l : Nat) : Nat := if sp then c.spAddr s l else c.addr s l

theorem recordAddr_eq (c : Issue) (s : State) (sp : Bool) (l : Nat) :
    c.recordAddr s sp l = (c.regA s l + litExt true 64 (c.b.lit.getD 0#32)) % if sp then 2 ^ 18 else 2 ^ 64 := by
  cases sp <;> rfl

/-- The trap of ill-formed records `wrong`, of which lane `l` has the lowest, with its first bad field at `off` (R296). -/
def Issue.recordTrap (c : Issue) (s : State) (sp : Bool) (wrong : List (Nat × Nat)) (l off : Nat) : Trap :=
  { cause := .workRecord, sub := off, addr := c.recordAddr s sp l
    mask := if c.b.mdN % 2 = 1 then c.con else maskOfList (wrong.map Prod.fst) }

/-- The mask of the form in which each contributor offers. -/
theorem getLsbD_recordTrap_mask {c : Issue} (heach : c.b.mdN % 2 = 0) (s : State) (sp : Bool) (bad : List Byte → Option Nat)
    (rs : List (Nat × List Byte)) (l off : Nat) {m : Nat} (hm : m < 32) :
    (c.recordTrap s sp (misfits bad rs) l off).mask.getLsbD m = rs.any fun r => r.1 == m && (bad r.2).isSome := by
  rw [Issue.recordTrap, if_neg (by omega), maskOfList, getLsbD_maskOf _ hm, contains_misfits]

/-- What the instruction does with well-formed records: a release at device scope, the offers, and their statuses in D (R295 to
R297). -/
def Issue.offers (c : Issue) (offer : State → List Byte → State × Nat) (s : State) (ps : List Piece) (rs : List (Nat × List Byte)) : Fx :=
  let out := offerEach offer ((c.watchNow s ps false true).releaseEager (coreOf c.w) 4) rs
  { s := out.1.notDiscardable c.x.blk, work := some (.bound (c.offerWrites out.2)), parts := ps }

section
variable {c : Issue} {s s1 s2 : State} {sp : Bool} {ps : List Piece} {rs : List (Nat × List Byte)}
  (bad : Issue → State → List Byte → Option Nat) (offer : Issue → State → List Byte → State × Nat)

/-- The records of a wave that waits for nothing pass the checks of their addresses: they are refused together, or all offered. -/
theorem offerEff_of_checked (hset : c.x.settled = true) (hsp : decide (2 ≤ c.b.mdN) = sp)
    (hpad : sp = true → s1 = s ∧ s.checkSp (coreOf c.w) c.x.blk 8 false (c.recordWants s true) = .ok ps)
    (hmem : sp = false → s.checkGlobal (coreOf c.w) (s.ctxNo c.x) c.x.blk { kind := .load, align := 8, win := false }
      (c.recordWants s false) = (s1, .ok ps))
    (hread : s1.allRecords c sp ps c.offerLanes = (s2, rs)) :
    offerEff bad offer c s = match misfits (bad c s2) rs with
      | (l, off) :: _ => .trap (c.recordTrap s1 sp (misfits (bad c s2) rs) l off)
      | [] => .go (c.offers (offer c) s2 ps rs) := by
  unfold offerEff
  simp only [ge_iff_le, hsp, settled_eq hset, foldl_offer, List.nil_append]
  cases sp with
  | true =>
    obtain ⟨rfl, hchecked⟩ := hpad rfl
    simp only [if_pos, hchecked, hread]
    rfl
  | false =>
    simp only [Bool.false_eq_true, if_false, hmem rfl, hread]
    rfl

end

/-! ## The three instructions (R295) -/

theorem blockInfo_eq (c : Issue) (s : State) : c.blockInfo s =
    (((s.block c.x.blk).map Block.grid).getD 0, ((s.block c.x.blk).map Block.depth).getD 0, ((s.block c.x.blk).map Block.prio).getD 0) := by
  unfold Issue.blockInfo
  cases s.block c.x.blk <;> rfl

/-- Each offers its records by the check and the offer of its rule. -/
theorem issuesAs_of_offerRule {i : Instr} {c : Issue} {bad : State → List Byte → Option Nat} {offer : State → List Byte → State × Nat}
    (h : offerRule i c = some (bad, offer)) : ∃ b o, IssuesAs i (offerEff b o) ∧ b c = bad ∧ o c = offer := by
  unfold offerRule at h
  split at h
  case h_1 =>
    cases h
    exact ⟨_, _, fun _ => rfl, rfl, rfl⟩
  case h_2 | h_3 =>
    cases h
    exact ⟨_, _, fun _ => rfl, rfl, by simp only [blockInfo_eq, Issue.workOp]⟩
  case h_4 => cases h

/-- Settles O48: the records that pass the checks of their addresses are refused together, or all offered. -/
theorem workRecords : Obligations.WorkRecords := by
  unfold Obligations.WorkRecords
  intro i s s1 s2 c bad offer ps rs sp lanes hrule hs hset hpad hmem hread
  obtain ⟨b, o, hi, rfl, rfl⟩ := issuesAs_of_offerRule hrule
  have heff := offerEff_of_checked b o hset rfl hpad hmem hread
  have hregs : sameRegs s s1 := by
    cases hsp : sp with
    | true => exact (hpad hsp).1 ▸ sameRegs_refl s
    | false => exact checkGlobal_regs (hmem hsp)
  refine ⟨fun hok => hi.does hs ?_, fun l off rest hwrong => ?_⟩
  · rw [heff, misfits_eq_nil hok]
    rfl
  · change misfits (b c s2) rs = _ at hwrong
    refine ⟨c.recordTrap s1 sp (misfits (b c s2) rs) l off, rfl, rfl, hi.traps hs (by rw [heff, hwrong]), ?_,
      fun hone => if_pos hone, fun heach m hm => getLsbD_recordTrap_mask heach _ _ _ _ _ _ hm⟩
    exact (recordAddr_eq ..).trans (by rw [hregs.regA])

end Sys2Proof.Machine

/-! # The beam's instructions: queries offered, and their states read (R314, R315) -/

namespace Sys2Proof.Machine

/-! ## Items and queries, lane after lane (R314) -/

/-- The lanes that offer a query: each contributor of BRAY, the lowest of BQRY. -/
def Issue.beamLanes (c : Issue) (ray : Bool) : List Nat := if ray then c.lanes else [c.low]

/-- The items read at their addresses: 32 bytes a ray, 64 bytes a frustum or a cone. -/
def Issue.beamWants (c : Issue) (s : State) (ray : Bool) : List Want :=
  (c.beamLanes ray).map fun l => { lane := l, va := c.addr s l, n := if ray then 32 else 64 }

/-- The words of a query's control. -/
def Issue.beamControl (c : Issue) (s : State) : List Nat := wordsOf 4 (c.sGroup s c.b.b.toNat 4)

/-- The words of the item of every lane that offers a query. -/
def Issue.beamItems (c : Issue) (s : State) (ray : Bool) (ps : List Piece) : State × List (Nat × List Nat) :=
  (c.beamLanes ray).foldl (fun a l =>
    ((a.1.itemWords c (if ray then 32 else 64) l ps).1, a.2 ++ [(l, (a.1.itemWords c (if ray then 32 else 64) l ps).2)])) (s, [])

/-- The lanes with ill-formed items, each with its first bad field. -/
def badItems (ray : Bool) (ctl : List Nat) (items : List (Nat × List Nat)) : List (Nat × Nat) :=
  items.filterMap fun p => match itemOf ray p.2 ctl with | .error o => some (p.1, o) | .ok _ => none

theorem badItems_eq_nil {ray : Bool} {ctl : List Nat} {items : List (Nat × List Nat)}
    (h : ∀ p ∈ items, ∃ t, itemOf ray p.2 ctl = .ok t) : badItems ray ctl items = [] :=
  List.filterMap_eq_nil_iff.mpr fun p hp => by
    obtain ⟨t, ht⟩ := h p hp
    rw [ht]

/-- The trap of ill-formed items `wrong`, of which lane `l` has the lowest, with its first bad field at `off`. -/
def Issue.itemTrap (c : Issue) (s : State) (ray : Bool) (wrong : List (Nat × Nat)) (l off : Nat) : Trap :=
  { cause := .beamRecord, sub := off, addr := c.addr s l, mask := if ray then maskOfList (wrong.map Prod.fst) else c.con }

/-- BRAY's trap names the lanes whose items are ill-formed. -/
theorem getLsbD_itemTrap_mask (c : Issue) (s : State) (wrong : List (Nat × Nat)) (l off : Nat) {m : Nat} (hm : m < 32) :
    (c.itemTrap s true wrong l off).mask.getLsbD m = wrong.any fun r => r.1 == m := by
  refine (getLsbD_maskOf _ hm).trans ?_
  rw [Bool.eq_iff_iff]
  simp

/-- What the instruction does with well-formed items: their queries are offered in ascending lane order, and D takes the handles. -/
def Issue.asks (c : Issue) (s : State) (ray : Bool) (ps : List Piece) : Fx :=
  let items := c.beamItems s ray ps
  let out := items.2.foldl (fun (a : State × List (Nat × Nat)) p =>
    ((c.acceptQuery a.1 ray (c.beamControl s) (c.addr s p.1) p.2).1,
      a.2 ++ [(p.1, (c.acceptQuery a.1 ray (c.beamControl s) (c.addr s p.1) p.2).2)])) (c.watchNow items.1 ps false true, [])
  { s := out.1, parts := ps
    work := some (.bound (if ray then out.2.flatMap fun r => vWords c.b.d.toNat r.1 r.2 1 else wordsOfD c ((out.2.headD (0, 0)).2))) }

section
variable {c : Issue} {s s1 : State} {ray : Bool} {ps : List Piece}
  (hcheck : s.checkGlobal (coreOf c.w) (s.ctxNo c.x) c.x.blk { kind := .load, align := if ray then 16 else 64, win := false }
    (c.beamWants s ray) = (s1, .ok ps))
include hcheck

/-- Items that pass the checks of their addresses, after a control that is refused. -/
theorem beamEff_of_badControl {sub : Nat} (hbad : badControl (c.beamControl s1) ray = some sub) :
    beamEff ray c s = .trap { cause := .beamRecord, sub := sub, mask := c.con } := by
  simp only [Issue.beamWants, Issue.beamLanes, Issue.beamControl] at hcheck hbad
  simp only [beamEff, hcheck, hbad, Eff.raise]

/-- Items that pass the checks of their addresses, of a wave that waits for nothing: they are refused together, or all offered. -/
theorem beamEff_of_checked (hset : c.x.settled = true) (hok : badControl (c.beamControl s1) ray = none) :
    beamEff ray c s = match badItems ray (c.beamControl s1) (c.beamItems s1 ray ps).2 with
      | (l, off) :: _ => .trap (c.itemTrap s1 ray (badItems ray (c.beamControl s1) (c.beamItems s1 ray ps).2) l off)
      | [] => .go (c.asks s1 ray ps) := by
  simp only [Issue.beamWants, Issue.beamLanes, Issue.beamControl] at hcheck hok
  simp only [beamEff, hcheck, hok, settled_eq hset]
  rfl

end

theorem issuesAs_beam (x : Body) (ray : Bool) : IssuesAs (if ray then .bray x else .bqry x) (beamEff ray) := by
  cases ray <;> exact fun _ => rfl

/-! ## BSTAT (R315) -/

/-- BSTAT reads the state at once, but for the form that waits for a query that has not ended. -/
def bstatEff (c : Issue) (s : State) : Eff :=
  let h := (c.s s c.b.a.toNat).toNat
  let clr := decide (c.b.mdN / 2 % 2 = 1)
  if c.b.mdN % 2 = 0 ∨ s.queryOver (clusterOfWave c.w) c.x.blk h = true then
    let r := s.readStat (clusterOfWave c.w) c.x.blk h clr
    .go { s := r.1, work := some (.bound (wordsOfD c r.2)) }
  else .go { s := s, work := some (.bstat true clr h c.dstS) }

theorem issuesAs_bstat (x : Body) : IssuesAs (.bstat x) bstatEff := fun _ => rfl

/-- A BSTAT that is pending lands when its query has ended (R315). -/
theorem resultLanded_bstat {s : State} {w n h : Nat} {x : Wave} {p : Pend} {held clr : Bool} {d : Dst} (hw : s.wave w = some x)
    (hp : x.pending n = some p) (hk : p.work = .bstat held clr h d) : exec (.resultLanded w n) s =
      if s.queryOver (clusterOfWave w) x.blk h = true then
        let r := s.readStat (clusterOfWave w) x.blk h clr
        .next (r.1.modWave w fun y => y.bind n r.1.clock (d.writes 0 r.2 0))
      else .next s := by
  obtain rfl := stamp_of_pending hp
  dsimp only [exec, execResultLanded]
  simp only [pendOf_eq hw hp, State.land, State.bstatDone, hk]
  split <;> rfl

/-- Settles O49: the queries of checked records are refused together or all offered, and BSTAT reads a state at once or waits. -/
theorem beamQueries : Obligations.BeamQueries := by
  unfold Obligations.BeamQueries
  constructor
  · intro x s s1 c ps ray i lanes n addr ctl items out h sd
    refine ⟨?_, fun hs hnow s2 v hread => ?_, fun hs hwait hover => ?_⟩
    · rintro rfl hs hcheck
      have hi := issuesAs_beam x ray
      refine ⟨fun hset hok hitems => hi.does hs ?_, fun sub hbad => hi.traps hs (beamEff_of_badControl hcheck hbad), ?_⟩
      · have hnone : badItems ray (c.beamControl s1) (c.beamItems s1 ray ps).2 = [] := badItems_eq_nil hitems
        rw [beamEff_of_checked hcheck hset hok, hnone]
        rfl
      · intro hset hok wrong l off rest hwrong
        have hbad : badItems ray (c.beamControl s1) (c.beamItems s1 ray ps).2 = (l, off) :: rest := hwrong
        refine ⟨c.itemTrap s1 ray wrong l off, rfl, rfl, rfl, hi.traps hs ?_, ?_, ?_⟩
        · rw [beamEff_of_checked hcheck hset hok, hbad, hwrong]
        · rintro rfl
          rfl
        · rintro rfl m hm
          exact getLsbD_itemTrap_mask c s1 wrong l off hm
    · refine (issuesAs_bstat x).does hs ((if_pos hnow).trans ?_)
      rw [hread]
    · exact (issuesAs_bstat x).does hs (if_neg (not_or.mpr ⟨by omega, Bool.eq_false_iff.mp hover⟩))
  · intro s w n h x p held clr d hw hp hk
    have hland := resultLanded_bstat hw hp hk
    refine ⟨fun hover s1 v hread => hland.trans ((if_pos hover).trans ?_), fun hover => hland.trans (if_neg (Bool.eq_false_iff.mp hover))⟩
    rw [hread]

end Sys2Proof.Machine

/-! # What leaves the bytes of memory as they are (R165, R364; log entry 3)

Only `State.slcToMem` writes `Mem.mem`, and it keeps the canonical form. Every other operation leaves the listed bytes as they
are: a lemma `f_mem` for an operation `State.f`, a lemma `keeps_f` for an effect or an event. -/

namespace Sys2Proof.Machine

@[simp] theorem mem_ite {c : Prop} [Decidable c] (s t : State) : (if c then s else t).m.mem = if c then s.m.mem else t.m.mem :=
  apply_ite (fun s : State => s.m.mem) ..

section
variable {α β : Type}

/-- What every step of a fold leaves as it is, the fold leaves as it is. -/
theorem foldl_invariant {γ δ : Type} (g : γ → δ) {f : γ → α → γ} (hf : ∀ b a, g (f b a) = g b) (l : List α) (b : γ) :
    g (l.foldl f b) = g b := by
  induction l generalizing b with
  | nil => rfl
  | cons a l ih => rw [List.foldl_cons, ih, hf]

@[simp] theorem foldl_mem {f : State → α → State} (hf : ∀ s a, (f s a).m.mem = s.m.mem) (l : List α) (s : State) :
    (l.foldl f s).m.mem = s.m.mem := foldl_invariant (fun s : State => s.m.mem) hf l s

@[simp] theorem foldl_fst_mem {f : State × β → α → State × β} (hf : ∀ b a, (f b a).1.m.mem = b.1.m.mem) (l : List α)
    (b : State × β) : (l.foldl f b).1.m.mem = b.1.m.mem := foldl_invariant (fun b : State × β => b.1.m.mem) hf l b

@[simp] theorem foldl_mem_mem {f : Mem → α → Mem} (hf : ∀ m a, (f m a).mem = m.mem) (l : List α) (m : Mem) :
    (l.foldl f m).mem = m.mem := foldl_invariant Mem.mem hf l m

end

/-- What a call that answers with a value leaves of memory, for the state that a match names. -/
theorem mem_of_pair {α : Type} {s t : State} {p : State × α} {r : α} (h : p = (t, r)) (hp : p.1.m.mem = s.m.mem) :
    t.m.mem = s.m.mem := by
  rw [← hp, h]

/-- An effect that leaves the bytes of memory as they are, a trap's own act among them. -/
def EffKeeps (b : List Host.Cell) : Eff → Prop
  | .wait => True
  | .trap _ _ post => ∀ t, (post t).m.mem = t.m.mem
  | .go f => f.s.m.mem = b

/-- An answer that leaves the bytes of memory as they are. -/
def OutKeeps (b : List Host.Cell) : Out → Prop
  | .next t => t.m.mem = b
  | _ => True

section
variable {b : List Host.Cell}

@[simp] theorem effKeeps_wait : EffKeeps b .wait := trivial
@[simp] theorem effKeeps_trap (t : Trap) (fl : Cond) (post : State → State) :
    EffKeeps b (.trap t fl post) ↔ ∀ t, (post t).m.mem = t.m.mem := Iff.rfl
@[simp] theorem effKeeps_go (f : Fx) : EffKeeps b (.go f) ↔ f.s.m.mem = b := Iff.rfl
@[simp] theorem effKeeps_raise (k : Cause) (m : Word) (sub addr : Nat) : EffKeeps b (.raise k m sub addr) := fun _ => rfl
@[simp] theorem effKeeps_ite {c : Prop} [Decidable c] (e e' : Eff) :
    EffKeeps b (if c then e else e') ↔ (c → EffKeeps b e) ∧ (¬c → EffKeeps b e') := by split <;> simp_all

@[simp] theorem outKeeps_next (t : State) : OutKeeps b (.next t) ↔ t.m.mem = b := Iff.rfl
@[simp] theorem outKeeps_fault (k : Fault) : OutKeeps b (.fault k) := trivial

end

@[simp] theorem after_mem {f : State → Out} {s : State} (h : OutKeeps s.m.mem (f s)) : (after f s).m.mem = s.m.mem := by
  unfold after
  revert h
  cases f s <;> simp

end Sys2Proof.Machine

/-! # The operations and the events that leave the bytes of memory as they are -/

namespace Sys2Proof.Machine

/-! ## The operations of `Machine/Ops` -/

@[simp] theorem applyWrite_mem (s : State) (w : Nat) (r : RegWrite) : (s.applyWrite w r).m.mem = s.m.mem := by
  fun_cases State.applyWrite s w r <;> simp

@[simp] theorem applyWrites_mem (s : State) (w : Nat) (rs : List RegWrite) : (s.applyWrites w rs).m.mem = s.m.mem := by
  simp [State.applyWrites]

@[simp] theorem lateTrap_mem (s : State) (w : Nat) (x again : Wave) (f : Frame) : (s.lateTrap w x again f).m.mem = s.m.mem := by
  fun_cases State.lateTrap s w x again f <;> simp

theorem takeTrap_mem {post : State → State} (hpost : ∀ t, (post t).m.mem = t.m.mem) (s : State) (c : Issue) (bs : List Byte)
    (t : Trap)
    (fl : Cond) : (s.takeTrap c bs t fl post).m.mem = s.m.mem := by
  fun_cases State.takeTrap s c bs t fl post <;> simp +zetaDelta [hpost]

@[simp] theorem keeps_issue {i : Instr} {n : Nat} {bs : List Byte} {s : State} {eff : Issue → State → Eff}
    (h : ∀ c, EffKeeps s.m.mem (eff c s)) : OutKeeps s.m.mem (issue i n bs s eff) := by
  cases ho : issue i n bs s eff with
  | fault | refused => trivial
  | next t =>
    obtain ⟨c, -, hcases⟩ := issue_cases ho
    have heff := h c
    rcases hcases with ⟨r, -, rfl⟩ | ⟨-, -, rfl⟩ | ⟨-, -, he, rfl⟩ | ⟨r, fl, post, -, -, he, rfl⟩ | ⟨f, -, -, he, rfl⟩
    · simp
    · simp
    · simp
    · rw [he] at heff
      exact takeTrap_mem heff ..
    · rw [he] at heff
      simpa using heff

/-! ## The operations of `Machine/Phys` -/

@[simp] theorem released_mem (m : Mem) (stamp time : Nat) : (m.released stamp time).mem = m.mem := rfl

@[simp] theorem poison_mem (s : State) (pa : Nat) : (s.poison pa).m.mem = s.m.mem := rfl

@[simp] theorem fenceTotal_mem (s : State) (core scope : Nat) : (s.fenceTotal core scope).m.mem = s.m.mem := by
  simp [State.fenceTotal]

@[simp] theorem hostDue_mem (s : State) (as : List Nat) : (s.hostDue as).m.mem = s.m.mem := by
  simp [State.hostDue]

@[simp] theorem hostSees_mem (s : State) (as : List Nat) : (s.hostSees as).m.mem = s.m.mem := by
  simp [State.hostSees]

@[simp] theorem hostSnoop_mem (s : State) (line : Nat) : (s.hostSnoop line).m.mem = s.m.mem := by
  simp [State.hostSnoop]

/-! ## The operations of `Machine/Translate` -/

@[simp] theorem procCtx_mem (s : State) (pid : Nat) : (s.procCtx pid).1.m.mem = s.m.mem := by
  fun_cases State.procCtx s pid <;> simp

@[simp] theorem translate_mem (s : State) (core ctx va : Nat) (k : AccKind) : (s.translate core ctx va k).1.m.mem = s.m.mem := by
  fun_cases State.translate s core ctx va k <;> grind [procCtx_mem, cohStore_mem, mapMem_m]

@[simp] theorem translateRun_mem (s : State) (core ctx : Nat) (k : AccKind) (fuel va n : Nat) :
    (s.translateRun core ctx k fuel va n).1.m.mem = s.m.mem := by
  fun_induction State.translateRun s core ctx k fuel va n <;> grind [translate_mem]

@[simp] theorem logFault_mem (s : State) (ctx : Nat) (k : AccKind) (reason va : Nat) :
    (s.logFault ctx k reason va).m.mem = s.m.mem := by
  unfold State.logFault
  split <;> simp

/-! ## The operations of `Machine/Access` -/

@[simp] theorem spCleanse_mem (s : State) (k n : Nat) : (s.spCleanse k n).m.mem = s.m.mem := by
  simp [State.spCleanse]

@[simp] theorem spRelease_mem (s : State) (k n : Nat) (rels : List Rel) : (s.spRelease k n rels).m.mem = s.m.mem := by
  simp [State.spRelease]

@[simp] theorem spWrite_mem (s : State) (core off blk : Nat) (bs : List Byte) (rels : List Rel) :
    (s.spWrite core off blk bs rels).m.mem = s.m.mem := by
  fun_cases State.spWrite s core off blk bs rels <;> grind [foldl_mem, spRelease_mem, spCleanse_mem, spPut_m]

@[simp] theorem regWrite_mem (s : State) (w uid n lane byte : Nat) (bs : List Byte) :
    (s.regWrite w uid n lane byte bs).m.mem = s.m.mem := by
  unfold State.regWrite
  split <;> simp

@[simp] theorem locWrite_mem (s : State) (core : Nat) (l : Loc) (bs : List Byte) (rels : List Rel) :
    (s.locWrite core l bs rels).m.mem = s.m.mem := by
  fun_cases State.locWrite s core l bs rels <;> simp

@[simp] theorem partsOf_mem (s : State) (core ctx : Nat) (q : Want) (k : AccKind) (ps : List (Nat × Nat)) :
    (s.partsOf core ctx q k ps).1.m.mem = s.m.mem := by
  fun_induction State.partsOf s core ctx q k ps <;> grind [translate_mem]

@[simp] theorem translateAll_mem (s : State) (core ctx : Nat) (a : Ask) (qs : List Want) :
    (s.translateAll core ctx a qs).1.m.mem = s.m.mem := by
  fun_induction State.translateAll s core ctx a qs <;> grind [partsOf_mem]

@[simp] theorem checkGlobal_mem (s : State) (core ctx blk : Nat) (a : Ask) (qs : List Want) :
    (s.checkGlobal core ctx blk a qs).1.m.mem = s.m.mem := by
  fun_cases State.checkGlobal s core ctx blk a qs <;> grind [translateAll_mem]

/-! ## The operations of `Machine/Debug` -/

@[simp] theorem broadcastStop_mem (s : State) (q : Nat) (but : Option Nat) : (s.broadcastStop q but).m.mem = s.m.mem := rfl

@[simp] theorem debugHit_mem (s : State) (q kind idx : Nat) (w : Option Nat) (bkpt : Bool) :
    (s.debugHit q kind idx w bkpt).m.mem = s.m.mem := by
  simp [State.debugHit]

@[simp] theorem watchOne_mem (s : State) (q i : Nat) (w : Option (Nat × Pend)) (ctx : Nat) (now : List Piece) (isW isR : Bool) :
    (s.watchOne q i w ctx now isW isR).m.mem = s.m.mem := by
  fun_cases State.watchOne s q i w ctx now isW isR <;> simp +zetaDelta

@[simp] theorem watch_mem (s : State) (w : Option (Nat × Pend)) (ctx : Nat) (now : List Piece) (isW isR : Bool) :
    (s.watch w ctx now isW isR).m.mem = s.m.mem := by
  simp [State.watch]

/-! ## The operations of `Machine/Perform` -/

@[simp] theorem fetchBack_mem (s : State) (core line : Nat) : (s.fetchBack core line).m.mem = s.m.mem := by
  unfold State.fetchBack
  split <;> simp

@[simp] theorem prepareRead_mem (s : State) (core : Nat) (wide : Bool) (l : Loc) : (s.prepareRead core wide l).m.mem = s.m.mem := by
  unfold State.prepareRead
  split <;> simp

@[simp] theorem readPiece_mem (s : State) (core : Nat) (x : Wave) (stamp : Nat) (wide : Bool) (p : Piece) :
    (s.readPiece core x stamp wide p).1.m.mem = s.m.mem := by
  simp [State.readPiece]

@[simp] theorem noteHeard_mem (s : State) (w : Nat) (rs : List Rel) : (s.noteHeard w rs).m.mem = s.m.mem := by
  simp [State.noteHeard]

@[simp] theorem readPieces_mem (s : State) (core : Nat) (x : Wave) (stamp : Nat) (wide : Bool) (ps : List Piece) (got : Map Byte)
    (bad : List Nat) : (s.readPieces core x stamp wide ps got bad).1.m.mem = s.m.mem :=
  foldl_fst_mem (fun a p => by simp) ps (s, got, bad)

@[simp] theorem watchPend_mem (s : State) (w : Nat) (p : Pend) (now : List Piece) (isW isR : Bool) :
    (s.watchPend w p now isW isR).m.mem = s.m.mem := by
  unfold State.watchPend
  split <;> simp

@[simp] theorem performLoad_mem (s : State) (w : Nat) (x : Wave) (p : Pend) (ty n : Nat) (scope : Option Nat)
    (now later : List Piece) (got : Map Byte) (bad : List Nat) (d : Dst) :
    (s.performLoad w x p ty n scope now later got bad d).m.mem = s.m.mem := by
  simp [State.performLoad]

@[simp] theorem performTblset_mem (s : State) (w : Nat) (x : Wave) (p : Pend) (pair bank : Nat) (now later : List Piece)
    (got : Map Byte) : (s.performTblset w x p pair bank now later got).m.mem = s.m.mem := by
  simp [State.performTblset]

@[simp] theorem bankWrite_mem (s : State) (w n k bank : Nat) (got : Map Byte) : (s.bankWrite w n k bank got).m.mem = s.m.mem := by
  unfold State.bankWrite
  split <;> simp

@[simp] theorem tableLookup_mem (s : State) (w n k bank : Nat) (xs : List (Nat × Word)) (d : Dst) :
    (s.tableLookup w n k bank xs d).m.mem = s.m.mem := by
  unfold State.tableLookup
  split <;> simp

@[simp] theorem performPut_mem (s : State) (core : Nat) (fs : List Rel) (stamp : Nat) (scope : Option Nat) (q : Put) :
    (s.performPut core fs stamp scope q).m.mem = s.m.mem := by
  unfold State.performPut
  split <;> simp

@[simp] theorem releaseBefore_mem (s : State) (core sc : Nat) (ps : List Piece) : (s.releaseBefore core sc ps).m.mem = s.m.mem := by
  simp [State.releaseBefore]

@[simp] theorem leaveQueue_mem (s : State) (w : Nat) : (s.leaveQueue w).m.mem = s.m.mem := by
  fun_cases State.leaveQueue s w <;> grind [foldl_mem, modWave_m, releaseBefore_mem, performPut_mem, watchPend_mem]

@[simp] theorem notDiscardable_mem (s : State) (blk : Nat) : (s.notDiscardable blk).m.mem = s.m.mem := rfl

@[simp] theorem publish_mem (s : State) (core blk w v : Nat) : (s.publish core blk w v).m.mem = s.m.mem := by
  unfold State.publish
  split <;> simp

@[simp] theorem spPutPiece_mem (s : State) (w : Nat) (scope : Option Nat) (q : Put) : (s.spPutPiece w scope q).m.mem = s.m.mem := by
  fun_cases State.spPutPiece s w scope q <;> simp +zetaDelta

@[simp] theorem passLoad_mem (s : State) (w : Nat) (p : Pend) (ty n : Nat) (scope : Option Nat) (now : List Piece)
    (later : List (List Piece)) (got : Map Byte) (bad : List Nat) (d : Dst) :
    (s.passLoad w p ty n scope now later got bad d).m.mem = s.m.mem := by
  unfold State.passLoad
  split <;> simp

@[simp] theorem passStore_mem (s : State) (w : Nat) (p : Pend) (scope : Option Nat) (now : List Put) (later : List (List Put)) :
    (s.passStore w p scope now later).m.mem = s.m.mem := by
  unfold State.passStore
  split <;> simp

@[simp] theorem logUce_mem (s : State) (core arr off : Nat) : (s.logUce core arr off).m.mem = s.m.mem := rfl

@[simp] theorem logAtomic_mem (s : State) (core : Nat) (l : Loc) : (s.logAtomic core l).m.mem = s.m.mem := by
  unfold State.logAtomic
  split <;> simp

@[simp] theorem doWordOp_mem (s : State) (w : Nat) (place : At) (code : Nat) (o : WordOp) (got : Map Byte) (bad : List Nat) :
    (s.doWordOp w place code o got bad).1.m.mem = s.m.mem := by
  unfold State.doWordOp
  dsimp only
  split <;> split <;> simp

@[simp] theorem doWordOps_mem (s : State) (w : Nat) (place : At) (code : Nat) (os : List WordOp) (got : Map Byte) (bad : List Nat) :
    (s.doWordOps w place code os got bad).1.m.mem = s.m.mem :=
  foldl_fst_mem (f := fun (a : State × Map Byte × List Nat) o => a.1.doWordOp w place code o a.2.1 a.2.2)
    (fun _ _ => doWordOp_mem ..) os (s, got, bad)

@[simp] theorem performNear_mem (s : State) (w : Nat) (p : Pend) (code n : Nat) (now later : List WordOp) (got : Map Byte)
    (bad : List Nat) (d : Dst) : (s.performNear w p code n now later got bad d).m.mem = s.m.mem := by
  simp [State.performNear]

@[simp] theorem atSlice_mem (s : State) (core line : Nat) : (s.atSlice core line).m.mem = s.m.mem := by
  simp [State.atSlice]

@[simp] theorem performFar_mem (s : State) (w : Nat) (p : Pend) (code n : Nat) (now later : List WordOp) (got : Map Byte)
    (bad : List Nat) (d : Option Dst) : (s.performFar w p code n now later got bad d).m.mem = s.m.mem := by
  simp [State.performFar]

@[simp] theorem passAtom_mem (s : State) (w : Nat) (p : Pend) (code n : Nat) (now : List WordOp) (later : List (List WordOp))
    (got : Map Byte) (bad : List Nat) (d : Dst) : (s.passAtom w p code n now later got bad d).m.mem = s.m.mem := by
  simp [State.passAtom]

@[simp] theorem fence_mem (s : State) (core kind scope : Nat) (heard : List Rel) :
    (s.fence core kind scope heard).m.mem = s.m.mem := by
  simp [State.fence]

@[simp] theorem waveFence_mem (s : State) (w : Nat) (x : Wave) (stamp kind scope : Nat) :
    (s.waveFence w x stamp kind scope).m.mem = s.m.mem := by
  simp [State.waveFence]

@[simp] theorem finish_mem (s : State) (w stamp : Nat) : (s.finish w stamp).m.mem = s.m.mem := by
  fun_cases State.finish s w stamp <;> simp +zetaDelta

@[simp] theorem settle_mem (s : State) (f : Nat → Wave → Pend → Bool) : (s.settle f).m.mem = s.m.mem := by
  simp [State.settle]

@[simp] theorem settleWave_mem (s : State) (w : Nat) : (s.settleWave w).m.mem = s.m.mem := by
  unfold State.settleWave
  split <;> simp

/-! ## The operations of `Machine/Barrier` -/

@[simp] theorem unparkAll_mem (s : State) (sel : Nat → Park → Bool) (val : Option Nat) : (s.unparkAll sel val).m.mem = s.m.mem := rfl

@[simp] theorem releaseBar_mem (s : State) (key phase : Nat) (delay : Nat → Nat) :
    (s.releaseBar key phase delay).m.mem = s.m.mem := by
  simp [State.releaseBar]

@[simp] theorem releaseHeld_mem (s : State) (mine : Nat → Wave → Bool) : (s.releaseHeld mine).m.mem = s.m.mem := rfl

@[simp] theorem wakeBars_mem (s : State) : s.wakeBars.m.mem = s.m.mem := rfl

@[simp] theorem arriveAll_mem (s : State) (w key : Nat) (lanes : List Nat) (depart : Bool) :
    (s.arriveAll w key lanes depart).m.mem = s.m.mem := by
  unfold State.arriveAll
  split <;> simp

@[simp] theorem exitLanes_mem (s : State) (w : Nat) (m : Word) : (s.exitLanes w m).m.mem = s.m.mem := by
  fun_cases State.exitLanes s w m <;> grind [foldl_mem, modWave_m, arriveAll_mem, leadExit_m]

/-! ## The operations of `Machine/Memory` -/

@[simp] theorem keeps_fault (c : Issue) (s : State) (t : Trap) : EffKeeps s.m.mem (c.fault s t) := by
  simp [Issue.fault]

@[simp] theorem keeps_global {c : Issue} {s : State} {a : Ask} {qs : List Want} {k : State → List Piece → Eff}
    (hk : ∀ t ps, EffKeeps t.m.mem (k t ps)) : EffKeeps s.m.mem (c.global s a qs k) := by
  unfold Issue.global
  split
  · rw [← mem_of_pair ‹_› (checkGlobal_mem ..)]
    exact keeps_fault ..
  · rw [← mem_of_pair ‹_› (checkGlobal_mem ..)]
    exact hk _ _

@[simp] theorem keeps_scratch {b : List Host.Cell} {c : Issue} {s : State} {align n : Nat} {whole : Bool} {k : List Piece → Eff}
    (hk : ∀ ps, EffKeeps b (k ps)) : EffKeeps b (c.scratch s align whole n k) := by
  unfold Issue.scratch
  split <;> simp [hk]

@[simp] theorem keeps_loadEff (c : Issue) (s : State) (a : Ask) (ty n : Nat) (scope : Option Nat) :
    EffKeeps s.m.mem (c.loadEff s a ty n scope) := by
  simp [Issue.loadEff]

@[simp] theorem keeps_spLoadEff (c : Issue) (s : State) (align ty n : Nat) (scope : Option Nat) (whole : Bool) :
    EffKeeps s.m.mem (c.spLoadEff s align ty n scope whole) := by
  simp [Issue.spLoadEff]

@[simp] theorem keeps_storeEff (c : Issue) (s : State) (a : Ask) (n : Nat) (scope : Option Nat) :
    EffKeeps s.m.mem (c.storeEff s a n scope) := by
  simp [Issue.storeEff]

@[simp] theorem keeps_spStoreEff (c : Issue) (s : State) (align n : Nat) (scope : Option Nat) (whole : Bool) :
    EffKeeps s.m.mem (c.spStoreEff s align n scope whole) := by
  simp [Issue.spStoreEff]

@[simp] theorem watchNow_mem (c : Issue) (s : State) (ps : List Piece) (isW isR : Bool) :
    (c.watchNow s ps isW isR).m.mem = s.m.mem := by
  simp [Issue.watchNow]

@[simp] theorem rangeMap_mem (s : State) (core ctx lo n : Nat) : (s.rangeMap core ctx lo n).1.m.mem = s.m.mem := by
  fun_cases State.rangeMap s core ctx lo n
  grind [foldl_fst_mem, translate_mem]

@[simp] theorem keeps_maintEff (inval : Bool) (c : Issue) (s : State) : EffKeeps s.m.mem (maintEff inval c s) := by
  fun_cases maintEff inval c s
  · simp
  · simp
  · exact mem_of_pair ‹_› (rangeMap_mem ..)

@[simp] theorem keeps_loadDataReturn (w n : Nat) (s : State) : OutKeeps s.m.mem (execLoadDataReturn w n s) := by
  fun_cases execLoadDataReturn w n s <;> simp

@[simp] theorem superLeave_mem (s : State) (core : Nat) : (s.superLeave core).m.mem = s.m.mem := by
  fun_cases State.superLeave s core <;> simp

@[simp] theorem keeps_storeQueueLeave (w : Nat) (s : State) : OutKeeps s.m.mem (execStoreQueueLeave w s) := by
  fun_cases execStoreQueueLeave w s <;> simp

@[simp] theorem spPass_mem (s : State) (w : Nat) (x : Wave) (p : Pend) : (s.spPass w x p).m.mem = s.m.mem := by
  fun_cases State.spPass s w x p <;> simp

@[simp] theorem keeps_releaseComplete (w n : Nat) (s : State) : OutKeeps s.m.mem (execReleaseComplete w n s) := by
  fun_cases execReleaseComplete w n s <;> simp

@[simp] theorem keeps_fenceComplete (w n : Nat) (s : State) : OutKeeps s.m.mem (execFenceComplete w n s) := by
  fun_cases execFenceComplete w n s <;> simp

@[simp] theorem maintain_mem (s : State) (core : Nat) (inval : Bool) (scope line : Nat) :
    (s.maintain core inval scope line).m.mem = s.m.mem := by
  simp [State.maintain]

@[simp] theorem keeps_cacheMaintenanceComplete (w n : Nat) (s : State) : OutKeeps s.m.mem (execCacheMaintenanceComplete w n s) := by
  fun_cases execCacheMaintenanceComplete w n s <;> simp

@[simp] theorem keeps_translationCheckResult (w n : Nat) (s : State) : OutKeeps s.m.mem (execTranslationCheckResult w n s) := by
  fun_cases execTranslationCheckResult w n s <;> simp

/-! ## The operations of `Machine/Atomics` -/

@[simp] theorem keeps_sliceWordOperation (w n line : Nat) (s : State) : OutKeeps s.m.mem (execSliceWordOperation w n line s) := by
  fun_cases execSliceWordOperation w n line s <;> simp

@[simp] theorem keeps_mlAccess {c : Issue} {s : State} {a : AccKind} {k : State → List Piece → Eff}
    (hk : ∀ t ps, EffKeeps t.m.mem (k t ps)) : EffKeeps s.m.mem (c.mlAccess s a k) := by
  unfold Issue.mlAccess
  split
  · rw [← mem_of_pair ‹_› (checkGlobal_mem ..)]
    exact keeps_fault ..
  · rw [← mem_of_pair ‹_› (checkGlobal_mem ..)]
    exact hk _ _

@[simp] theorem commit_mem (s : State) (core scope : Nat) (fs : List Rel) (buf : List Put) :
    (s.commit core scope fs buf).m.mem = s.m.mem := by
  simp [State.commit]

@[simp] theorem commitAcquire_mem (s : State) (core scope : Nat) (lines : List Nat) :
    (s.commitAcquire core scope lines).m.mem = s.m.mem := by
  simp [State.commitAcquire]

/-! ## The operations of `Machine/Float` -/

@[simp] theorem keeps_sfuResultWrite (w n : Nat) (s : State) : OutKeeps s.m.mem (execSfuResultWrite w n s) := by
  fun_cases execSfuResultWrite w n s <;> simp

/-! ## The operations of `Machine/Sync` -/

@[simp] theorem keeps_barrier {b : List Host.Cell} {c : Issue} {s : State} {id : Nat} {f : Nat → Eff}
    (hf : ∀ key, EffKeeps b (f key)) : EffKeeps b (c.barrier s id f) := by
  unfold Issue.barrier
  split <;> simp [hf]

@[simp] theorem keeps_enrol {c : Issue} {s : State} {id : Nat} {f : State → Nat → Eff}
    (hf : ∀ t key, EffKeeps t.m.mem (f t key)) : EffKeeps s.m.mem (c.enrol s id f) := by
  refine keeps_barrier fun key => ?_
  split
  · simp
  · exact hf _ key

@[simp] theorem keeps_parkBar (c : Issue) (s : State) (key : Nat) (held : Bool) : EffKeeps s.m.mem (c.parkBar s key held) := by
  simp [Issue.parkBar]

@[simp] theorem keeps_barrierStartComplete (bar : Nat) (s : State) : OutKeeps s.m.mem (execBarrierStartComplete bar s) := by
  fun_cases execBarrierStartComplete bar s <;> simp

@[simp] theorem keeps_semaphore {b : List Host.Cell} {c : Issue} {s : State} {f : Nat → Eff}
    (hf : ∀ key, EffKeeps b (f key)) : EffKeeps b (c.semaphore s f) := by
  unfold Issue.semaphore
  split <;> simp [hf]

@[simp] theorem keeps_monitorEvent (w : Nat) (s : State) : OutKeeps s.m.mem (execMonitorEvent w s) := by
  fun_cases execMonitorEvent w s <;> simp

@[simp] theorem keeps_monwaitTimeout (w : Nat) (s : State) : OutKeeps s.m.mem (execMonwaitTimeout w s) := by
  fun_cases execMonwaitTimeout w s <;> simp

/-! ## The operations of `Machine/Copy` -/

@[simp] theorem markBad_mem (s : State) (core : Nat) (l : Loc) (n : Nat) : (s.markBad core l n).m.mem = s.m.mem := by
  fun_cases State.markBad s core l n
  grind [foldl_mem, poisonCopy_mem, vwrite_m, putGrid_m]

@[simp] theorem engineLoc_mem (s : State) (core ctx blk : Nat) (shut : List Nat) (k : AccKind) (va n : Nat) :
    (s.engineLoc core ctx blk shut k va n).1.m.mem = s.m.mem := by
  fun_cases State.engineLoc s core ctx blk shut k va n <;> grind [translate_mem, logFault_mem]

@[simp] theorem engineLocs_mem (s : State) (core ctx blk : Nat) (shut : List Nat) (k : AccKind) (va n : Nat) :
    (s.engineLocs core ctx blk shut k va n).1.m.mem = s.m.mem := by
  fun_cases State.engineLocs s core ctx blk shut k va n
  grind [foldl_fst_mem, engineLoc_mem]

@[simp] theorem engineFill_mem (s : State) (core : Nat) (ls : List (Loc × Nat)) : (s.engineFill core ls).m.mem = s.m.mem := by
  simp [State.engineFill]

@[simp] theorem engineWrite_mem (s : State) (core : Nat) (ls : List (Loc × Nat)) (bs : List Byte) (bad : List Bool) :
    (s.engineWrite core ls bs bad).m.mem = s.m.mem := by
  simp [State.engineWrite]

@[simp] theorem copyRead_mem (s : State) (core ctx blk : Nat) (e : Copy) (i : Nat) :
    (s.copyRead core ctx blk e i).1.m.mem = s.m.mem := by
  fun_cases State.copyRead s core ctx blk e i <;> grind [engineLocs_mem, engineFill_mem, watch_mem]

@[simp] theorem copyWrite_mem (s : State) (core ctx blk : Nat) (e : Copy) (i : Nat) (bs : List Byte) (bad : List Bool) :
    (s.copyWrite core ctx blk e i bs bad).1.m.mem = s.m.mem := by
  fun_cases State.copyWrite s core ctx blk e i bs bad <;> grind [foldl_mem, engineLocs_mem, atSlice_mem, logAtomic_mem,
    storeThrough_mem, poison_mem, watch_mem, engineWrite_mem]

@[simp] theorem copyAct_mem (core ctx blk : Nat) (a : State × Copy) (i : Nat) :
    (State.copyAct core ctx blk a i).1.m.mem = a.1.m.mem := by
  fun_cases State.copyAct core ctx blk a i <;> simp <;> exact mem_of_pair ‹_› (by simp)

@[simp] theorem copyActs_mem (s : State) (core ctx blk : Nat) (e : Copy) (n : Nat) :
    (s.copyActs core ctx blk e n).1.m.mem = s.m.mem := by
  fun_cases State.copyActs s core ctx blk e n
  exact mem_of_pair ‹_› (by simp)

@[simp] theorem ringHeader_mem (s : State) (core blk off v : Nat) : (s.ringHeader core blk off v).m.mem = s.m.mem := by
  unfold State.ringHeader
  split <;> simp

@[simp] theorem keeps_copyEntryTake (core blk : Nat) (s : State) : OutKeeps s.m.mem (execCopyEntryTake core blk s) := by
  fun_cases execCopyEntryTake core blk s <;> simp +zetaDelta

@[simp] theorem finishCopy_mem (s : State) (core blk : Nat) (e : Copy) (st : Nat) : (s.finishCopy core blk e st).m.mem = s.m.mem := by
  fun_cases State.finishCopy s core blk e st <;> grind [releaseEager_mem, setSem_m, spWrite_mem, ringHeader_mem, putRing_m, mapWaves_m]

@[simp] theorem finishSaved_mem (s : State) (core blk : Nat) (v : Saved) (e : Copy) (st : Nat) :
    (s.finishSaved core blk v e st).m.mem = s.m.mem := by
  simp [State.finishSaved]

@[simp] theorem copyRest_mem (s : State) (core ctx blk : Nat) (e : Copy) : (s.copyRest core ctx blk e).1.m.mem = s.m.mem := by
  simp [State.copyRest]

@[simp] theorem keeps_copyEntryComplete (core blk idx : Nat) (s : State) :
    OutKeeps s.m.mem (execCopyEntryComplete core blk idx s) := by
  fun_cases execCopyEntryComplete core blk idx s <;> simp +zetaDelta <;> exact mem_of_pair ‹_› (by simp)

@[simp] theorem finishColl_mem (s : State) (key : Nat) (c : Coll) (st : Nat) : (s.finishColl key c st).m.mem = s.m.mem := by
  fun_cases State.finishColl s key c st <;> simp +zetaDelta

@[simp] theorem keeps_collectiveMatch (key opc rcode rtype len src : Nat) (s : State) :
    OutKeeps s.m.mem (execCollectiveMatch key opc rcode rtype len src s) := by
  fun_cases execCollectiveMatch key opc rcode rtype len src s <;> simp

@[simp] theorem engineBytes_mem (s : State) (core ctx blk va n : Nat) : (s.engineBytes core ctx blk va n).1.m.mem = s.m.mem := by
  fun_cases State.engineBytes s core ctx blk va n
  grind [foldl_fst_mem, engineLocs_mem, engineFill_mem, watch_mem]

@[simp] theorem engineBytesTo_mem (s : State) (core ctx blk va : Nat) (bs : List Byte) (bad : List Bool) :
    (s.engineBytesTo core ctx blk va bs bad).1.m.mem = s.m.mem := by
  fun_cases State.engineBytesTo s core ctx blk va bs bad
  grind [foldl_fst_mem, engineLocs_mem, watch_mem, engineWrite_mem]

@[simp] theorem collData_mem (s : State) (c : Coll) (theirs : List Byte) : (s.collData c theirs).1.m.mem = s.m.mem := by
  fun_cases State.collData s c theirs <;> grind [engineBytes_mem]

@[simp] theorem keeps_collectiveComplete (key : Nat) (s : State) : OutKeeps s.m.mem (execCollectiveComplete key s) := by
  fun_cases execCollectiveComplete key s <;> grind [collData_mem, finishColl_mem, engineBytesTo_mem, OutKeeps]

@[simp] theorem partColl_mem (s : State) (c : Coll) : (s.partColl c).m.mem = s.m.mem := by
  fun_cases State.partColl s c <;> grind [foldl_mem, collData_mem, engineBytesTo_mem, bump_m]

@[simp] theorem batchDone_mem (s : State) (w : Nat) (x : Wave) (p : Pend) : (s.batchDone w x p).m.mem = s.m.mem := by
  unfold State.batchDone
  split <;> simp

/-! ## The operations of `Machine/Engine` -/

@[simp] theorem sysStore_mem (s : State) (pa : Nat) (bs : List Byte) (rels : List Rel) : (s.sysStore pa bs rels).m.mem = s.m.mem := by
  simp [State.sysStore]

@[simp] theorem devRead_mem (s : State) (ctx va n : Nat) : (s.devRead ctx va n).1.m.mem = s.m.mem := by
  fun_cases State.devRead s ctx va n <;> grind [translateRun_mem]

@[simp] theorem devWrite_mem (s : State) (ctx va : Nat) (bs : List Byte) (rels : List Rel) :
    (s.devWrite ctx va bs rels).1.m.mem = s.m.mem := by
  fun_cases State.devWrite s ctx va bs rels <;> grind [foldl_fst_mem, translateRun_mem, sysStore_mem]

@[simp] theorem qRead_mem (s : State) (ctx va n : Nat) : (s.qRead ctx va n).1.m.mem = s.m.mem := by
  fun_cases State.qRead s ctx va n <;> simp

@[simp] theorem qWrite_mem (s : State) (ctx va : Nat) (bs : List Byte) (rels : List Rel) :
    (s.qWrite ctx va bs rels).1.m.mem = s.m.mem := by
  fun_cases State.qWrite s ctx va bs rels <;> simp

@[simp] theorem addLive_mem (s : State) (ctx d : Nat) (up : Bool) : (s.addLive ctx d up).1.m.mem = s.m.mem := by
  fun_cases State.addLive s ctx d up <;> grind [devRead_mem, devWrite_mem]

@[simp] theorem resolve_mem (s : State) (ctx hops d : Nat) : (s.resolve ctx hops d).1.m.mem = s.m.mem := by
  induction hops generalizing s d with
  | zero => rfl
  | succ hops ih =>
    unfold State.resolve
    split
    · exact mem_of_pair ‹_› (by simp)
    · have h1 := mem_of_pair ‹_› (addLive_mem s ctx d true)
      split
      · have h2 := mem_of_pair ‹_› (devRead_mem ..)
        simp [h2, h1]
      · have h2 := mem_of_pair ‹_› (devRead_mem ..)
        dsimp only
        split
        · split <;> simp [h2, h1]
        · simp [ih, h2, h1]

@[simp] theorem reportAt_mem (s : State) (ctx caddr tag status detail : Nat) (rels : List Rel) :
    (s.reportAt ctx caddr tag status detail rels).1.m.mem = s.m.mem := by
  unfold State.reportAt
  split <;> simp

@[simp] theorem countFail_mem (s : State) (f : FailTo) : (s.countFail f).m.mem = s.m.mem := by
  unfold State.countFail
  split <;> simp

@[simp] theorem logWork_mem (s : State) (ctx : Nat) (k : AccKind) (va n : Nat) : (s.logWork ctx k va n).m.mem = s.m.mem := by
  fun_cases State.logWork s ctx k va n <;> grind [translateRun_mem, logFault_mem]

@[simp] theorem report_mem (s : State) (ctx : Nat) (r : Nat × Nat × Nat) (status : Nat) (f : FailTo) (d : Done) :
    (s.report ctx r status f d).m.mem = s.m.mem := by
  fun_cases State.report s ctx r status f d <;> grind [countFail_mem, pushDown_mem, reportAt_mem, logWork_mem]

@[simp] theorem reportAll_mem (s : State) (ctx : Nat) (rs : List (Nat × Nat × Nat)) (status : Nat) (f : FailTo) (d : Done) :
    (s.reportAll ctx rs status f d).m.mem = s.m.mem := by
  simp [State.reportAll]

@[simp] theorem hostWord_mem (s : State) (hq : Nat) (q : HostQ) (bytes : List Byte) (status : Nat) (d : Done) :
    (s.hostWord hq q bytes status d).m.mem = s.m.mem := by
  fun_cases State.hostWord s hq q bytes status d <;> grind [qWrite_mem, pushDown_mem]

@[simp] theorem hostInterim_mem (s : State) (hq idx status : Nat) (d : Done) : (s.hostInterim hq idx status d).m.mem = s.m.mem := by
  fun_cases State.hostInterim s hq idx status d <;> simp

@[simp] theorem hostDone_mem (s : State) (hq idx status : Nat) (d : Done) : (s.hostDone hq idx status d).m.mem = s.m.mem := by
  fun_cases State.hostDone s hq idx status d <;> simp +zetaDelta

@[simp] theorem putGrid'_mem (s : State) (g : Nat) (x : Grid) : (s.putGrid' g x).m.mem = s.m.mem := by
  simp

@[simp] theorem settleGrid_mem (s : State) (fuel g : Nat) : (s.settleGrid fuel g).m.mem = s.m.mem := by
  induction fuel generalizing s g with
  | zero => rfl
  | succ fuel ih =>
    unfold State.settleGrid
    split
    · rfl
    · dsimp only
      split
      · rfl
      · rw [foldl_mem]
        · simp
          split <;> simp
        · intro t p
          split
          · simp [ih]
          · rfl

@[simp] theorem addKid_mem (s : State) (ps : List Nat) : (s.addKid ps).m.mem = s.m.mem := by
  fun_cases State.addKid s ps
  grind [foldl_mem, putGrid'_mem]

@[simp] theorem dropKids_mem (s : State) (ps : List Nat) : (s.dropKids ps).m.mem = s.m.mem := by
  fun_cases State.dropKids s ps
  grind [foldl_mem, settleGrid_mem, putGrid'_mem]

@[simp] theorem grantFail_mem (s : State) (x : Grid) (status : Nat) : (s.grantFail x status).m.mem = s.m.mem := by
  unfold State.grantFail
  split <;> simp

@[simp] theorem newGrid_mem (s : State) (x : Grid) : (s.newGrid x).1.m.mem = s.m.mem := by
  fun_cases State.newGrid s x <;> grind [resolve_mem, grantFail_mem, addLive_mem, putGrid'_mem]

/-! ## The operations of `Machine/Control` -/

@[simp] theorem keeps_branch (c : Issue) (s : State) (target : Nat → Nat) (ws : List RegWrite) (extra : Nat) :
    EffKeeps s.m.mem (c.branch s target ws extra) := by
  simp [Issue.branch]

@[simp] theorem keeps_indirect (c : Issue) (s : State) (ts : Option (List Word)) (ws : List RegWrite) :
    EffKeeps s.m.mem (c.indirect s ts ws) := by
  simp [Issue.indirect]

/-! ## The operations of `Machine/System` -/

@[simp] theorem zeroGranules_mem (s : State) (row : Nat) (gs : List Nat) : (s.zeroGranules row gs).m.mem = s.m.mem := by
  simp [State.zeroGranules]

@[simp] theorem quota_mem (c : Issue) (s : State) (op n : Nat) : (c.quota s op n).2.1.m.mem = s.m.mem := by
  fun_cases Issue.quota c s op n <;> simp +zetaDelta

@[simp] theorem keeps_quotaEff (op : Nat) (c : Issue) (s : State) : EffKeeps s.m.mem (quotaEff op c s) := quota_mem ..

@[simp] theorem gainGranules_mem (s : State) (target : Option Nat) (gs : List Nat) : (s.gainGranules target gs).m.mem = s.m.mem := by
  unfold State.gainGranules
  split <;> simp

@[simp] theorem keeps_quotaSettle (w n : Nat) (s : State) : OutKeeps s.m.mem (execQuotaSettle w n s) := by
  fun_cases execQuotaSettle w n s <;> simp

/-! ## The operations of `Machine/Place` -/

@[simp] theorem trackFirst_mem (s : State) : s.trackFirst.m.mem = s.m.mem := by
  simp [State.trackFirst]

@[simp] theorem threadIndex_mem (s : State) (w : Nat) (x : Wave) : (s.threadIndex w x).m.mem = s.m.mem := rfl

@[simp] theorem clearRegion_mem (s : State) (core base size : Nat) : (s.clearRegion core base size).m.mem = s.m.mem := rfl

@[simp] theorem clearBars_mem (s : State) (q cb cn : Nat) : (s.clearBars q cb cn).m.mem = s.m.mem := rfl

@[simp] theorem bindTables_mem (s : State) (id : Nat) (cores : List Nat) : (s.bindTables id cores).m.mem = s.m.mem := by
  fun_cases State.bindTables s id cores
  grind [foldl_mem]

@[simp] theorem bindStarted_mem (s : State) (key q e ctx : Nat) : (s.bindStarted key q e ctx).m.mem = s.m.mem := rfl

@[simp] theorem startBlock_mem (s : State) (key q : Nat) (t : Block) (p : Spot) : (s.startBlock key q t p).m.mem = s.m.mem := by
  fun_cases State.startBlock s key q t p
  grind [foldl_mem, clearRegion_mem, clearBars_mem, bindTables_mem, threadIndex_mem,
    putWave_m, zeroGranules_mem, bindStarted_mem, acquireAt_mem]

@[simp] theorem keeps_blockStart (bind cluster : Nat) (s : State) : OutKeeps s.m.mem (execBlockStart bind cluster s) := by
  fun_cases execBlockStart bind cluster s <;> grind [startBlock_mem, modBind_m, putBind_m, putGrid'_mem, OutKeeps]

@[simp] theorem freeBlock_mem (s : State) (id : Nat) : (s.freeBlock id).m.mem = s.m.mem := rfl

@[simp] theorem freeLanding_mem (s : State) (l : Option (Nat × Nat)) : (s.freeLanding l).m.mem = s.m.mem := by
  unfold State.freeLanding
  split <;> simp

@[simp] theorem blockEnds_mem (s : State) (t : Block) (status n : Nat) : (s.blockEnds t status n).m.mem = s.m.mem := by
  fun_cases State.blockEnds s t status n <;> simp +zetaDelta

@[simp] theorem retireBlock_mem (s : State) (id status : Nat) : (s.retireBlock id status).m.mem = s.m.mem := by
  unfold State.retireBlock
  split <;> simp

@[simp] theorem removeWaves_mem (s : State) (id : Nat) : (s.removeWaves id).m.mem = s.m.mem := rfl

@[simp] theorem abortCopies_mem (s : State) (id : Nat) (t : Block) : (s.abortCopies id t).m.mem = s.m.mem := by
  simp [State.abortCopies]

@[simp] theorem clearSelect_mem (s : State) (b : Bind) : (s.clearSelect b).m.mem = s.m.mem := by
  simp [State.clearSelect]

@[simp] theorem saveEnds_mem (s : State) (key : Nat) : (s.saveEnds key).m.mem = s.m.mem := by
  unfold State.saveEnds
  split <;> simp

@[simp] theorem teardown_mem (s : State) (id status : Nat) : (s.teardown id status).m.mem = s.m.mem := by
  unfold State.teardown
  split <;> simp

@[simp] theorem endWave_mem (s : State) (w : Nat) (x : Wave) : (s.endWave w x).m.mem = s.m.mem := by
  fun_cases State.endWave s w x
  grind [foldl_mem, settleWave_mem, gainGranules_mem, applyWrites_mem, putDbg_m]

@[simp] theorem keeps_waveRetire (w : Nat) (s : State) : OutKeeps s.m.mem (execWaveRetire w s) := by
  fun_cases execWaveRetire w s <;> simp

@[simp] theorem keeps_blockRetire (blk : Nat) (s : State) : OutKeeps s.m.mem (execBlockRetire blk s) := by
  fun_cases execBlockRetire blk s <;> simp

/-! ## The operations of `Machine/Harness` -/

@[simp] theorem keeps_gridSwitch (g : Nat) (s : State) : OutKeeps s.m.mem (execGridSwitch g s) := by
  fun_cases execGridSwitch g s <;> simp +zetaDelta

@[simp] theorem keeps_lead {b : List Host.Cell} {c : Issue} {s : State} {f : State → Nat → HGrid → Eff}
    (hf : ∀ g h, EffKeeps b (f s g h)) : EffKeeps b (c.lead s f) := by
  unfold Issue.lead
  split <;> simp [hf]

@[simp] theorem keeps_recordAt {b : List Host.Cell} {c : Issue} {s : State} {any : Bool} {off : Nat} {f : Record → Eff}
    (hf : ∀ r, EffKeeps b (f r)) : EffKeeps b (c.recordAt s any off f) := by
  simp [Issue.recordAt, hf]

@[simp] theorem keeps_ranges {b : List Host.Cell} {c : Issue} {s : State} {rs : List (Nat × Nat)} {f : Unit → Eff}
    (hf : EffKeeps b (f ())) : EffKeeps b (c.ranges s rs f) := by
  unfold Issue.ranges
  split <;> simp [hf]

@[simp] theorem keeps_enqueue {b : List Host.Cell} (c : Issue) (s : State) (g code : Nat) (args : List Nat) (work : Work)
    (hold late : Bool) : EffKeeps b (c.enqueue s g code args work hold late) ↔ s.m.mem = b := Iff.rfl

@[simp] theorem spRead_mem (c : Issue) (s : State) (off n : Nat) : (c.spRead s off n).1.m.mem = s.m.mem := by
  simp [Issue.spRead]

@[simp] theorem gather_mem (s : State) (w : Nat) (p : Option Pend) (blk off n : Nat) :
    (s.gather w p blk off n).1.m.mem = s.m.mem := by
  unfold State.gather
  split <;> simp

@[simp] theorem drainTo_mem (s : State) (w : Nat) (p : Option Pend) (blk off : Nat) (bs : List Byte) :
    (s.drainTo w p blk off bs).m.mem = s.m.mem := by
  unfold State.drainTo
  split <;> simp

@[simp] theorem gatherRow_mem (s : State) (w g : Nat) (p : Option Pend) (h : HGrid) (o : HOp) :
    (s.gatherRow w g p h o).m.mem = s.m.mem := by
  simp [State.gatherRow]

@[simp] theorem enterPassRow_mem (s : State) (g : Nat) (o : HOp) : (s.enterPassRow g o).m.mem = s.m.mem := rfl

@[simp] theorem passRow_mem (s : State) (w g : Nat) (p : Option Pend) (h : HGrid) (o : HOp) :
    (s.passRow w g p h o).m.mem = s.m.mem := by
  simp [State.passRow]

@[simp] theorem doHldb_mem (s : State) (w g : Nat) (p : Option Pend) (o : HOp) : (s.doHldb w g p o).m.mem = s.m.mem := by
  simp [State.doHldb]

@[simp] theorem doHlds_mem (s : State) (w g : Nat) (p : Option Pend) (o : HOp) : (s.doHlds w g p o).m.mem = s.m.mem := by
  simp [State.doHlds]

@[simp] theorem doHdrnSp_mem (s : State) (w g : Nat) (p : Option Pend) (o : HOp) : (s.doHdrnSp w g p o).1.m.mem = s.m.mem := by
  simp [State.doHdrnSp]

@[simp] theorem doHboxt_mem (s : State) (w g : Nat) (p : Option Pend) (o : HOp) (con : Word) :
    (s.doHboxt w g p o con).1.m.mem = s.m.mem := by
  simp [State.doHboxt]

@[simp] theorem harnessDo_mem (s : State) (w g : Nat) (p : Option Pend) (o : HOp) : (s.harnessDo w g p o).1.m.mem = s.m.mem := by
  unfold State.harnessDo
  split <;> simp

@[simp] theorem drainStop_mem (s : State) (w : Nat) (p : Pend) (t : Trap) : (s.drainStop w p t).m.mem = s.m.mem := by
  unfold State.drainStop
  split <;> simp

@[simp] theorem harnessDone_mem (s : State) (w g : Nat) (o : HOp) : (s.harnessDone w g o).m.mem = s.m.mem := by
  fun_cases State.harnessDone s w g o <;> grind [harnessDo_mem, applyWrites_mem, modGrid_m, modWave_m, drainStop_mem]

@[simp] theorem keeps_harnessCompletion (w n : Nat) (s : State) : OutKeeps s.m.mem (execHarnessCompletion w n s) := by
  fun_cases execHarnessCompletion w n s <;> simp

@[simp] theorem keeps_gridReleaseEnd (g : Nat) (s : State) : OutKeeps s.m.mem (execGridReleaseEnd g s) := by
  fun_cases execGridReleaseEnd g s <;> simp +zetaDelta

@[simp] theorem enterRow_mem (s : State) (w n : Nat) : (s.enterRow w n).m.mem = s.m.mem := by
  fun_cases State.enterRow s w n <;> simp

@[simp] theorem keeps_hmmaComplete (w n : Nat) (s : State) : OutKeeps s.m.mem (execHmmaComplete w n s) := by
  fun_cases execHmmaComplete w n s <;> simp

@[simp] theorem drainGrid_mem (s : State) (w g fuel : Nat) : (s.drainGrid w g fuel).m.mem = s.m.mem := by
  fun_induction State.drainGrid s w g fuel <;> simp_all +zetaDelta

/-! ## The operations of `Machine/Work` -/

@[simp] theorem appendRing_mem (s : State) (q : Nat) (r : Rec) : (s.appendRing q r).m.mem = s.m.mem := by
  fun_cases State.appendRing s q r <;> grind [devWrite_mem, putTq_m, report_mem, logWork_mem]

@[simp] theorem refillOne_mem (s : State) (q : Nat) : (s.refillOne q).m.mem = s.m.mem := by
  fun_cases State.refillOne s q <;> grind [devRead_mem, countFail_mem, putTq_m, logWork_mem]

@[simp] theorem arrive_mem (s : State) (q : Nat) (r : Rec) : (s.arrive q r).m.mem = s.m.mem := by
  unfold State.arrive
  split <;> simp

@[simp] theorem refill_mem (s : State) (q fuel : Nat) : (s.refill q fuel).m.mem = s.m.mem := by
  fun_induction State.refill s q fuel <;> simp_all

@[simp] theorem keeps_queueRefill (q : Nat) (s : State) : OutKeeps s.m.mem (execQueueRefill q s) := by
  fun_cases execQueueRefill q s <;> simp

@[simp] theorem startOne_mem (s : State) (key q grid x y z s7 s8 arg depth : Nat) (landing : Option (Nat × Nat)) (p : Spot) :
    (s.startOne key q grid x y z s7 s8 arg depth landing p).m.mem = s.m.mem := by
  unfold State.startOne
  split <;> simp

@[simp] theorem keeps_queueLaunch (q bind : Nat) (s : State) : OutKeeps s.m.mem (execQueueLaunch q bind s) := by
  fun_cases execQueueLaunch q bind s <;> grind [putTq_m, newGrid_mem, startOne_mem, OutKeeps]

@[simp] theorem keeps_binTimerExpire (q : Nat) (s : State) : OutKeeps s.m.mem (execBinTimerExpire q s) := by
  fun_cases execBinTimerExpire q s <;> simp

@[simp] theorem binKernel_mem (s : State) (q grid : Nat) : (s.binKernel q grid).m.mem = s.m.mem := by
  unfold State.binKernel
  split <;> simp

@[simp] theorem keeps_binLaunch (q bind : Nat) (s : State) : OutKeeps s.m.mem (execBinLaunch q bind s) := by
  fun_cases execBinLaunch q bind s
  case case3 s1 s2 _ _ _ _ hg | case4 s1 s2 _ _ _ hg =>
    have hs2 : s2.m.mem = s.m.mem := by
      dsimp only [s2]
      split <;> simp [mem_of_pair ‹_› (devWrite_mem ..), s1]
    simp [mem_of_pair hg (newGrid_mem ..), hs2]
  all_goals rfl

@[simp] theorem offerTask_mem (s : State) (core ctx op : Nat) (bs : List Byte) : (s.offerTask core ctx op bs).1.m.mem = s.m.mem := by
  fun_cases State.offerTask s core ctx op bs <;> simp

@[simp] theorem intoBin_mem (s : State) (b : Nat) (n : NBin) (r : Rec) : (s.intoBin b n r).m.mem = s.m.mem := by
  simp [State.intoBin]

@[simp] theorem offerNode_mem (s : State) (core ctx grid depth op : Nat) (bs : List Byte) :
    (s.offerNode core ctx grid depth op bs).1.m.mem = s.m.mem := by
  fun_cases State.offerNode s core ctx grid depth op bs <;> simp

@[simp] theorem offerLaunch_mem (s : State) (core ctx grid depth prio : Nat) (bs : List Byte) :
    (s.offerLaunch core ctx grid depth prio bs).1.m.mem = s.m.mem := by
  fun_cases State.offerLaunch s core ctx grid depth prio bs <;> simp

@[simp] theorem recordBytes_mem (s : State) (c : Issue) (base lane : Nat) (ps : List Piece) :
    (s.recordBytes c base lane ps).1.m.mem = s.m.mem := by
  simp [State.recordBytes]

@[simp] theorem allRecords_mem (s : State) (c : Issue) (sp : Bool) (ps : List Piece) (ls : List Nat) :
    (s.allRecords c sp ps ls).1.m.mem = s.m.mem := by
  fun_induction State.allRecords s c sp ps ls
  case case1 => rfl
  case case2 hr _ _ ha ih => rw [ha] at ih; exact ih.trans (mem_of_pair hr (recordBytes_mem ..))

@[simp] theorem keeps_settled {b : List Host.Cell} {c : Issue} {k : Eff} (hk : EffKeeps b k) : EffKeeps b (c.settled k) := by
  simp [Issue.settled, hk]

@[simp] theorem keeps_departing {b : List Host.Cell} {c : Issue} {k : Eff} (hk : EffKeeps b k) : EffKeeps b (c.departing k) := by
  simp [Issue.departing, hk]

theorem keeps_offerEff {bad : Issue → State → List Byte → Option Nat} {offer : Issue → State → List Byte → State × Nat}
    (ho : ∀ c t bs, (offer c t bs).1.m.mem = t.m.mem) (c : Issue) (s : State) : EffKeeps s.m.mem (offerEff bad offer c s) := by
  unfold offerEff
  extract_lets sp go
  have hgo (t : State) (ps : List Piece) : EffKeeps t.m.mem (go t ps) := by
    refine keeps_settled ?_
    dsimp only
    split <;> simp [ho]
  split
  · split
    · simp
    · exact hgo s _
  · split
    all_goals rw [← mem_of_pair ‹_› (checkGlobal_mem ..)]
    · exact keeps_fault ..
    · exact hgo _ _

/-! ## The operations of `Machine/Beam` -/

@[simp] theorem endQuery_mem (s : State) (q : Nat) (x : Query) (st sub node : Nat) : (s.endQuery q x st sub node).m.mem = s.m.mem := rfl

@[simp] theorem keeps_queryStart (q : Nat) (s : State) : OutKeeps s.m.mem (execQueryStart q s) := by
  fun_cases execQueryStart q s <;> simp

@[simp] theorem readNode_mem (s : State) (x : Query) (node : Nat) : (s.readNode x node).1.m.mem = s.m.mem := by
  fun_cases State.readNode s x node <;> grind [foldl_fst_mem, engineLocs_mem, engineFill_mem, bump_m, logUce_mem]

@[simp] theorem keeps_compareBatch (q : Nat) (s : State) : OutKeeps s.m.mem (execCompareBatch q s) := by
  fun_cases execCompareBatch q s <;> simp +zetaDelta <;> exact mem_of_pair ‹_› (by simp)

@[simp] theorem keeps_recordEmit (q : Nat) (s : State) : OutKeeps s.m.mem (execRecordEmit q s) := by
  fun_cases execRecordEmit q s <;> simp +zetaDelta

@[simp] theorem keeps_queryEnd (q : Nat) (s : State) : OutKeeps s.m.mem (execQueryEnd q s) := by
  fun_cases execQueryEnd q s <;> simp

@[simp] theorem acceptQuery_mem (c : Issue) (s : State) (ray : Bool) (ctl : List Nat) (addr : Nat) (ws : List Nat) :
    (c.acceptQuery s ray ctl addr ws).1.m.mem = s.m.mem := by
  fun_cases Issue.acceptQuery c s ray ctl addr ws <;> simp +zetaDelta

@[simp] theorem itemWords_mem (s : State) (c : Issue) (n lane : Nat) (ps : List Piece) :
    (s.itemWords c n lane ps).1.m.mem = s.m.mem := by
  simp [State.itemWords]

@[simp] theorem keeps_beamEff (ray : Bool) (c : Issue) (s : State) : EffKeeps s.m.mem (beamEff ray c s) := by
  unfold beamEff
  dsimp only
  split
  all_goals rw [← mem_of_pair ‹_› (checkGlobal_mem ..)]
  · exact keeps_fault ..
  · split
    · simp
    · refine keeps_settled ?_
      split <;> simp

@[simp] theorem readStat_mem (s : State) (cluster blk h : Nat) (clr : Bool) : (s.readStat cluster blk h clr).1.m.mem = s.m.mem := by
  unfold State.readStat
  split <;> simp

@[simp] theorem bstatDone_mem (s : State) (w : Nat) (x : Wave) (p : Pend) : (s.bstatDone w x p).m.mem = s.m.mem := by
  unfold State.bstatDone
  split <;> simp

/-! ## The operations of `Machine/Fetch` -/

@[simp] theorem fetchFault_mem (s : State) (w : Nat) (x : Wave) (pc sub addr : Nat) (bs : List Byte) :
    (s.fetchFault w x pc sub addr bs).m.mem = s.m.mem := by
  simp [State.fetchFault]

@[simp] theorem fillLine_mem (s : State) (core ctx gen va pa : Nat) : (s.fillLine core ctx gen va pa).m.mem = s.m.mem := rfl

@[simp] theorem fillWindow_mem (s : State) (core ctx gen va : Nat) : (s.fillWindow core ctx gen va).m.mem = s.m.mem := rfl

@[simp] theorem dropCode_mem (s : State) (window : Bool) (core : Nat) (l : ILine) : (s.dropCode window core l).m.mem = s.m.mem := rfl

@[simp] theorem keeps_traceCacheFill (w : Nat) (s : State) : OutKeeps s.m.mem (execTraceCacheFill w s) := by
  fun_cases execTraceCacheFill w s <;> simp +zetaDelta <;> exact mem_of_pair ‹_› (by simp)

@[simp] theorem prefetch_mem (s : State) (w line : Nat) : (s.prefetch w line).m.mem = s.m.mem := by
  fun_cases State.prefetch s w line <;> grind [translate_mem, fillLine_mem]

@[simp] theorem keeps_icinvComplete (w n : Nat) (s : State) : OutKeeps s.m.mem (execIcinvComplete w n s) := by
  fun_cases execIcinvComplete w n s <;> simp

/-! ## The operations of `Machine/Rein` -/

@[simp] theorem vecAt_mem (s : State) (ctx v : Nat) : (s.vecAt ctx v).1.m.mem = s.m.mem := by
  fun_cases State.vecAt s ctx v <;> simp +zetaDelta <;> exact mem_of_pair ‹_› (by simp)

@[simp] theorem putVec_mem (s : State) (ctx v : Nat) (e : Vec) : (s.putVec ctx v e).1.m.mem = s.m.mem := by
  fun_cases State.putVec s ctx v e <;> simp +zetaDelta <;> exact mem_of_pair ‹_› (by simp)

@[simp] theorem lowestVec_mem (s : State) (ctx first : Nat) (unmasked : Bool) :
    (s.lowestVec ctx first unmasked).1.m.mem = s.m.mem := by
  fun_cases State.lowestVec s ctx first unmasked
  grind [foldl_fst_mem, vecAt_mem]

@[simp] theorem wakeReins_mem (s : State) (ctx first : Nat) : (s.wakeReins ctx first).m.mem = s.m.mem := by
  unfold State.wakeReins
  grind [foldl_fst_mem, lowestVec_mem, mapWaves_m]

@[simp] theorem wakeParked_mem (s : State) : s.wakeParked.m.mem = s.m.mem := by
  fun_cases State.wakeParked s
  grind [foldl_mem, wakeReins_mem]

@[simp] theorem setFloor_mem (s : State) (ctx f : Nat) (readyOnly : Bool) : (s.setFloor ctx f readyOnly).m.mem = s.m.mem := rfl

@[simp] theorem reinPolicy_mem (s : State) (ctx v : Nat) : (s.reinPolicy ctx v).m.mem = s.m.mem := by
  fun_cases State.reinPolicy s ctx v <;> grind [setFloor_mem, putCtx_m, newGrid_mem]

@[simp] theorem reinNotify_mem (s : State) (ctx v : Nat) : (s.reinNotify ctx v).m.mem = s.m.mem := by
  simp [State.reinNotify]

@[simp] theorem countRefused_mem (s : State) (ctx : Nat) : (s.countRefused ctx).m.mem = s.m.mem := rfl

@[simp] theorem noteSend_mem (s : State) (ctx v : Nat) (deps : List Nat) : (s.noteSend ctx v deps).m.mem = s.m.mem := by
  simp [State.noteSend]

@[simp] theorem routeSend_mem (s : State) (id ctx v payload : Nat) (deps : List Nat) :
    (s.routeSend id ctx v payload deps).1.m.mem = s.m.mem := by
  fun_cases State.routeSend s id ctx v payload deps <;> grind [countRefused_mem, vecAt_mem, putVec_mem, noteSend_mem, reinNotify_mem]

@[simp] theorem pageResult_mem (s : State) (page n : Nat) (ok : Bool) : (s.pageResult page n ok).m.mem = s.m.mem := rfl

@[simp] theorem sendAnswer_mem (s : State) (w : Nat × Nat) (ok : Bool) : (s.sendAnswer w ok).m.mem = s.m.mem := rfl

@[simp] theorem keeps_reinRouterSend (n : Nat) (s : State) : OutKeeps s.m.mem (execReinRouterSend n s) := by
  fun_cases execReinRouterSend n s <;> grind [routeSend_mem, sendAnswer_mem, pageResult_mem, OutKeeps]

@[simp] theorem keeps_refusedWriteback (ctx : Nat) (s : State) : OutKeeps s.m.mem (execRefusedWriteback ctx s) := by
  fun_cases execRefusedWriteback ctx s <;> simp

@[simp] theorem keeps_peerReinArrival (val : Nat) (s : State) : OutKeeps s.m.mem (execPeerReinArrival val s) := by
  unfold execPeerReinArrival
  split <;> simp

@[simp] theorem keeps_peerReinAnswer (n ok : Nat) (s : State) : OutKeeps s.m.mem (execPeerReinAnswer n ok s) := by
  fun_cases execPeerReinAnswer n ok s <;> simp +zetaDelta

@[simp] theorem keeps_handler {b : List Host.Cell} {c : Issue} {s : State} {f : Nat → Nat → Eff}
    (hf : ∀ ctx first, EffKeeps b (f ctx first)) : EffKeeps b (c.handler s f) := by
  unfold Issue.handler
  split <;> simp [hf]

@[simp] theorem lowerFloor_mem (s : State) (ctx v : Nat) : (s.lowerFloor ctx v).m.mem = s.m.mem := by
  simp [State.lowerFloor]

@[simp] theorem takeSent_mem (s : State) (core ctx v : Nat) : (s.takeSent core ctx v).m.mem = s.m.mem := by
  simp [State.takeSent]

@[simp] theorem claimVec_mem (s : State) (core ctx v : Nat) : (s.claimVec core ctx v).1.m.mem = s.m.mem := by
  fun_cases State.claimVec s core ctx v <;> grind [vecAt_mem, putVec_mem, takeSent_mem, lowerFloor_mem]

@[simp] theorem keeps_maskEff (f : Bool → Bool → Bool) (c : Issue) (s : State) : EffKeeps s.m.mem (maskEff f c s) := by
  fun_cases maskEff f c s
  grind [foldl_mem, keeps_handler, vecAt_mem, putVec_mem, reinNotify_mem, EffKeeps]

/-! ## The operations of `Machine/Save` -/

@[simp] theorem pushStop_mem (s : State) (w : Nat) (x : Wave) (wrote : List Nat) : (s.pushStop w x wrote).m.mem = s.m.mem := rfl

@[simp] theorem keeps_cmdRun (bind : Nat) (s : State) : OutKeeps s.m.mem (execCmdRun bind s) := by
  fun_cases execCmdRun bind s <;> simp

@[simp] theorem keeps_cmdPause (bind : Nat) (s : State) : OutKeeps s.m.mem (execCmdPause bind s) := by
  fun_cases execCmdPause bind s <;> simp

@[simp] theorem keeps_cmdRestore (bind : Nat) (s : State) : OutKeeps s.m.mem (execCmdRestore bind s) := by
  fun_cases execCmdRestore bind s <;> simp

@[simp] theorem keeps_cmdUnassigned (_bind _code : Nat) (s : State) : OutKeeps s.m.mem (execCmdUnassigned _bind _code s) := rfl

@[simp] theorem endItems_mem (s : State) (grid status n : Nat) : (s.endItems grid status n).m.mem = s.m.mem := by
  unfold State.endItems
  split <;> simp

@[simp] theorem dropSaved_mem (s : State) (img : Nat) : (s.dropSaved img).m.mem = s.m.mem := rfl

@[simp] theorem abortBind_mem (s : State) (key : Nat) : (s.abortBind key).m.mem = s.m.mem := by
  simp [State.abortBind]

@[simp] theorem keeps_cmdTeardown (bind : Nat) (s : State) : OutKeeps s.m.mem (execCmdTeardown bind s) := by
  unfold execCmdTeardown
  split <;> simp

@[simp] theorem finishCopies_mem (s : State) (id : Nat) (t : Block) : (s.finishCopies id t).m.mem = s.m.mem := by
  simp [State.finishCopies]

@[simp] theorem discard_mem (s : State) (id : Nat) (t : Block) : (s.discard id t).m.mem = s.m.mem := by
  simp [State.discard]

@[simp] theorem readSelect_mem (s : State) (b : Bind) : (s.readSelect b).1.m.mem = s.m.mem := by
  fun_cases State.readSelect s b <;> simp +zetaDelta <;> exact mem_of_pair ‹_› (by simp)

@[simp] theorem beginSave_mem (s : State) (id : Nat) : (s.beginSave id).m.mem = s.m.mem := rfl

@[simp] theorem save_mem (s : State) (key : Nat) (sel : Option Nat) : (s.save key sel).m.mem = s.m.mem := by
  simp [State.save]

@[simp] theorem keeps_cmdSave (bind : Nat) (s : State) : OutKeeps s.m.mem (execCmdSave bind s) := by
  fun_cases execCmdSave bind s <;> simp +zetaDelta
  exact mem_of_pair ‹_› (by simp)

@[simp] theorem drainGrids_mem (s : State) (id : Nat) : (s.drainGrids id).m.mem = s.m.mem := by
  fun_cases State.drainGrids s id
  grind [foldl_mem, drainGrid_mem]

@[simp] theorem unplace_mem (s : State) (id : Nat) : (s.unplace id).m.mem = s.m.mem := rfl

@[simp] theorem keeps_saveImageWrite (blk : Nat) (s : State) : OutKeeps s.m.mem (execSaveImageWrite blk s) := by
  fun_cases execSaveImageWrite blk s <;> simp +zetaDelta

@[simp] theorem putBack_mem (s : State) (id q : Nat) (t : Block) (new : List Nat)
    (a : Wave × (Map Word × Map Nat) × Nat × List Nat) : (s.putBack id q t new a).m.mem = s.m.mem := by
  simp [State.putBack]

@[simp] theorem putRegion_mem (s : State) (a : ((Map Byte × Map Bool) × Map (List Rel)) × Nat × Nat × Nat) :
    (s.putRegion a).m.mem = s.m.mem := rfl

@[simp] theorem putUnits_mem (s : State) (id q : Nat) (t : Block) (v : Saved) (new : List Nat) :
    (s.putUnits id q t v new).m.mem = s.m.mem := by
  fun_cases State.putUnits s id q t v new
  grind [foldl_mem, putBar_m, putRing_m, setSem_m]

@[simp] theorem putGrids_mem (s : State) (key q : Nat) (v : Saved) (p : Spot) : (s.putGrids key q v p).m.mem = s.m.mem := by
  fun_cases State.putGrids s key q v p
  grind [foldl_mem, putGrid_m]

@[simp] theorem putQueries_mem (s : State) (q : Nat) (v : Saved) (p : Spot) : (s.putQueries q v p).m.mem = s.m.mem := by
  simp [State.putQueries]

@[simp] theorem moveRun_mem (s : State) (old key : Nat) : (s.moveRun old key).m.mem = s.m.mem := by
  simp [State.moveRun]

@[simp] theorem restore_mem (s : State) (key img q : Nat) (v : Saved) (p : Spot) : (s.restore key img q v p).m.mem = s.m.mem := by
  fun_cases State.restore s key img q v p <;> grind [foldl_mem, moveRun_mem, putRegion_mem, clearBars_mem, putBack_mem, putUnits_mem,
    putGrids_mem, putQueries_mem, acquireAt_mem, pushStop_mem, wakeReins_mem]

@[simp] theorem keeps_blockRestore (img cluster : Nat) (s : State) : OutKeeps s.m.mem (execBlockRestore img cluster s) := by
  fun_cases execBlockRestore img cluster s <;> simp

@[simp] theorem keeps_preemption (bind : Nat) (s : State) : OutKeeps s.m.mem (execPreemption bind s) := by
  fun_cases execPreemption bind s <;> grind [devWrite_mem, readSelect_mem, save_mem, OutKeeps]

@[simp] theorem keeps_priorityAgingStep (bind : Nat) (s : State) : OutKeeps s.m.mem (execPriorityAgingStep bind s) := by
  fun_cases execPriorityAgingStep bind s <;> simp

/-! ## The operations of `Machine/Host` -/

@[simp] theorem keeps_doorbellTail (page val : Nat) (s : State) : OutKeeps s.m.mem (execDoorbellTail page val s) := by
  unfold execDoorbellTail
  split <;> simp

@[simp] theorem keeps_doorbellRsend (page val : Nat) (s : State) : OutKeeps s.m.mem (execDoorbellRsend page val s) := by
  fun_cases execDoorbellRsend page val s <;> simp +zetaDelta

@[simp] theorem keeps_doorbellIrqArm (page val : Nat) (s : State) : OutKeeps s.m.mem (execDoorbellIrqArm page val s) := by
  unfold execDoorbellIrqArm
  split <;> simp

@[simp] theorem nextCmd_mem (s : State) (hq : Nat) : (s.nextCmd hq).1.m.mem = s.m.mem := by
  fun_cases State.nextCmd s hq <;> simp +zetaDelta <;> exact mem_of_pair ‹_› (by simp)

@[simp] theorem startCmd_mem (s : State) (hq idx : Nat) (bs : List Byte) : (s.startCmd hq idx bs).m.mem = s.m.mem := rfl

@[simp] theorem keeps_runCmd {s : State} {hq : Nat} {is : List Byte → Bool} {f : State → HostQ → Nat → List Byte → State}
    (hf : ∀ t q idx bs, (f t q idx bs).m.mem = t.m.mem) : OutKeeps s.m.mem (s.runCmd hq is f) := by
  have hn := nextCmd_mem s hq
  fun_cases State.runCmd s hq is f <;> simp_all

@[simp] theorem ownOnly_mem {b : List Host.Cell} {s f : State} (hq idx : Nat) (hs : s.m.mem = b) (hf : f.m.mem = b) :
    (s.ownOnly hq idx f).m.mem = b := by
  simp [State.ownOnly, hs, hf]

@[simp] theorem openDone_mem (s : State) (hq idx : Nat) : (s.openDone hq idx).m.mem = s.m.mem := by
  simp [State.openDone]

@[simp] theorem keeps_badCommand (hq : Nat) (s : State) : OutKeeps s.m.mem (execBadCommand hq s) := by
  fun_cases execBadCommand hq s <;> simp +zetaDelta <;> exact mem_of_pair ‹_› (by simp)

@[simp] theorem keeps_hostLaunch (hq : Nat) (s : State) : OutKeeps s.m.mem (execHostLaunch hq s) := by
  simp [execHostLaunch]

@[simp] theorem keeps_hostCopy (hq : Nat) (s : State) : OutKeeps s.m.mem (execHostCopy hq s) := by
  fun_cases execHostCopy hq s
  grind [keeps_runCmd, copyRest_mem, acquireAt_mem, bump_m, releaseEager_mem, hostDone_mem]

@[simp] theorem keeps_hostSignalWrite (hq : Nat) (s : State) : OutKeeps s.m.mem (execHostSignalWrite hq s) := by
  fun_cases execHostSignalWrite hq s
  grind [keeps_runCmd, qWrite_mem, pushDown_mem, hostDone_mem, openDone_mem]

@[simp] theorem keeps_hostSignalAdd (hq : Nat) (s : State) : OutKeeps s.m.mem (execHostSignalAdd hq s) := by
  fun_cases execHostSignalAdd hq s
  grind [keeps_runCmd, qRead_mem, openDone_mem, qWrite_mem, hostDone_mem, pushDown_mem]

@[simp] theorem waitSees_mem (s : State) (hq va : Nat) : (s.waitSees hq va).m.mem = s.m.mem := rfl

@[simp] theorem tryWaits_mem (s : State) (hq : Nat) (cs : List Cmd) : (s.tryWaits hq cs).1.m.mem = s.m.mem := by
  fun_induction State.tryWaits s hq cs
  case case1 => rfl
  case case2 ih => exact ih
  case case3 | case4 =>
    simp
    exact mem_of_pair ‹_› (by simp)
  case case5 ih => exact ih.trans (mem_of_pair ‹_› (by simp))

@[simp] theorem keeps_hostWait (hq : Nat) (s : State) : OutKeeps s.m.mem (execHostWait hq s) := by
  fun_cases execHostWait hq s <;> grind [tryWaits_mem, keeps_runCmd, OutKeeps]

@[simp] theorem keeps_hostWaitTimeout (hq : Nat) (s : State) : OutKeeps s.m.mem (execHostWaitTimeout hq s) := by
  unfold execHostWaitTimeout
  split <;> simp

@[simp] theorem tryFence_mem (s : State) (hq : Nat) : (s.tryFence hq).1.m.mem = s.m.mem := by
  fun_cases State.tryFence s hq <;> simp

@[simp] theorem keeps_hostFence (hq : Nat) (s : State) : OutKeeps s.m.mem (execHostFence hq s) := by
  fun_cases execHostFence hq s <;> grind [tryFence_mem, keeps_runCmd, OutKeeps]

@[simp] theorem keeps_ctxcfgInstall (hq : Nat) (s : State) : OutKeeps s.m.mem (execCtxcfgInstall hq s) := by
  refine keeps_runCmd fun t q idx bs => ownOnly_mem _ _ rfl ?_
  split
  · simp [mem_of_pair ‹_› (qRead_mem ..)]
  · dsimp only
    split <;> simp [mem_of_pair ‹_› (qRead_mem ..)]

@[simp] theorem endRing_mem (s : State) (n status fuel : Nat) : (s.endRing n status fuel).m.mem = s.m.mem := by
  induction fuel generalizing s with
  | zero => rfl
  | succ fuel ih =>
    unfold State.endRing
    split
    · rfl
    · dsimp only
      split
      · rfl
      · rw [ih, putTq_m]
        split <;> simp <;> exact mem_of_pair ‹_› (by simp)

@[simp] theorem endQueue_mem (s : State) (n status : Nat) : (s.endQueue n status).m.mem = s.m.mem := by
  unfold State.endQueue
  split <;> simp

@[simp] theorem endBin_mem (s : State) (n status : Nat) : (s.endBin n status).m.mem = s.m.mem := by
  unfold State.endBin
  split <;> simp

@[simp] theorem endCmds_mem (s : State) (hq n : Nat) : (s.endCmds hq n).m.mem = s.m.mem := by
  fun_induction State.endCmds s hq n
  case case1 | case2 | case4 => rfl
  case case3 ih => simpa using ih
  case case5 ih | case6 ih =>
    rw [ih]
    simp
    exact mem_of_pair ‹_› (by simp)

@[simp] theorem endCtx_mem (s : State) (n : Nat) : (s.endCtx n).m.mem = s.m.mem := by
  fun_cases State.endCtx s n
  grind [foldl_mem, abortBind_mem, endQueue_mem, endBin_mem, endItems_mem, modHq_m, endCmds_mem,
    qWrite_mem]

@[simp] theorem keeps_ctxcfgTeardown (hq : Nat) (s : State) : OutKeeps s.m.mem (execCtxcfgTeardown hq s) := by
  simp [execCtxcfgTeardown]

@[simp] theorem keeps_ctxcfgCreateQueue (hq : Nat) (s : State) : OutKeeps s.m.mem (execCtxcfgCreateQueue hq s) := by
  refine keeps_runCmd fun t q idx bs => ownOnly_mem _ _ rfl ?_
  split <;> simp

@[simp] theorem keeps_reincfg (hq : Nat) (s : State) : OutKeeps s.m.mem (execReincfg hq s) := by
  refine keeps_runCmd fun t q idx bs => ownOnly_mem _ _ rfl ?_
  dsimp only
  split
  · split <;> simp <;> exact mem_of_pair ‹_› (by simp)
  · simp

@[simp] theorem flipSync_mem (s : State) (gs : List Nat) : (s.flipSync gs).m.mem = s.m.mem := by
  simp [State.flipSync]

@[simp] theorem flipToDevice_mem (s : State) (gs : List Nat) : (s.flipToDevice gs).m.mem = s.m.mem := by
  simp [State.flipToDevice]

@[simp] theorem flipToHost_mem (s : State) (gs : List Nat) : (s.flipToHost gs).m.mem = s.m.mem := by
  simp [State.flipToHost]

@[simp] theorem keeps_biasflipToHost (hq : Nat) (s : State) : OutKeeps s.m.mem (execBiasflipToHost hq s) := by
  simp [execBiasflipToHost]

@[simp] theorem keeps_biasflipToDevice (hq : Nat) (s : State) : OutKeeps s.m.mem (execBiasflipToDevice hq s) := by
  simp [execBiasflipToDevice]

@[simp] theorem keeps_hostDataRead (addr size : Nat) (s : State) : OutKeeps s.m.mem (execHostDataRead addr size s) := by
  fun_cases execHostDataRead addr size s <;> simp +zetaDelta

@[simp] theorem keeps_hostDataWrite (addr size val : Nat) (s : State) : OutKeeps s.m.mem (execHostDataWrite addr size val s) := by
  unfold execHostDataWrite
  split <;> simp

/-! ## The operations of `Machine/Super` -/

theorem stopDrained_mem (s : State) (w : Nat) (x : Wave) : (match s.gridOfWave w with
    | some (g, h) => if x.dbg ∧ h.lead = some w ∧ h.state = 2 then s.drainGrid w g (h.ops.length + 1) else s
    | none => s).m.mem = s.m.mem := by
  split <;> simp

@[simp] theorem keeps_waveStopReport (w : Nat) (s : State) : OutKeeps s.m.mem (execWaveStopReport w s) := by
  fun_cases execWaveStopReport w s
  case case3 s1 _ =>
    exact stopDrained_mem ..
  case case4 s1 _ _ _ s2 _ s3 _ _ =>
    have hs1 : s1.m.mem = s.m.mem := stopDrained_mem ..
    have hs2 : s2.m.mem = s.m.mem := by
      dsimp only [s2]
      split <;> simp [hs1]
    simp [s3, hs2]
  all_goals rfl

@[simp] theorem enterHandler_mem (s : State) (core : Nat) (e : Stop) : (s.enterHandler core e).m.mem = s.m.mem := rfl

@[simp] theorem keeps_trapqRead (core size : Nat) (s : State) : OutKeeps s.m.mem (execTrapqRead core size s) := by
  fun_cases execTrapqRead core size s <;> simp +zetaDelta

@[simp] theorem replayOf_mem (s : State) (x : Wave) : (s.replayOf x).1.m.mem = s.m.mem := by
  fun_cases State.replayOf s x <;> simp +zetaDelta <;> exact mem_of_pair ‹_› (by simp)

@[simp] theorem resumeWave_mem (s : State) (w : Nat) (x : Wave) : (s.resumeWave w x).m.mem = s.m.mem := by
  simp [State.resumeWave]

@[simp] theorem wcmd_mem (s : State) (w : Nat) : (s.wcmd w).m.mem = s.m.mem := by
  unfold State.wcmd
  split <;> simp

@[simp] theorem keeps_wcmdResume (w : Nat) (s : State) : OutKeeps s.m.mem (execWcmdResume w s) := by
  simp [execWcmdResume]

@[simp] theorem endHandler_mem (s : State) (core : Nat) : (s.endHandler core).m.mem = s.m.mem := rfl

@[simp] theorem keeps_ecallDone (core : Nat) (s : State) : OutKeeps s.m.mem (execEcallDone core s) := by
  unfold execEcallDone
  split <;> simp

@[simp] theorem keeps_ecallTeardown (core a0 : Nat) (s : State) : OutKeeps s.m.mem (execEcallTeardown core a0 s) := by
  unfold execEcallTeardown
  split <;> simp

@[simp] theorem keeps_ecallEscalate (core : Nat) (s : State) : OutKeeps s.m.mem (execEcallEscalate core s) := by
  fun_cases execEcallEscalate core s <;> grind [foldl_mem, hostInterim_mem, report_mem, endHandler_mem, OutKeeps]

@[simp] theorem superFault_mem (s : State) (core code : Nat) : (s.superFault core code).m.mem = s.m.mem := by
  unfold State.superFault
  split <;> simp

@[simp] theorem keeps_supervisorException (core code : Nat) (s : State) : OutKeeps s.m.mem (execSupervisorException core code s) := by
  simp [execSupervisorException]

@[simp] theorem superAt_mem (s : State) (core ctx addr size : Nat) (k : AccKind) :
    (s.superAt core ctx addr size k).1.m.mem = s.m.mem := by
  fun_cases State.superAt s core ctx addr size k <;> simp +zetaDelta <;> exact mem_of_pair ‹_› (by simp)

@[simp] theorem superDrain_mem (s : State) (core : Nat) : (s.superDrain core).m.mem = s.m.mem := by
  simp [State.superDrain]

@[simp] theorem superPush_mem (s : State) (core pa size val : Nat) : (s.superPush core pa size val).m.mem = s.m.mem := rfl

@[simp] theorem superRead_mem (s : State) (core pa size : Nat) : (s.superRead core pa size).1.m.mem = s.m.mem := by
  simp [State.superRead]

@[simp] theorem keeps_supervisorStore (core addr size val : Nat) (s : State) :
    OutKeeps s.m.mem (execSupervisorStore core addr size val s) := by
  fun_cases execSupervisorStore core addr size val s <;> simp +zetaDelta <;> exact mem_of_pair ‹_› (by simp)

@[simp] theorem superLoad_mem (s : State) (core addr size : Nat) : (s.superLoad core addr size).m.mem = s.m.mem := by
  fun_cases State.superLoad s core addr size <;> grind [superAt_mem, superRead_mem, superFault_mem]

@[simp] theorem superFence_mem (s : State) (core : Nat) : (s.superFence core).m.mem = s.m.mem := by
  simp [State.superFence]

@[simp] theorem keeps_instructionBreakpointHit (w : Nat) (s : State) : OutKeeps s.m.mem (execInstructionBreakpointHit w s) := by
  fun_cases execInstructionBreakpointHit w s <;> simp +zetaDelta

@[simp] theorem keeps_clusterStopped (q : Nat) (s : State) : OutKeeps s.m.mem (execClusterStopped q s) := by
  fun_cases execClusterStopped q s <;> simp

@[simp] theorem debugResume_mem (s : State) (q : Nat) : (s.debugResume q).m.mem = s.m.mem := by
  fun_cases State.debugResume s q <;> grind [foldl_mem, putDbg_m, resumeWave_mem, releaseHeld_mem]

@[simp] theorem keeps_dbgResume (q : Nat) (s : State) : OutKeeps s.m.mem (execDbgResume q s) := by
  simp [execDbgResume]

@[simp] theorem debugStep_mem (s : State) (q core slot : Nat) : (s.debugStep q core slot).m.mem = s.m.mem := by
  fun_cases State.debugStep s q core slot <;> simp

@[simp] theorem keeps_dbgStep (q core slot : Nat) (s : State) : OutKeeps s.m.mem (execDbgStep q core slot s) := by
  simp [execDbgStep]

@[simp] theorem keeps_dbgStepDone (w : Nat) (s : State) : OutKeeps s.m.mem (execDbgStepDone w s) := by
  fun_cases execDbgStepDone w s <;> simp

@[simp] theorem hitArray_mem (s : State) (core arr off : Nat) : (s.hitArray core arr off).m.mem = s.m.mem := by
  fun_cases State.hitArray s core arr off <;> simp

@[simp] theorem logChannel_mem (s : State) (pa : Nat) (hard : Bool) : (s.logChannel pa hard).m.mem = s.m.mem := rfl

@[simp] theorem keeps_uncorrectableError (core arr off : Nat) (s : State) :
    OutKeeps s.m.mem (execUncorrectableError core arr off s) := by
  simp [execUncorrectableError]

@[simp] theorem keeps_correctableError (core arr off : Nat) (s : State) : OutKeeps s.m.mem (execCorrectableError core arr off s) := by
  simp [execCorrectableError]

@[simp] theorem keeps_errstatClear (core : Nat) (s : State) : OutKeeps s.m.mem (execErrstatClear core s) := rfl

/-! ## The operations of `Machine/Landing` -/

theorem land_mem {s t : State} {w : Nat} {x : Wave} {p : Pend} (h : s.land w x p = some t) : t.m.mem = s.m.mem := by
  revert h
  fun_cases State.land s w x p <;> rintro ⟨⟩ <;> simp

@[simp] theorem keeps_resultLanded (w n : Nat) (s : State) : OutKeeps s.m.mem (execResultLanded w n s) := by
  fun_cases execResultLanded w n s
  case case1 x p _ =>
    cases h : s.land w x p with
    | none => rfl
    | some t => exact land_mem h
  case case2 => rfl

@[simp] theorem keeps_scratchpadPass (w n : Nat) (s : State) : OutKeeps s.m.mem (execScratchpadPass w n s) := by
  fun_cases execScratchpadPass w n s <;> simp

@[simp] theorem keeps_drainAcknowledge (die core line : Nat) (s : State) :
    OutKeeps s.m.mem (execDrainAcknowledge die core line s) := by
  unfold execDrainAcknowledge
  split <;> simp

/-! ## The operations of `Machine/Package` -/

@[simp] theorem applyInval_mem (s : State) (v : IoInval) : (s.applyInval v).m.mem = s.m.mem := by
  unfold State.applyInval
  split <;> simp

@[simp] theorem invalidate_mem (s : State) (v : IoInval) : (s.invalidate v).m.mem = s.m.mem := by
  simp [State.invalidate]

@[simp] theorem keeps_iotinvalVma (ctx addr size : Nat) (s : State) : OutKeeps s.m.mem (execIotinvalVma ctx addr size s) := rfl

@[simp] theorem keeps_iodirInvalDdt (dev : Nat) (s : State) : OutKeeps s.m.mem (execIodirInvalDdt dev s) := by
  unfold execIodirInvalDdt
  split <;> simp

@[simp] theorem keeps_iodirInvalPdt (dev pid : Nat) (s : State) : OutKeeps s.m.mem (execIodirInvalPdt dev pid s) := by
  unfold execIodirInvalPdt
  split <;> simp

@[simp] theorem settleAll_mem (s : State) : s.settleAll.m.mem = s.m.mem := by
  simp [State.settleAll]

@[simp] theorem fenceDone_mem (s : State) (addr val : Nat) : (s.fenceDone addr val).m.mem = s.m.mem := by
  simp [State.fenceDone]

@[simp] theorem keeps_iofenceC (addr val : Nat) (s : State) : OutKeeps s.m.mem (execIofenceC addr val s) := by
  simp [execIofenceC]

@[simp] theorem fencesDone_mem (s : State) : s.fencesDone.m.mem = s.m.mem := by
  simp [State.fencesDone]

theorem keeps_ioCommand {w0 w1 : Nat} {s : State} {o : Out} (h : ioCommand w0 w1 s = some o) : OutKeeps s.m.mem o := by
  revert h
  fun_cases ioCommand w0 w1 s <;> rintro ⟨⟩ <;> simp

@[simp] theorem ioProcess_mem (s : State) : s.ioProcess.m.mem = s.m.mem := by
  unfold State.ioProcess
  dsimp only
  split
  · rfl
  · split
    · rfl
    · split
      · exact keeps_ioCommand ‹_›
      · rfl

@[simp] theorem keeps_powerLimitWrite (val : Nat) (s : State) : OutKeeps s.m.mem (execPowerLimitWrite val s) := by
  unfold execPowerLimitWrite
  split <;> simp

@[simp] theorem keeps_clockStep (mhz : Nat) (s : State) : OutKeeps s.m.mem (execClockStep mhz s) := by
  fun_cases execClockStep mhz s <;> simp

@[simp] theorem meter_mem (s : State) : s.meter.m.mem = s.m.mem := rfl

@[simp] theorem announce_mem (s : State) (f : Topo → Topo) : (s.announce f).m.mem = s.m.mem := rfl

@[simp] theorem firmwareEvent_mem (s : State) : s.firmwareEvent.m.mem = s.m.mem := rfl

@[simp] theorem keeps_perstRelease (s : State) : OutKeeps s.m.mem (execPerstRelease s) := by
  fun_cases execPerstRelease s <;> simp +zetaDelta

theorem moduleReset_ok (s : State) : ∀ t, execModuleReset s = .next t → MemOk t := by
  rintro t ⟨⟩
  rfl

theorem withWk_mem (s : State) (u : Work') : ({ s with wk := u } : State).m.mem = s.m.mem := rfl

@[simp] theorem keeps_functionLevelReset (s : State) : OutKeeps s.m.mem (execFunctionLevelReset s) := by
  rw [execFunctionLevelReset, outKeeps_next]
  refine (withWk_mem _ _).trans ?_
  rw [foldl_mem endCtx_mem, endCmds_mem]

@[simp] theorem keeps_attestationRequest (val : Nat) (s : State) : OutKeeps s.m.mem (execAttestationRequest val s) := by
  unfold execAttestationRequest
  split <;> simp

@[simp] theorem keeps_service {s : State} {ok : Bool} {f : State} (hf : f.m.mem = s.m.mem) : OutKeeps s.m.mem (s.service ok f) := by
  fun_cases State.service s ok f <;> simp [hf]

@[simp] theorem saveAll_mem (s : State) (key : Nat) : (s.saveAll key).m.mem = s.m.mem := by
  fun_cases State.saveAll s key <;> grind [foldl_mem, putBind_m, saveEnds_mem, beginSave_mem]

@[simp] theorem flushCore_mem (s : State) (core : Nat) : (s.flushCore core).m.mem = s.m.mem := by
  simp [State.flushCore]

@[simp] theorem endRecords_mem (s : State) (q status : Nat) : (s.endRecords q status).m.mem = s.m.mem := by
  simp [State.endRecords]

@[simp] theorem stopSup_mem (s : State) (core : Nat) : (s.stopSup core).m.mem = s.m.mem := by
  simp [State.stopSup]

@[simp] theorem gate_mem (s : State) (q : Nat) : (s.gate q).m.mem = s.m.mem := by
  simp [State.gate]

@[simp] theorem keeps_svcClusterOffline (q : Nat) (s : State) : OutKeeps s.m.mem (execSvcClusterOffline q s) := by
  fun_cases execSvcClusterOffline q s <;> simp

@[simp] theorem clearCluster_mem (s : State) (q : Nat) : (s.clearCluster q).m.mem = s.m.mem := rfl

@[simp] theorem keeps_svcClusterOnline (q : Nat) (s : State) : OutKeeps s.m.mem (execSvcClusterOnline q s) := by
  fun_cases execSvcClusterOnline q s
  grind [keeps_service, svc_m, announce_mem, clearCluster_mem]

@[simp] theorem keeps_svcRetireChannel (ch : Nat) (s : State) : OutKeeps s.m.mem (execSvcRetireChannel ch s) := by
  fun_cases execSvcRetireChannel ch s
  grind [keeps_service, svc_m, announce_mem]

@[simp] theorem keeps_svcRetrainChannel (ch : Nat) (s : State) : OutKeeps s.m.mem (execSvcRetrainChannel ch s) := by
  fun_cases execSvcRetrainChannel ch s
  grind [keeps_service, svc_m]

@[simp] theorem handover_mem (s : State) (die : Nat) (p : Image) : (s.handover die p).m.mem = s.m.mem := rfl

@[simp] theorem handovers_mem (s : State) (unit : Nat) (p : Image) : (s.handovers unit p).m.mem = s.m.mem := by
  fun_cases State.handovers s unit p <;> grind [svc_m, handover_mem, firmwareEvent_mem]

@[simp] theorem keeps_svcFirmwareHandover (val : Nat) (s : State) : OutKeeps s.m.mem (execSvcFirmwareHandover val s) := by
  simp [execSvcFirmwareHandover]

@[simp] theorem dropDie_mem (s : State) (die : Nat) : (s.dropDie die).m.mem = s.m.mem := by
  simp [State.dropDie]

@[simp] theorem keeps_ucieModuleFailure (link : Nat) (s : State) : OutKeeps s.m.mem (execUcieModuleFailure link s) := by
  fun_cases execUcieModuleFailure link s <;> simp

@[simp] theorem linkDown_mem (s : State) (why : Nat) : (s.linkDown why).m.mem = s.m.mem := by
  fun_cases State.linkDown s why <;> grind [foldl_mem, finishColl_mem, partColl_mem, sendAnswer_mem, announce_mem, modTwin_m]

@[simp] theorem startTraining_mem (s : State) : s.startTraining.m.mem = s.m.mem := by
  simp [State.startTraining]

@[simp] theorem twinDown_mem (s : State) : s.twinDown.m.mem = s.m.mem := by
  simp [State.twinDown]

@[simp] theorem keeps_twinEnable (val : Nat) (s : State) : OutKeeps s.m.mem (execTwinEnable val s) := by
  fun_cases execTwinEnable val s <;> simp +zetaDelta

@[simp] theorem keeps_twinRetrain (s : State) : OutKeeps s.m.mem (execTwinRetrain s) := by
  unfold execTwinRetrain
  split <;> simp

@[simp] theorem keeps_linkTrainingComplete (ok : Nat) (s : State) : OutKeeps s.m.mem (execLinkTrainingComplete ok s) := by
  fun_cases execLinkTrainingComplete ok s <;> simp

@[simp] theorem keeps_linkDownEvent (why : Nat) (s : State) : OutKeeps s.m.mem (execLinkDownEvent why s) := by
  unfold execLinkDownEvent
  split <;> simp

@[simp] theorem keeps_linkAutoRetrain (s : State) : OutKeeps s.m.mem (execLinkAutoRetrain s) := by
  fun_cases execLinkAutoRetrain s <;> simp

@[simp] theorem keeps_flitReplay (n : Nat) (s : State) : OutKeeps s.m.mem (execFlitReplay n s) := by
  unfold execFlitReplay
  split <;> simp

/-! ## The operations of `Machine/Registers` -/

@[simp] theorem keeps_bindCommand (key cmd : Nat) (s : State) : OutKeeps s.m.mem (bindCommand key cmd s) := by
  unfold bindCommand
  split <;> simp

@[simp] theorem keeps_slotTableWrite (addr size val : Nat) (s : State) : OutKeeps s.m.mem (slotTableWrite addr size val s) := by
  fun_cases slotTableWrite addr size val s <;> grind [putBind_m, keeps_bindCommand, OutKeeps]

@[simp] theorem writeDbgctl_mem (s : State) (q v : Nat) : (s.writeDbgctl q v).m.mem = s.m.mem := by
  unfold State.writeDbgctl
  split <;> simp

@[simp] theorem writeDebug_mem (s : State) (q o size val : Nat) : (s.writeDebug q o size val).m.mem = s.m.mem := by
  simp [State.writeDebug]

@[simp] theorem writePhysReg_mem (s : State) (core o size val : Nat) : (s.writePhysReg core o size val).m.mem = s.m.mem := by
  fun_cases State.writePhysReg s core o size val <;> simp

@[simp] theorem writeWindow_mem (s : State) (core : Nat) (sup : Bool) (o size val : Nat) :
    (s.writeWindow core sup o size val).m.mem = s.m.mem := by
  fun_cases State.writeWindow s core sup o size val <;> grind [foldl_mem, writePhysReg_mem, regWrite_mem, spRelease_mem, spCleanse_mem,
    spPut_m, putGrid_m, writeDebug_mem, wcmd_mem, putWave_m, putTq_m, putBin_m]

@[simp] theorem writeBar0_mem (s : State) (o size val : Nat) : (s.writeBar0 o size val).m.mem = s.m.mem := by
  fun_cases State.writeBar0 s o size val <;> simp

@[simp] theorem answerPage_mem (s : State) (page : Nat) : (s.answerPage page).m.mem = s.m.mem := by
  refine foldl_mem (fun s _ => ?_) ..
  split
  · exact after_mem (keeps_reinRouterSend ..)
  · rfl

@[simp] theorem readBy_mem (s : State) (who addr size : Nat) : (s.readBy who addr size).m.mem = s.m.mem := by
  fun_cases State.readBy s who addr size
  case case1 => rfl
  case case2 h => have hk := keeps_trapqRead ((addr - windowBase) / 0x400000) 8 s; rwa [h] at hk
  case case3 => rfl
  case case4 s1 s2 =>
    have h1 : s1.m.mem = s.m.mem := by simp [s1, answerPage_mem]
    simp [s2, h1]

/-! ## The operations of `Machine/Table` -/

@[simp] theorem keeps_table {b : List Host.Cell} {c : Issue} {s : State} {f : Nat → TblPair → Eff}
    (hf : ∀ k p, EffKeeps b (f k p)) : EffKeeps b (c.table s f) := by
  unfold Issue.table
  split <;> simp [hf]

@[simp] theorem keeps_tblsetBankWrite (w n : Nat) (s : State) : OutKeeps s.m.mem (execTblsetBankWrite w n s) := by
  fun_cases execTblsetBankWrite w n s <;> simp

@[simp] theorem keeps_tblevalResult (w n : Nat) (s : State) : OutKeeps s.m.mem (execTblevalResult w n s) := by
  fun_cases execTblevalResult w n s <;> simp

/-! ## The operations of `Machine/Hart` -/

@[simp] theorem hartTrap_mem {s : State} {core code : Nat} {tval : BitVec 64} {f : State → State} (hf : ∀ t, (f t).m.mem = t.m.mem) :
    (s.hartTrap core code tval f).m.mem = s.m.mem := by
  simp [State.hartTrap, hf]

@[simp] theorem hartFault_mem (s : State) (core code : Nat) (tval : BitVec 64) : (s.hartFault core code tval).m.mem = s.m.mem := by
  simp [State.hartFault]

@[simp] theorem hartEcall_mem (s : State) (core : Nat) : (s.hartEcall core).m.mem = s.m.mem := by
  refine hartTrap_mem fun t => ?_
  split <;> simp

@[simp] theorem hartNext_mem (s : State) (core n rd : Nat) (v : BitVec 64) : (s.hartNext core n rd v).m.mem = s.m.mem := rfl

@[simp] theorem hartJump_mem (s : State) (core rd : Nat) (v target : BitVec 64) : (s.hartJump core rd v target).m.mem = s.m.mem := rfl

@[simp] theorem hartLoad_mem (s : State) (core ctx addr n : Nat) : (s.hartLoad core ctx addr n).1.m.mem = s.m.mem := by
  fun_cases State.hartLoad s core ctx addr n <;> grind [superAt_mem, superRead_mem, readBy_mem]

@[simp] theorem hartOrder_mem (s : State) (core order : Nat) : (s.hartOrder core order).m.mem = s.m.mem := by
  simp [State.hartOrder]

@[simp] theorem hartRmw_mem (s : State) (core pa n : Nat) (f : Nat → Option Nat) : (s.hartRmw core pa n f).1.m.mem = s.m.mem := by
  fun_cases State.hartRmw s core pa n f <;> simp +zetaDelta <;> exact mem_of_pair ‹_› (by simp)

@[simp] theorem hartAtomic_mem {s : State} {core ctx : Nat} {addr : BitVec 64} {n : Nat} {k : AccKind} {f : State → Nat → State}
    (hf : ∀ t pa, (f t pa).m.mem = t.m.mem) : (s.hartAtomic core ctx addr n k f).m.mem = s.m.mem := by
  have hs := superAt_mem s core ctx addr.toNat n k
  unfold State.hartAtomic
  split <;> simp_all

@[simp] theorem hartFill_mem (s : State) (core : Nat) (e : Stop) (addr : Nat) : (s.hartFill core e addr).m.mem = s.m.mem := by
  fun_cases State.hartFill s core e addr <;> simp +zetaDelta <;> exact mem_of_pair ‹_› (by simp)

/-! ## The operations of `Machine/Sched` -/

@[simp] theorem decodeTrap_mem (s : State) (w : Nat) (x : Wave) (pc : Nat) (act : Word) (bs : List Byte) (e : DecodeError) :
    (s.decodeTrap w x pc act bs e).m.mem = s.m.mem := by
  simp [State.decodeTrap]

@[simp] theorem tick_mem (s : State) : s.tick.m.mem = s.m.mem := by
  simp [State.tick]

end Sys2Proof.Machine

/-! # The rows that issue leave the bytes of memory as they are -/

namespace Sys2Proof.Machine

@[simp] theorem keeps_hrange {b : List Host.Cell} (c : Issue) (sub cw : Nat) : EffKeeps b (c.hrange sub cw) := fun _ => rfl

@[simp] theorem keeps_takeOut {b : List Host.Cell} (c : Issue) (r : State × Nat) : EffKeeps b (c.takeOut r) ↔ r.1.m.mem = b := Iff.rfl

@[simp] theorem keeps_record {b : List Host.Cell} {c : Issue} {s : State} {any : Bool} {f : Record → Eff}
    (hf : ∀ r, EffKeeps b (f r)) : EffKeeps b (c.record s any f) := keeps_recordAt hf

theorem keeps_check {b : List Host.Cell} {c : Prop} [Decidable c] {e e' : Eff} (he : EffKeeps b e) (he' : EffKeeps b e') :
    EffKeeps b (if c then e else e') := by split <;> assumption

theorem keeps_run {i : Instr} {s : State} {eff : Issue → State → Eff} (h : ∀ c, EffKeeps s.m.mem (eff c s)) :
    OutKeeps s.m.mem (run i s eff) := keeps_issue h

theorem keeps_instr {i : Instr} (hi : i.isInstruction = true) (hr : registerOnly i = false) (s : State) :
    OutKeeps s.m.mem (exec i s) := by
  cases i <;> cases hi <;> cases hr
  all_goals
    dsimp only [exec]
    refine keeps_run fun c => ?_
  case tqpush => exact keeps_offerEff (fun _ _ _ => offerTask_mem ..) c s
  case nrec => exact keeps_offerEff (fun _ _ _ => offerNode_mem ..) c s
  case launch => exact keeps_offerEff (fun _ _ _ => offerLaunch_mem ..) c s
  case tblset =>
    refine keeps_table fun k p => ?_
    dsimp only
    split
    all_goals rw [← mem_of_pair ‹_› (checkGlobal_mem ..)]
    · exact keeps_fault ..
    · rfl
  case mlst =>
    refine keeps_mlAccess fun t ps => ?_
    dsimp only
    split_ifs
    · rfl
    · simp
    · simp
    · split <;> simp
  case barsync =>
    refine keeps_enrol fun t key => keeps_settled ?_
    rw [← arriveAll_mem t c.w key c.lanes false]
    exact keeps_parkBar ..
  case monarm =>
    dsimp only
    split
    all_goals rw [← mem_of_pair ‹_› (checkGlobal_mem ..)]
    · exact keeps_fault ..
    · simp
  case rwait =>
    refine keeps_handler fun ctx first => ?_
    split <;> simp [mem_of_pair ‹_› (lowestVec_mem ..)]
  case rtakeAny =>
    refine keeps_handler fun ctx first => ?_
    split <;> simp [mem_of_pair ‹_› (lowestVec_mem ..)]
  case hlds =>
    refine keeps_lead fun g h => keeps_record fun r => ?_
    dsimp only
    split_ifs
    all_goals simp
  case hmma =>
    refine keeps_lead fun g h => keeps_recordAt fun r => ?_
    simp
  case hdrnSp =>
    refine keeps_lead fun g h => keeps_record fun r => ?_
    simp
  case hldb =>
    refine keeps_lead fun g h => keeps_record fun r => ?_
    refine keeps_check (effKeeps_raise _ _ _ _) (keeps_ranges ?_)
    dsimp only
    split <;> simp
  case hmust =>
    refine keeps_check (effKeeps_raise _ _ _ _) (keeps_check (keeps_hrange _ _ _) (keeps_check (keeps_hrange _ _ _) ?_))
    refine keeps_check (effKeeps_raise _ _ _ _) (keeps_check (effKeeps_raise _ _ _ _) (keeps_check (by simp) ?_))
    split <;> simp
  all_goals simp

end Sys2Proof.Machine

/-! # Every step keeps memory in canonical form (R165, R364; log entry 3) -/

namespace Sys2Proof.Machine

theorem mem_of_registerOnly {i : Instr} {s t : State} (hr : registerOnly i = true) (h : exec i s = .next t) : t.m = s.m :=
  (framed_of_isQuiet (h ▸ isQuiet_of_registerOnly hr s)).1.1

/-- An answer whose bytes of memory are in canonical form. -/
def OutOk (o : Out) : Prop := ∀ t, o = .next t → MemOk t

theorem outOk_next {t : State} (h : MemOk t) : OutOk (.next t) := by
  rintro _ ⟨⟩
  exact h

section
variable {s : State} (hm : MemOk s)
include hm

theorem takeHit_ok (w : Nat) (x : Wave) (h : Hit) : MemOk (s.takeHit w x h) := memOk_of_eq hm rfl

theorem outOk_of_keeps {o : Out} (h : OutKeeps s.m.mem o) : OutOk o := by
  rintro t rfl
  exact memOk_of_eq hm h

theorem after_ok {f : State → Out} (h : OutOk (f s)) : MemOk (after f s) := by
  unfold after
  split
  next ht => exact h _ ht
  next => exact hm

theorem recallLines_ok (p : Nat → Bool) : MemOk (s.recallLines p) := by
  unfold State.recallLines
  extract_lets s1 s2
  have h1 : (s1.l2ToMem fun a => p (lineOf a)).m.mem = s.m.mem := (l2ToMem_mem ..).trans (foldl_mem (fun _ _ => expel_mem ..) ..)
  have h2 : MemOk s2 := slcToMem_ok (memOk_of_eq hm h1) _
  exact memOk_of_eq h2 rfl

theorem service_ok {ok : Bool} {f : State} (hf : MemOk f) : OutOk (s.service ok f) := by
  fun_cases State.service s ok f
  · exact outOk_next hm
  · exact outOk_next (memOk_of_eq hm rfl)
  · exact outOk_next hf

theorem svcProceedRetirement_ok (ch : Nat) : OutOk (execSvcProceedRetirement ch s) := by
  have h := recallLines_ok hm fun l => s.channel (128 * l) == ch && decide (128 * l < s.pk.topo.mbase + s.pk.topo.memnext)
  exact service_ok hm (memOk_of_eq h rfl)

theorem writeSvccmd_ok (v : Nat) : MemOk (s.writeSvccmd v) := by
  fun_cases State.writeSvccmd s v
  case case5 => exact after_ok hm (svcProceedRetirement_ok hm _)
  all_goals exact memOk_of_eq hm (by simp)

theorem writeBar2_ok (o size val : Nat) : MemOk (s.writeBar2 o size val) := by
  fun_cases State.writeBar2 s o size val
  case case5 s1 _ =>
    have h1 : MemOk s1 := memOk_of_eq hm rfl
    exact memOk_of_eq h1 (after_mem (keeps_attestationRequest ..))
  case case7 => exact writeSvccmd_ok hm _
  all_goals exact memOk_of_eq hm (by simp +zetaDelta)

theorem registerWrite_ok (who addr size val : Nat) : OutOk (execRegisterWrite who addr size val s) := by
  unfold execRegisterWrite
  split
  · exact outOk_next hm
  · dsimp only
    split
    · refine outOk_next ?_
      split
      · exact writeBar2_ok hm ..
      · exact hm
    all_goals exact outOk_of_keeps hm (by simp)

theorem event_ok {i : Instr} (h : i.isInstruction = false) : OutOk (exec i s) := by
  cases i <;> cases h
  case cacheEviction core line => exact fun _ => cacheEviction_ok hm core line
  case moduleReset => exact moduleReset_ok s
  case registerWrite who addr size val => exact registerWrite_ok hm who addr size val
  case svcProceedRetirement ch => exact svcProceedRetirement_ok hm ch
  all_goals
    refine outOk_of_keeps hm ?_
    simp [exec]

theorem exec_ok (i : Instr) : OutOk (exec i s) := by
  cases hi : i.isInstruction with
  | false => exact event_ok hm hi
  | true =>
    cases hr : registerOnly i with
    | false => exact outOk_of_keeps hm (keeps_instr hi hr s)
    | true => exact fun t he => memOk_of_eq hm (congrArg Mem.mem (mem_of_registerOnly hr he))

theorem hartStore_ok (core ctx addr n val : Nat) : MemOk (s.hartStore core ctx addr n val).1 := by
  unfold State.hartStore
  split
  all_goals have ht := memOk_of_eq hm (mem_of_pair ‹_› (superAt_mem ..))
  · exact ht
  · exact memOk_of_eq ht (superPush_mem ..)
  · exact after_ok ht (registerWrite_ok ht 1 addr n val)

theorem hartExec_ok (core ctx n bits : Nat) (i : Rv) : MemOk (s.hartExec core ctx n bits i) := by
  cases i with
  | store m rs src off =>
    have h := hartStore_ok hm core ctx ((s.sup core).hart.get rs + off).toNat m (((s.sup core).hart.get src).toNat % 256 ^ m)
    unfold State.hartExec
    dsimp only
    split
    all_goals
      rename_i heq
      rw [heq] at h
      exact memOk_of_eq h (by simp)
  | load m u rd rs off =>
    unfold State.hartExec
    dsimp only
    split <;> exact memOk_of_eq hm (by simp [mem_of_pair ‹_› (hartLoad_mem ..)])
  | branch rel r1 r2 off => unfold State.hartExec; exact memOk_of_eq hm (by simp)
  | csr kind x rd src num =>
    unfold State.hartExec
    dsimp only
    split
    · exact memOk_of_eq hm (by simp)
    · exact memOk_of_eq hm (by simp)
  | _ => unfold State.hartExec; exact memOk_of_eq hm (by simp)

theorem hartStep_ok (core : Nat) : MemOk (s.hartStep core) := by
  fun_cases State.hartStep s core
  case case6 => exact hartExec_ok hm ..
  all_goals exact memOk_of_eq hm (by simp)

theorem issueFrom_ok (w : Nat) : OutOk (s.issueFrom w) := by
  fun_cases State.issueFrom s w
  case case1 => exact outOk_next hm
  case case2 => exact outOk_next hm
  case case3 => exact exec_ok hm _
  case case4 =>
    have hw : MemOk { s with cur := w } := memOk_of_eq hm rfl
    exact exec_ok hw _
  case case5 => exact outOk_next (memOk_of_eq hm (decodeTrap_mem ..))

theorem input_ok (a : Input) : OutOk (s.input a) := by
  fun_cases State.input s a
  case case1 => exact exec_ok hm _
  case case2 => exact outOk_next hm
  all_goals exact outOk_of_keeps hm (by simp)

theorem choose_ok : OutOk s.choose := by
  have hb : MemOk s.bump := memOk_of_eq hm rfl
  unfold State.choose
  extract_lets ms s1
  split
  · split
    · exact issueFrom_ok hb _
    · exact outOk_next (memOk_of_eq hb (tick_mem _))
  · exact exec_ok hb _
  · exact outOk_next (memOk_of_eq hb (see_mem ..))
  · exact outOk_next (memOk_of_eq hb (dropCode_mem ..))
  · exact outOk_next (memOk_of_eq hb (prefetch_mem ..))
  · exact outOk_next (hartStep_ok hb _)
  · refine outOk_next (memOk_of_eq hb ?_)
    split
    · exact ioProcess_mem _
    · exact fencesDone_mem _
  · split
    · split
      · exact outOk_next (takeHit_ok hb ..)
      · exact outOk_next hb
    · exact outOk_next hb

theorem advance_ok : OutOk s.advance := by
  fun_cases State.advance s
  case case1 rest _ =>
    have hr : MemOk { s with agenda := rest } := memOk_of_eq hm rfl
    exact input_ok hr _
  case case2 => exact exec_ok hm _
  case case3 => exact outOk_next (takeHit_ok hm ..)
  case case4 => exact issueFrom_ok hm _
  case case5 => exact choose_ok hm

end

/-- Settles O7: no step writes the listed bytes, apart from an eviction, a recall of lines and a module reset. -/
theorem stepKeepsMemory : Obligations.StepKeepsMemory := by
  unfold Obligations.StepKeepsMemory
  intro s t hm ht
  exact advance_ok hm t ht

/-- Settles O6: memory after reset lists nothing. -/
theorem resetMemoryCanonical : Obligations.ResetMemoryCanonical := by
  unfold Obligations.ResetMemoryCanonical
  rfl

end Sys2Proof.Machine

/-! # Doorbells, host commands and host accesses (R350 to R352, R393, R395 to R401) -/

namespace Sys2Proof.Machine

/-! ## Doorbells -/

section
variable {s : State} {page : Nat} {q : HostQ} (hp : s.openPage page = some q)
include hp

theorem mget_of_openPage : mget s.wk.hqs page = some q := by
  unfold State.openPage at hp
  split at hp
  · obtain ⟨r, hr, hq⟩ := Option.bind_eq_some_iff.1 hp
    split at hq
    · rw [hr, Option.some.inj hq]
    · cases hq
  · cases hp

theorem doorbellTail_open (v : Nat) :
    exec (.doorbellTail page v) s = .next (s.modHq page fun q => { q with tail := v % 2 ^ 32, deps := s.m.seenBy hostAgent }) := by
  show execDoorbellTail page v s = _
  unfold execDoorbellTail
  rw [hp]

theorem doorbellIrqArm_open : exec (.doorbellIrqArm page 1) s = .next (s.modHq page fun q => { q with armed := true }) := by
  show execDoorbellIrqArm page 1 s = _
  unfold execDoorbellIrqArm
  rw [hp]
  rfl

theorem doorbellRsend_sent {v : Nat} (hroute : bitsOf v 15 14 = 0) (hvalid : q.valid = true) :
    ∃ t d, exec (.doorbellRsend page v) s = .next t ∧ t.wk.sends = s.wk.sends ++ [d]
      ∧ d.vec = bitsOf v 13 8 ∧ d.ctx = v % 256 ∧ d.payload = q.rpay ∧ d.page = some page ∧ d.seq = q.sends + 1
      ∧ t.waves = s.waves ∧ t.m = s.m := by
  change ∃ t d, execDoorbellRsend page v s = .next t ∧ _
  unfold execDoorbellRsend
  rw [hp]
  dsimp only
  rw [if_neg (by simp [hroute, hvalid])]
  exact ⟨_, _, rfl, rfl, rfl, rfl, rfl, rfl, rfl, rfl, rfl⟩

theorem doorbellRsend_refused {v : Nat} (h : bitsOf v 15 14 ≠ 0 ∨ q.valid = false) :
    ∃ t r, exec (.doorbellRsend page v) s = .next t ∧ t.wk.sends = s.wk.sends
      ∧ mget t.wk.hqs page = some r ∧ r.sends = q.sends + 1
      ∧ (q.resultOf ≤ q.sends + 1 → r.rstat = (q.sends + 1) % 2 ^ 32 * 2 ^ 32 + 2 * 2 ^ 30) ∧ t.waves = s.waves ∧ t.m = s.m := by
  change ∃ t r, execDoorbellRsend page v s = .next t ∧ _
  unfold execDoorbellRsend
  rw [hp]
  dsimp only
  rw [if_pos (by simpa using h)]
  refine ⟨_, _, rfl, rfl, mget_mmod_same (mget_mmod_same (mget_of_openPage hp) _) _, ?_, fun hr => ?_, rfl, rfl⟩
  · split <;> rfl
  · rw [if_pos hr]
    simp [HostQ.rstat, joinBits]

end

/-! ## Commands -/

/-- The copy entry of a COPY command. -/
def hostEntry (bs : List Byte) (idx cut : Nat) : Copy :=
  { idx := idx, fields := (List.range 8).map fun i => fieldOf bs (16 + 4 * i) 4, status := 1, cut := cut, coll := none, pub := 0 }

section
variable {s u : State} {hq idx : Nat} {bs : List Byte} {q : HostQ}

theorem ownOnly_zero (s : State) (idx : Nat) (f : State) : s.ownOnly 0 idx f = f := rfl

theorem ownOnly_ne (s : State) (idx : Nat) (f : State) (h : hq ≠ 0) : s.ownOnly hq idx f = s.hostDone hq idx 0x89 := if_neg h

variable (hn : s.nextCmd hq = (u, some (idx, bs)))
include hn

theorem badCommand_next (hok : u.cmdOk bs = false) :
    exec (.badCommand hq) s = .next ((u.startCmd hq idx bs).hostDone hq idx 0x87) := by
  show execBadCommand hq s = _
  unfold execBadCommand
  rw [hn]
  simp [hok]

variable {v : State} (hg : mget u.wk.hqs hq = some q) (hv : u.startCmd hq idx bs = v) (hok : u.cmdOk bs = true)
include hg hv hok

/-- A command event whose command is the queue's next one and well formed starts it and has its effect. -/
theorem runCmd_next {is : List Byte → Bool} (his : is bs = true) (f : State → HostQ → Nat → List Byte → State) :
    s.runCmd hq is f = .next (f v q idx bs) := by
  unfold State.runCmd
  rw [hn]
  dsimp only
  rw [hg]
  dsimp only
  rw [hok, his, hv]
  rfl

/-- The effect of a command that only queue 0 may give, from queue 0. -/
theorem runCmd_own {is : List Byte → Bool} (his : is bs = true) (f : State → HostQ → Nat → List Byte → State) (h0 : hq = 0) :
    s.runCmd hq is (fun s q idx bs => s.ownOnly hq idx (f s q idx bs)) = .next (f v q idx bs) := by
  rw [runCmd_next hn hg hv hok his, h0, ownOnly_zero]

/-- What any other queue is answered for such a command. -/
theorem runCmd_notOwn {is : List Byte → Bool} (his : is bs = true) (f : State → HostQ → Nat → List Byte → State) (h0 : hq ≠ 0) :
    s.runCmd hq is (fun s q idx bs => s.ownOnly hq idx (f s q idx bs)) = .next (v.hostDone hq idx 0x89) := by
  rw [runCmd_next hn hg hv hok his, ownOnly_ne _ _ _ h0]

theorem hostLaunch_next (ho : cmdOpc bs = 1) :
    exec (.hostLaunch hq) s = .next (v.bump.newGrid
        { launchGrid q.ctx q.die (Config.openValue v.free % 128) 0 [] (bs.drop 16) [] (v.ctx q.ctx).cap with
          host := some (hq, idx), child := false, deps := q.deps }).1 := by
  show execHostLaunch hq s = _
  unfold execHostLaunch
  refine runCmd_next hn hg hv hok ?_ _
  exact beq_iff_eq.2 ho

theorem hostCopy_refused (ho : cmdOpc bs = 2) (hc : (hostEntry bs idx v.free).hostCheck ≠ 1) :
    exec (.hostCopy hq) s = .next ((v.releaseEager (32 * q.die) 5).hostDone hq idx
      (0x8B + (hostEntry bs idx v.free).hostCheck * 2 ^ 8)
      { core := 32 * q.die, deps := (v.releaseEager (32 * q.die) 5).m.seenBy (32 * q.die) }) := by
  show execHostCopy hq s = _
  unfold execHostCopy
  refine (runCmd_next hn hg hv hok ?_ _).trans ?_
  · exact beq_iff_eq.2 ho
  unfold hostEntry at hc ⊢
  dsimp only
  rw [if_neg hc]
  dsimp only
  rw [if_neg hc]

theorem hostCopy_moved (ho : cmdOpc bs = 2) (hc : (hostEntry bs idx v.free).hostCheck = 1) {s1 : State} {n : Nat}
    (hr : (v.bump.acquireAt (32 * q.die) 5 q.deps).copyRest (32 * q.die) q.ctx 0 (hostEntry bs idx v.free) = (s1, n)) :
    exec (.hostCopy hq) s = .next ((s1.releaseEager (32 * q.die) 5).hostDone hq idx (if n = 1 then 0x101 else 0x8B + n * 2 ^ 8)
      { core := 32 * q.die, deps := (s1.releaseEager (32 * q.die) 5).m.seenBy (32 * q.die) }) := by
  show execHostCopy hq s = _
  unfold execHostCopy
  refine (runCmd_next hn hg hv hok ?_ _).trans ?_
  · exact beq_iff_eq.2 ho
  unfold hostEntry at hc hr
  dsimp only
  rw [if_pos hc, hr]
  rfl

theorem hostSignalWrite_next (ho : cmdOpc bs = 3) (hk : fieldOf bs 32 1 = 0) {s1 : State}
    (hw : (v.pushDown 5 fun _ => true).qWrite q.ctx (fieldOf bs 16 8) (leBytesOf 8 (fieldOf bs 24 8))
      (q.release (fieldOf bs 33 1)) = (s1, true)) :
    exec (.hostSignalWrite hq) s = .next (s1.hostDone hq idx 1) := by
  show execHostSignalWrite hq s = _
  unfold execHostSignalWrite
  refine (runCmd_next hn hg hv hok ?_ _).trans ?_
  · simp [ho, hk]
  rw [hw]

theorem hostSignalAdd_next (ho : cmdOpc bs = 3) (hk : fieldOf bs 32 1 = 1) {s1 s2 : State} {old : List Byte}
    (hr : v.qRead q.ctx (fieldOf bs 16 8) 8 = (s1, .ok old)) (hp : s1.devPoisoned q.ctx (fieldOf bs 16 8) 8 = false)
    (hw : s1.qWrite q.ctx (fieldOf bs 16 8) (leBytesOf 8 (leVal old + fieldOf bs 24 8))
      (joinRels (s1.qRels q.ctx (fieldOf bs 16 8)) (q.release (fieldOf bs 33 1))) = (s2, true)) :
    exec (.hostSignalAdd hq) s = .next ((s2.pushDown 5 fun _ => true).hostDone hq idx 1) := by
  show execHostSignalAdd hq s = _
  unfold execHostSignalAdd
  refine (runCmd_next hn hg hv hok ?_ _).trans ?_
  · simp [ho, hk]
  dsimp only
  rw [hr]
  dsimp only
  rw [hp]
  simp only [Bool.false_eq_true, if_false]
  rw [hw]

theorem hostFence_next (ho : cmdOpc bs = 8) (hf : s.tryFence hq = (s, false)) : exec (.hostFence hq) s = .next (v.tryFence hq).1 := by
  show execHostFence hq s = _
  unfold execHostFence
  rw [hf]
  refine runCmd_next hn hg hv hok ?_ _
  exact beq_iff_eq.2 ho

theorem hostWait_next (ho : cmdOpc bs = 4) (hb : (mgetD s.wk.hqs hq {}).busy = []) :
    exec (.hostWait hq) s = .next (v.tryWaits hq [{ idx := idx, bytes := bs, at' := 0 }]).1 := by
  show execHostWait hq s = _
  unfold execHostWait
  rw [hb]
  refine runCmd_next hn hg hv hok ?_ _
  exact beq_iff_eq.2 ho

theorem ctxcfgTeardown_next (ho : cmdOpc bs = 5) (hs : fieldOf bs 25 1 = 1) (h0 : hq = 0) :
    exec (.ctxcfgTeardown hq) s = .next ((v.endCtx (fieldOf bs 24 1)).hostDone hq idx 1) :=
  runCmd_own hn hg hv hok (by simp [ho, hs]) (fun s _ idx bs => (s.endCtx (fieldOf bs 24 1)).hostDone hq idx 1) h0

theorem ctxcfgInstall_next (ho : cmdOpc bs = 5) (hs : fieldOf bs 25 1 = 0) (h0 : hq = 0) {s1 : State} {img : List Byte}
    (hr : v.qRead q.ctx (fieldOf bs 16 8) 640 = (s1, .ok img)) (hc : ctxOk img = true) :
    exec (.ctxcfgInstall hq) s = .next ((s1.putCtx (fieldOf bs 24 1) { parseCtx (fieldOf bs 16 8) img with
      launched := (s1.ctx (fieldOf bs 24 1)).launched, raised := (s1.ctx (fieldOf bs 24 1)).raised
      sent := (s1.ctx (fieldOf bs 24 1)).sent }).wakeParked.hostDone hq idx 1) := by
  show execCtxcfgInstall hq s = _
  unfold execCtxcfgInstall
  refine (runCmd_next hn hg hv hok ?_ _).trans ?_
  · simp [ho, hs]
  subst h0
  dsimp only
  rw [ownOnly_zero, hr]
  dsimp only
  rw [hc]
  rfl

theorem ctxcfgCreateQueue_next (ho : cmdOpc bs = 5) (hs : fieldOf bs 25 1 = 2) (h0 : hq = 0) {m : Nat} (hf : v.freeHostQ = some m) :
    exec (.ctxcfgCreateQueue hq) s = .next (({ v with wk := { v.wk with hqs := mput v.wk.hqs m (newHostQ (mgetD v.wk.hqs m {})
      (fieldOf bs 16 8) (fieldOf bs 26 2) (fieldOf bs 28 1) (fieldOf bs 24 1)) } } : State).hostDone hq idx 1) := by
  show execCtxcfgCreateQueue hq s = _
  unfold execCtxcfgCreateQueue
  refine (runCmd_next hn hg hv hok ?_ _).trans ?_
  · simp [ho, hs]
  subst h0
  dsimp only
  rw [ownOnly_zero, hf]

theorem reincfg_entry (ho : cmdOpc bs = 6) (he : fieldOf bs 25 1 ≠ 0xFF) (h0 : hq = 0) :
    exec (.reincfg hq) s = .next ((v.putCtx (fieldOf bs 24 1) { v.ctx (fieldOf bs 24 1) with
      reinblk := fieldOf bs 16 8
      perms := (v.ctx (fieldOf bs 24 1)).perms.set (fieldOf bs 25 1) (parsePerm (bs.drop 32)) }).wakeParked.hostDone hq idx 1) := by
  show execReincfg hq s = _
  unfold execReincfg
  refine (runCmd_next hn hg hv hok ?_ _).trans ?_
  · exact beq_iff_eq.2 ho
  subst h0
  dsimp only
  rw [ownOnly_zero, if_neg he]

theorem reincfg_all (ho : cmdOpc bs = 6) (he : fieldOf bs 25 1 = 0xFF) (h0 : hq = 0) {s1 : State} {img : List Byte}
    (hr : v.qRead q.ctx (v.ctx (fieldOf bs 24 1)).image 640 = (s1, .ok img)) :
    exec (.reincfg hq) s = .next ((s1.putCtx (fieldOf bs 24 1) { v.ctx (fieldOf bs 24 1) with
      reinblk := fieldOf bs 16 8, perms := parsePerms img }).wakeParked.hostDone hq idx 1) := by
  show execReincfg hq s = _
  unfold execReincfg
  refine (runCmd_next hn hg hv hok ?_ _).trans ?_
  · exact beq_iff_eq.2 ho
  subst h0
  dsimp only
  rw [ownOnly_zero, if_pos he, hr]

theorem biasflipToHost_next (ho : cmdOpc bs = 7) (hs : fieldOf bs 28 1 = 0) (h0 : hq = 0) :
    exec (.biasflipToHost hq) s = .next ((v.flipToHost ((v.granulesOf bs).filter fun g => v.m.bias.contains g)).hostDone hq idx 1) :=
  runCmd_own hn hg hv hok (by simp [ho, hs])
    (fun s _ idx bs => (s.flipToHost ((s.granulesOf bs).filter fun g => s.m.bias.contains g)).hostDone hq idx 1) h0

theorem biasflipToDevice_next (ho : cmdOpc bs = 7) (hs : fieldOf bs 28 1 = 1) (h0 : hq = 0) :
    exec (.biasflipToDevice hq) s = .next ((v.flipToDevice ((v.granulesOf bs).filter fun g => !v.m.bias.contains g)).hostDone hq idx 1) :=
  runCmd_own hn hg hv hok (by simp [ho, hs])
    (fun s _ idx bs => (s.flipToDevice ((s.granulesOf bs).filter fun g => !s.m.bias.contains g)).hostDone hq idx 1) h0

theorem ownCommand_refused {i : Instr} (hi : (i = .ctxcfgTeardown hq ∧ cmdOpc bs = 5 ∧ fieldOf bs 25 1 = 1)
      ∨ (i = .reincfg hq ∧ cmdOpc bs = 6) ∨ (i = .biasflipToHost hq ∧ cmdOpc bs = 7 ∧ fieldOf bs 28 1 = 0)
      ∨ (i = .biasflipToDevice hq ∧ cmdOpc bs = 7 ∧ fieldOf bs 28 1 = 1))
    (h0 : hq ≠ 0) : exec i s = .next (v.hostDone hq idx 0x89) := by
  rcases hi with ⟨rfl, ho, hs⟩ | ⟨rfl, ho⟩ | ⟨rfl, ho, hs⟩ | ⟨rfl, ho, hs⟩
  · exact runCmd_notOwn hn hg hv hok (by simp [ho, hs]) (fun s _ idx bs => (s.endCtx (fieldOf bs 24 1)).hostDone hq idx 1) h0
  · show execReincfg hq s = _
    unfold execReincfg
    refine (runCmd_next hn hg hv hok ?_ _).trans ?_
    · exact beq_iff_eq.2 ho
    rw [ownOnly_ne _ _ _ h0]
  · exact runCmd_notOwn hn hg hv hok (by simp [ho, hs])
      (fun s _ idx bs => (s.flipToHost ((s.granulesOf bs).filter fun g => s.m.bias.contains g)).hostDone hq idx 1) h0
  · exact runCmd_notOwn hn hg hv hok (by simp [ho, hs])
      (fun s _ idx bs => (s.flipToDevice ((s.granulesOf bs).filter fun g => !s.m.bias.contains g)).hostDone hq idx 1) h0

end

theorem hostWaitTimeout_next {s : State} {hq : Nat} {c : Cmd} (hc : ((mgetD s.wk.hqs hq {}).busy.find? fun c =>
      cmdOpc c.bytes == 4 && fieldOf c.bytes 36 4 != 0 && decide (c.at' + 1000 * fieldOf c.bytes 36 4 ≤ s.timeNs)) = some c) :
    exec (.hostWaitTimeout hq) s = .next (s.hostDone hq c.idx 0x88) := by
  show execHostWaitTimeout hq s = _
  unfold execHostWaitTimeout
  rw [hc]

section
variable {s : State} {hq : Nat} {c : Cmd} {rest : List Cmd} (hb : (mgetD s.wk.hqs hq {}).busy = c :: rest) (hc : cmdOpc c.bytes = 8)
include hb hc

theorem tryFence_first : s.tryFence hq = ((s.pushDown 5 fun _ => true).hostDone hq c.idx 1, true) := by
  unfold State.tryFence
  rw [hb]
  exact if_pos hc

theorem hostFence_first : exec (.hostFence hq) s = .next ((s.pushDown 5 fun _ => true).hostDone hq c.idx 1) := by
  show execHostFence hq s = _
  unfold execHostFence
  rw [tryFence_first hb hc]

end

/-! ## The host's data accesses -/

theorem all_inMemory {s : State} {a n : Nat} (h : ∀ i, i < n → s.inMemory (a + i) = true) :
    ((List.range n).all fun i => s.inMemory (a + i)) = true :=
  List.all_eq_true.2 fun i hi => h i (List.mem_range.1 hi)

theorem not_all_inMemory {s : State} {a n : Nat} (h : ∃ i, i < n ∧ s.inMemory (a + i) = false) :
    ((List.range n).all fun i => s.inMemory (a + i)) = false := by
  obtain ⟨i, hi, hm⟩ := h
  exact List.all_eq_false.2 ⟨i, List.mem_range.2 hi, by simp [hm]⟩

/-- The snoops of a host read change memory alone. -/
theorem hostSnoops_only (s : State) (ls : List Nat) : onlyMem s (ls.foldl State.hostSnoop s) := onlyMem_fold _ hostSnoop_only ls s

theorem hostDataRead_inside {s : State} {a n : Nat} (hl : s.dataLink = true) (h : ∀ i, i < n → s.inMemory (a + i) = true) :
    let as := (List.range n).map (a + ·)
    let u := ((linesOfRange a n).foldl State.hostSnoop s).hostDue as
    ∃ t, exec (.hostDataRead a n) s = .next t ∧ t.m = (u.hostSees as).m ∧ t.waves = s.waves ∧ t.wk = s.wk
      ∧ (u.m.poisoned a n = false → t.hostRd = leVal (readBytes u.hostByte a n))
      ∧ (u.m.poisoned a n = true → t.hostRd = leVal (readBytes u.hostByte a n) + 2 ^ (8 * n)) := by
  intro as u
  obtain ⟨m, hm⟩ : onlyMem s (u.hostSees as) :=
    onlyMem_trans (onlyMem_trans (hostSnoops_only s _) (onlyMem_mapMem ..)) (onlyMem_mapMem ..)
  refine ⟨{ u.hostSees as with hostRd := leVal (readBytes u.hostByte a n) + if u.m.poisoned a n then 2 ^ (8 * n) else 0 }, ?_, rfl,
    ?_, ?_, fun hp => ?_, fun hp => ?_⟩
  · show execHostDataRead a n s = _
    unfold execHostDataRead
    rw [hl, all_inMemory h]
    rfl
  · show (u.hostSees as).waves = _
    rw [hm]
  · show (u.hostSees as).wk = _
    rw [hm]
  · simp [hp]
  · simp [hp]

theorem hostDataRead_outside {s : State} {a n : Nat} (hl : s.dataLink = true) (h : ∃ i, i < n ∧ s.inMemory (a + i) = false) :
    exec (.hostDataRead a n) s = .next { s with hostRd := 2 ^ (8 * n + 1) - 1 } := by
  show execHostDataRead a n s = _
  unfold execHostDataRead
  rw [hl, not_all_inMemory h]
  rfl

theorem hostDataWrite_outside {s : State} {a n : Nat} (v : Nat) (h : ∃ i, i < n ∧ s.inMemory (a + i) = false) :
    exec (.hostDataWrite a n v) s = .next s := by
  show execHostDataWrite a n v s = _
  unfold execHostDataWrite
  rw [not_all_inMemory h, Bool.and_false]
  rfl

/-- An access within one line meets that line alone. -/
theorem linesOfRange_single {a n : Nat} (hn : 0 < n) (h : a % 128 + n ≤ 128) : linesOfRange a n = [a / 128] := by
  unfold linesOfRange
  have hcount : (a + n - 1) / 128 + 1 - a / 128 = 1 := by omega
  rw [if_neg (by omega), hcount]
  simp

theorem hostDataWrite_line {s : State} {a n : Nat} (v : Nat) (hl : s.dataLink = true) (hn : 0 < n) (hline : a % 128 + n ≤ 128)
    (h : ∀ i, i < n → s.inMemory (a + i) = true) :
    exec (.hostDataWrite a n v) s = .next (s.hostStore a (leBytesOf n v)).wakeParked := by
  have hlo : max a (128 * (a / 128)) = a := by omega
  have hhi : min (a + n) (128 * (a / 128) + 128) = a + n := by omega
  have hbytes : ((leBytesOf n v).drop (a - a)).take (a + n - a) = leBytesOf n v := by
    rw [Nat.sub_self, Nat.add_sub_cancel_left, List.drop_zero, List.take_of_length_le (length_leBytesOf n v).le]
  show execHostDataWrite a n v s = _
  unfold execHostDataWrite
  rw [hl, all_inMemory h, linesOfRange_single hn hline]
  simp only [Bool.and_self, if_true, List.foldl_cons, List.foldl_nil, hlo, hhi, hbytes]

/-! ## The host's register writes -/

section
variable {s : State} {a n : Nat} (hn : n = 1 ∨ n = 2 ∨ n = 4 ∨ n = 8) (ha : a % n = 0)
include hn ha

theorem registerWrite_guard : (!(n == 1 || n == 2 || n == 4 || n == 8) || a % n != 0) = false := by
  simpa [ha] using by tauto

theorem registerWrite_bar2 (v : Nat) (hd : s.devReady = true) : exec (.registerWrite 0 a n v) s = .next (s.writeBar2 a n v) := by
  show execRegisterWrite 0 a n v s = _
  unfold execRegisterWrite
  rw [registerWrite_guard hn ha]
  simp [hd]

theorem registerWrite_bar0 (v : Nat) (hd : s.devReady = true) : exec (.registerWrite 4 a n v) s = .next (s.writeBar0 a n v) := by
  show execRegisterWrite 4 a n v s = _
  unfold execRegisterWrite
  rw [registerWrite_guard hn ha]
  simp [hd]

theorem registerWrite_window (v : Nat) (hw : inWindow a = true) : exec (.registerWrite 2 a n v) s =
    .next (s.writeWindow ((a - windowBase) / 0x400000) false ((a - windowBase) % 0x400000) n v) := by
  show execRegisterWrite 2 a n v s = _
  unfold execRegisterWrite
  rw [registerWrite_guard hn ha]
  simp [hw]

end

/-- Settles O58: each clause is an event of the host on a queue or an access whose guards hold. -/
theorem hostEvents : Obligations.HostEvents := by
  unfold Obligations.HostEvents
  refine ⟨fun s page v q hp => ⟨doorbellTail_open hp v, doorbellIrqArm_open hp, doorbellRsend_sent hp, doorbellRsend_refused hp⟩,
    ?_, fun s hq c => hostWaitTimeout_next, fun s hq c rest hb hc => ⟨tryFence_first hb hc, hostFence_first hb hc⟩,
    fun s a n => hostDataRead_inside, fun s a n v hl h => ⟨hostDataRead_outside hl h, hostDataWrite_outside v h⟩,
    fun s a n v => hostDataWrite_line v, ?_⟩
  · intro s u hq idx bs q hn hg v
    have hv : u.startCmd hq idx bs = v := rfl
    refine ⟨badCommand_next hn, fun hok => hostLaunch_next hn hg hv hok,
      fun hok ho => ⟨hostCopy_refused hn hg hv hok ho, fun hc s1 n => hostCopy_moved hn hg hv hok ho hc⟩,
      fun hok ho hk s1 => hostSignalWrite_next hn hg hv hok ho hk, fun hok ho hk s1 s2 old => hostSignalAdd_next hn hg hv hok ho hk,
      fun hok => hostFence_next hn hg hv hok, fun hok => ctxcfgTeardown_next hn hg hv hok,
      fun hok ho hk h0 s1 img hr hc => ctxcfgInstall_next hn hg hv hok ho hk h0 hr hc,
      fun hok ho hk h0 m => ctxcfgCreateQueue_next hn hg hv hok ho hk h0, fun hok => reincfg_entry hn hg hv hok,
      fun hok ho he h0 s1 img => reincfg_all hn hg hv hok ho he h0, fun hok => biasflipToHost_next hn hg hv hok,
      fun hok => biasflipToDevice_next hn hg hv hok, fun i hi hok => ownCommand_refused hn hg hv hok hi,
      fun hok => hostWait_next hn hg hv hok⟩
  · intro s a n v hn ha
    exact ⟨fun hd => ⟨registerWrite_bar2 hn ha v hd, registerWrite_bar0 hn ha v hd⟩, registerWrite_window hn ha v⟩

end Sys2Proof.Machine

/-! # Translation, power, boot, service and the twin link (R389, R392, R402, R406 to R417, R438 to R440) -/

namespace Sys2Proof.Machine

/-! ## Invalidation (R402, R406) -/

section
variable {s : State}

theorem iotinvalVma_one (s : State) (n m : Nat) : exec (.iotinvalVma (n + 1) m 1) s = .next (s.invalidate (.vma (some n) (some m))) := by
  show execIotinvalVma (n + 1) m 1 s = _
  unfold execIotinvalVma
  rw [if_neg (Nat.succ_ne_zero n), if_neg Nat.one_ne_zero, Nat.add_sub_cancel]

theorem iodirInvalDdt_device (s : State) : exec (.iodirInvalDdt s.pk.topo.devid) s = .next (s.invalidate .ddt) := if_pos rfl

theorem iodirInvalPdt_device (s : State) (n : Nat) : exec (.iodirInvalPdt s.pk.topo.devid n) s = .next (s.invalidate (.pdt n)) := if_pos rfl

/-- With no invalidation remembered, no store of a transaction is held back. -/
theorem fenceHeld_of_nil (h : s.m.iommu.inval = []) : s.fenceHeld = false := by
  simp [State.fenceHeld, h]

theorem iofenceC_idle (h : s.m.iommu.inval = []) (n : Nat) :
    ∃ t, exec (.iofenceC 0 n) s = .next t ∧ t.m.mem = s.m.mem ∧ t.waves = s.waves ∧ t.m.iommu.inval = [] := by
  refine ⟨s.fenceDone 0 n, ?_, fenceDone_mem .., ?_, ?_⟩
  · show execIofenceC 0 n s = _
    unfold execIofenceC
    rw [fenceHeld_of_nil h]
    rfl
  · simp [State.fenceDone, h, State.mapMem]
  · simp [State.fenceDone, h, State.mapMem]

theorem iofenceC_held (h : s.fenceHeld = true) (n m : Nat) :
    ∃ t, exec (.iofenceC n m) s = .next t ∧ t.m.iommu.fences = s.m.iommu.fences ++ [(n, m)]
      ∧ t.m.iommu.inval = s.m.iommu.inval ∧ t.m.mem = s.m.mem ∧ t.waves = s.waves := by
  refine ⟨s.mapMem fun k => { k with iommu := { k.iommu with fences := k.iommu.fences ++ [(n, m)] } }, ?_, rfl, rfl, rfl, rfl⟩
  show execIofenceC n m s = _
  unfold execIofenceC
  rw [h]
  rfl

/-! ## Power and clock (R407) -/

theorem powerLimitWrite_ready (h : s.devReady = true) (n : Nat) :
    ∃ t, exec (.powerLimitWrite n) s = .next t ∧ t.pk.power.limit = s.limitOf n ∧ t.waves = s.waves ∧ t.m = s.m :=
  ⟨_, if_pos h, rfl, rfl, rfl⟩

theorem clockStep_step {mhz : Nat} (h : mhz = s.pk.power.clkmhz + 25 ∨ mhz + 25 = s.pk.power.clkmhz) (hlo : 800 ≤ mhz)
    (hhi : mhz ≤ 2000) :
    ∃ t, exec (.clockStep mhz) s = .next t ∧ t.pk.power.clkmhz = mhz ∧ t.waves = s.waves ∧ t.m = s.m :=
  ⟨_, if_pos ⟨h, hlo, hhi⟩, rfl, rfl, rfl⟩

/-! ## Boot, reset and attestation (R408 to R412) -/

theorem testBit_zero_boot (x : Nat) : (1 + x / 2 % 2 * 2).testBit 0 = true := by
  simp [Nat.testBit_zero]

theorem testBit_one_boot (x : Nat) : (1 + x / 2 % 2 * 2).testBit 1 = x.testBit 1 := by
  rw [Nat.testBit_eq_decide_div_mod_eq, Nat.testBit_eq_decide_div_mod_eq]
  congr 1
  simp only [eq_iff_iff]
  omega

/-- The module as it boots, once a rejected image has been told (R411). -/
def State.booted (u : State) : State :=
  ({ u with
    m := { u.m with bias := [] }
    co := { u.co with start := (List.range Config.cores).map fun c => (c, u.clock) }
    wk := { u.wk with hqs := mput u.wk.hqs 0 { conf := true, base := u.pk.topo.mbase } }
    pk := { u.pk with power := { u.pk.power with limit := u.limitOf u.pk.power.limit }, identity := some u.pk.flash.identity
                      patches := u.pk.flash.patches, chans := u.pk.flash.channelsNow, moved := [] } } : State).announce
    fun t => t.boot u.pk.flash

theorem perstRelease_eq (hd : s.devReady = false) (hsig : s.pk.flash.sigOk = true) (hf : s.pk.flash.format = 1) :
    exec .perstRelease s = .next (if s.pk.flash.images.all s.pk.flash.accepts then s.booted else s.firmwareEvent.booted) := by
  show execPerstRelease s = _
  unfold execPerstRelease
  rw [hd, hsig, hf]
  cases s.pk.flash.images.all s.pk.flash.accepts <;> rfl

theorem perstRelease_boots (hd : s.devReady = false) (hsig : s.pk.flash.sigOk = true) (hf : s.pk.flash.format = 1) :
    ∃ t, exec .perstRelease s = .next t ∧ t.devReady = true
      ∧ t.pk.topo.status.testBit 1 = s.pk.topo.status.testBit 1 ∧ t.m.bias = [] ∧ t.waves = s.waves
      ∧ t.pk.chans = s.pk.flash.channelsNow ∧ t.pk.moved = [] ∧ t.pk.identity = some s.pk.flash.identity
      ∧ (∃ q, mget t.wk.hqs 0 = some q ∧ q.conf = true) := by
  refine ⟨_, perstRelease_eq hd hsig hf, ?_⟩
  split <;> exact ⟨testBit_zero_boot _, testBit_one_boot _, rfl, rfl, rfl, rfl, rfl, _, mget_mput_same .., rfl⟩

theorem moduleReset_resets (s : State) :
    ∃ t, exec .moduleReset s = .next t ∧ t.waves = [] ∧ t.m = State.reset.m ∧ t.co = State.reset.co ∧ t.wk = State.reset.wk
      ∧ t.devReady = false ∧ t.pk.flash = s.pk.flash ∧ t.pk.topo.mbase = s.pk.topo.mbase :=
  ⟨_, rfl, rfl, rfl, rfl, rfl, Nat.zero_testBit 0, rfl, rfl⟩

/-- A host queue as a function-level reset leaves it. -/
def HostQ.resetAt (k : Nat) (q : HostQ) : HostQ :=
  if k = 0 then { q with tail := 0, started := 0, completed := 0, busy := [] } else { q with conf := false, busy := [] }

/-- The last step of a function-level reset, from the state in which its commands and its contexts have ended. -/
theorem functionLevelReset_last (s : State) : ∃ u : State, exec .functionLevelReset s =
    .next { u with wk := { u.wk with hqs := u.wk.hqs.map fun p =>
      if p.1 = 0 then (p.1, { p.2 with tail := 0, started := 0, completed := 0, busy := [] })
      else (p.1, { p.2 with conf := false, busy := [] }) } } := by
  show ∃ u : State, execFunctionLevelReset s = _
  rw [execFunctionLevelReset]
  exact ⟨_, rfl⟩

theorem functionLevelReset_hqs (s : State) :
    ∃ (t : State) (qs : Map HostQ), exec .functionLevelReset s = .next t ∧ t.wk.hqs = qs.map fun p => (p.1, HostQ.resetAt p.1 p.2) := by
  obtain ⟨u, hu⟩ := functionLevelReset_last s
  refine ⟨_, u.wk.hqs, hu, List.map_congr_left fun p _ => ?_⟩
  unfold HostQ.resetAt
  split <;> rfl

theorem functionLevelReset_empties (s : State) :
    ∃ t, exec .functionLevelReset s = .next t ∧ ∀ k q, mget t.wk.hqs k = some q → q.busy = [] ∧ (k ≠ 0 → q.conf = false) := by
  obtain ⟨t, u, ht, hu⟩ := functionLevelReset_hqs s
  refine ⟨t, ht, fun k q hq => ?_⟩
  rw [hu, mget_map, Option.map_eq_some_iff] at hq
  obtain ⟨r, -, rfl⟩ := hq
  unfold HostQ.resetAt
  split
  · exact ⟨rfl, fun h => absurd ‹_› h⟩
  · exact ⟨rfl, fun _ => rfl⟩

theorem attestationRequest_ready (h : s.devReady = true) (n : Nat) :
    ∃ t body, exec (.attestationRequest n) s = .next t ∧ t.waves = s.waves ∧ t.m = s.m ∧ body.headD 0 = n % 2 ^ 256
      ∧ t.pk.report = body ++ [Config.mldsaSign (s.pk.identity.getD (0, 0)).1 body] :=
  ⟨_, _, if_pos h, rfl, rfl, rfl, rfl⟩

/-! ## Service (R411, R414 to R417) -/

theorem setBit_true {m i : Nat} (h : m.testBit i = false) : setBit m i true = m + 2 ^ i := by simp [setBit, h]

theorem setBit_false {m i : Nat} (h : m.testBit i = true) : setBit m i false = m - 2 ^ i := by simp [setBit, h]

theorem keysWhere_nil {α : Type} {m : Map α} {p : Nat → α → Bool} (h : ∀ x ∈ m, p x.1 x.2 = false) : keysWhere m p = [] := by
  unfold keysWhere
  rw [List.filter_eq_nil_iff.2 fun x hx => by simp [h x hx]]
  rfl

/-- Recalling lines changes memory alone. -/
theorem recallLines_only (s : State) (p : Nat → Bool) : onlyMem s (s.recallLines p) := by
  unfold State.recallLines
  extract_lets s1 s2
  have h1 : onlyMem s s1 := onlyMem_fold _ (fun s _ => expel_only s _ _) _ s
  exact onlyMem_trans h1 ⟨_, rfl⟩

/-- An entry that the identity key signed verifies. -/
theorem verified_append_signed (f : Flash) (e : Nat) :
    ({ f with log := f.log ++ [f.signed e] } : Flash).verified = f.verified ++ [e] := by
  unfold Flash.verified
  rw [List.filter_append, List.map_append]
  congr 1
  have hsig : ({ f with log := f.log ++ [f.signed e] } : Flash).signed (f.signed e).1 = f.signed e := rfl
  rw [List.filter_singleton, hsig, beq_self_eq_true]
  rfl

/-! A handover's operand: the version above bit 32, a valid signature, and the unit in its low bits. -/

section
variable {n m : Nat} (hn : n < 4 ∨ n = 0xFF)
include hn

theorem handoverUnit : (2 ^ 32 * m + 256 + n) % 256 = n := by omega

theorem handoverUnit_ok : (decide ((2 ^ 32 * m + 256 + n) % 256 < 4) || (2 ^ 32 * m + 256 + n) % 256 == 0xFF) = true := by
  rw [handoverUnit hn]
  simpa using hn

theorem handover_version (hm : m < 2 ^ 32) : (patchOf (2 ^ 32 * m + 256 + n)).version = m := by
  show (2 ^ 32 * m + 256 + n) / 2 ^ 32 % 2 ^ 32 = m
  omega

theorem handover_signed : (patchOf (2 ^ 32 * m + 256 + n)).sigOk = true := by
  show (2 ^ 32 * m + 256 + n).testBit 8 = true
  rw [Nat.testBit_eq_decide_div_mod_eq, decide_eq_true_eq]
  omega

theorem handover_accepts (hm : m < 2 ^ 32) (f : Flash) :
    f.accepts (patchOf (2 ^ 32 * m + 256 + n)) = decide (f.floors.getD 2 0 ≤ m) := by
  unfold Flash.accepts
  rw [handover_version hn hm, handover_signed hn, Bool.true_and]
  rfl

end

section
variable (die : Nat) (p : Image)

/-- A die that is handed over takes the patch, and the topology is announced twice. -/
theorem handover_gen (s : State) : (s.handover die p).pk.topo.gen = (s.pk.topo.gen + 2) % 2 ^ 32 := by
  show ((s.pk.topo.gen + 1) % 2 ^ 32 + 1) % 2 ^ 32 = _
  omega

theorem handover_patches (s : State) : (s.handover die p).pk.patches = mput s.pk.patches die p.version := rfl
theorem handover_waves (s : State) : (s.handover die p).waves = s.waves := rfl
theorem handover_m (s : State) : (s.handover die p).m = s.m := rfl

end

/-- A patch that is accepted runs on the dies that UNIT names. -/
theorem handovers_accepted (s : State) {n : Nat} (hn : n < 4 ∨ n = 0xFF) {p : Image} (h : s.pk.flash.accepts p = true) :
    (s.handovers n p).pk.svc = 2 ∧ (s.handovers n p).pk.topo.gen = (s.pk.topo.gen + (if n = 0xFF then 8 else 2)) % 2 ^ 32
      ∧ (∀ die, (die = n ∨ n = 0xFF) ∧ die < 4 → mget (s.handovers n p).pk.patches die = some p.version)
      ∧ (s.handovers n p).waves = s.waves ∧ (s.handovers n p).m = s.m := by
  unfold State.handovers
  rw [if_pos h]
  rcases hn with hn | rfl
  · have hne : n ≠ 0xFF := by omega
    rw [if_neg hne, if_neg hne]
    simp only [svc_pk, svc_waves, svc_m, List.foldl_cons, List.foldl_nil, handover_gen, handover_patches, handover_waves, handover_m,
      true_and, and_true]
    rintro die ⟨rfl | rfl, hdie⟩
    · exact mget_mput_same ..
    · exact absurd rfl hne
  · rw [if_pos rfl, if_pos rfl]
    simp only [svc_pk, svc_waves, svc_m, List.foldl_cons, List.foldl_nil, handover_gen, handover_patches, handover_waves, handover_m,
      true_and, and_true]
    refine ⟨by omega, ?_⟩
    rintro die ⟨-, hdie⟩
    interval_cases die <;> simp [mget_mput_other]

section
variable (hd : s.devReady = true)
include hd

theorem service_busy (ok : Bool) (f : State) (h : s.pk.svc = 1) : s.service ok f = .next (s.svc 3) := by
  simp [State.service, hd, h]

/-- A request while another runs is refused. -/
theorem serviceRequest_refused (n : Nat) (h : s.pk.svc = 1) {i : Instr} (hi : i = .svcClusterOnline n ∨ i = .svcRetireChannel n
      ∨ i = .svcProceedRetirement n ∨ i = .svcRetrainChannel n ∨ i = .svcFirmwareHandover n) :
    ∃ t, exec i s = .next t ∧ t.pk.svc = 3 ∧ t.waves = s.waves ∧ t.m = s.m ∧ t.wk = s.wk := by
  refine ⟨s.svc 3, ?_, rfl, rfl, rfl, rfl⟩
  rcases hi with rfl | rfl | rfl | rfl | rfl <;> exact service_busy hd _ _ h

variable (hs : s.pk.svc ≠ 1) (ho : s.pk.offline = none)
include hs ho

theorem service_idle {ok : Bool} (hok : ok = true) (f : State) : s.service ok f = .next f := by
  simp [State.service, hd, hs, ho, hok]

theorem svcClusterOffline_starts {n : Nat} (hn : n < 32) (hc : s.pk.topo.clusters.testBit n = true)
    (hb : ∀ p ∈ s.wk.binds, p.2.cluster p.1 ≠ n) :
    ∃ t, exec (.svcClusterOffline n) s = .next t ∧ t.pk.offline = some n ∧ t.pk.svc = 1 ∧ t.waves = s.waves ∧ t.m = s.m := by
  have hkeys : keysWhere s.wk.binds (fun k b => b.cluster k == n) = [] :=
    keysWhere_nil fun p hp => beq_eq_false_iff_ne.2 (hb p hp)
  refine ⟨{ s with pk := { s.pk with offline := some n, svc := 1 } }, ?_, rfl, rfl, rfl, rfl⟩
  show execSvcClusterOffline n s = _
  unfold execSvcClusterOffline
  rw [if_neg (by simp [ho]), service_idle hd hs ho (by simpa [hc] using decide_eq_true (show n < Config.clusters from hn))]
  dsimp only
  rw [hkeys]
  rfl

theorem svcClusterOnline_adds {n : Nat} (hn : n < 32) (hf : s.pk.flash.clustersNow.testBit n = true)
    (hc : s.pk.topo.clusters.testBit n = false) :
    ∃ t, exec (.svcClusterOnline n) s = .next t ∧ t.pk.topo.clusters = s.pk.topo.clusters + 2 ^ n ∧ t.pk.svc = 2 ∧ t.m = s.m :=
  ⟨_, service_idle hd hs ho (by simpa [hf, hc] using decide_eq_true (show n < Config.clusters from hn)) _, setBit_true hc, rfl, rfl⟩

theorem svcRetireChannel_starts {n : Nat} (hn : n < 96) (hc : s.pk.topo.channels.testBit n = true) (hr : s.pk.retiring = none) :
    ∃ t, exec (.svcRetireChannel n) s = .next t ∧ t.pk.retiring = some n ∧ t.pk.topo.memnext = s.pk.topo.memsize - 2 ^ 33
      ∧ t.m = s.m :=
  ⟨_, service_idle hd hs ho (by simpa [hc, hr] using hn) _, rfl, rfl, rfl⟩

theorem svcRetrainChannel_done {n : Nat} (hn : n < 96) (hc : s.pk.topo.channels.testBit n = true) :
    ∃ t, exec (.svcRetrainChannel n) s = .next t ∧ t.pk.svc = 2 ∧ t.m = s.m ∧ t.waves = s.waves :=
  ⟨_, service_idle hd hs ho (by simpa [hc] using hn) _, rfl, rfl, rfl⟩

theorem svcProceedRetirement_done {n : Nat} (hr : s.pk.retiring = some n) :
    ∃ t, exec (.svcProceedRetirement n) s = .next t ∧ t.pk.retiring = none ∧ t.pk.topo.memsize = s.pk.topo.memnext
      ∧ t.pk.flash.log = s.pk.flash.log ++ [(256 + n, Config.mldsaSign s.pk.flash.identity.1 [256 + n])]
      ∧ t.pk.flash.verified = s.pk.flash.verified ++ [256 + n] ∧ t.waves = s.waves := by
  obtain ⟨m, hm⟩ := recallLines_only s fun l => s.channel (128 * l) == n && decide (128 * l < s.pk.topo.mbase + s.pk.topo.memnext)
  refine ⟨_, service_idle hd hs ho (beq_iff_eq.2 hr) _, ?_⟩
  dsimp only
  rw [hm]
  exact ⟨rfl, rfl, rfl, verified_append_signed .., rfl⟩

/-- A handover whose patch is accepted. -/
theorem svcFirmwareHandover_done {n m : Nat} (hn : n < 4 ∨ n = 0xFF) (hm : m < 2 ^ 32) (hfl : s.pk.flash.floors.getD 2 0 ≤ m) :
    ∃ t, exec (.svcFirmwareHandover (2 ^ 32 * m + 256 + n)) s = .next t ∧ t.pk.svc = 2
      ∧ t.pk.topo.gen = (s.pk.topo.gen + (if n = 0xFF then 8 else 2)) % 2 ^ 32
      ∧ (∀ die, (die = n ∨ n = 0xFF) ∧ die < 4 → mget t.pk.patches die = some m) ∧ t.waves = s.waves ∧ t.m = s.m := by
  have hacc : s.pk.flash.accepts (patchOf (2 ^ 32 * m + 256 + n)) = true := by
    rw [handover_accepts hn hm]
    exact decide_eq_true hfl
  obtain ⟨hsvc, hgen, hpatch, hwaves, hmem⟩ := handovers_accepted s hn hacc
  rw [handover_version hn hm] at hpatch
  refine ⟨_, service_idle hd hs ho (handoverUnit_ok hn) _, ?_⟩
  dsimp only
  rw [handoverUnit hn, if_pos hacc]
  exact ⟨hsvc, hgen, hpatch, hwaves, hmem⟩

/-- A handover whose patch lies below its floor. -/
theorem svcFirmwareHandover_rejected {n m : Nat} (hn : n < 4 ∨ n = 0xFF) (hfl : m < s.pk.flash.floors.getD 2 0) (hm : m < 2 ^ 32) :
    ∃ t, exec (.svcFirmwareHandover (2 ^ 32 * m + 256 + n)) s = .next t ∧ t.pk.svc = 3 ∧ t.pk.fwEvent = true
      ∧ t.pk.topo = s.pk.topo ∧ t.pk.patches = s.pk.patches ∧ t.waves = s.waves ∧ t.m = s.m := by
  have hacc : s.pk.flash.accepts (patchOf (2 ^ 32 * m + 256 + n)) = false := by
    rw [handover_accepts hn hm]
    exact decide_eq_false (by omega)
  refine ⟨_, service_idle hd hs ho (handoverUnit_ok hn) _, ?_⟩
  dsimp only
  have hno := Bool.eq_false_iff.1 hacc
  rw [if_neg hno, handoverUnit hn, State.handovers, if_neg hno]
  exact ⟨rfl, rfl, rfl, rfl, rfl, rfl⟩

end

/-! ## The channel and the row of an address (R389) -/

theorem channel_unmoved (h : s.pk.moved = []) (pa : Nat) :
    s.channel pa = s.channels.getD ((pa - s.pk.topo.mbase) / 256 % s.channels.length) 0
      ∧ s.channelRow pa = (pa - s.pk.topo.mbase) / 256 / s.channels.length := by
  have hp : s.place pa / 2 = (pa - s.pk.topo.mbase) / 256 := by
    unfold State.place
    rw [h]
    exact Nat.div_div_eq_div_mul ..
  unfold State.channel State.channelRow channelOf channelRow
  rw [hp]
  exact ⟨rfl, rfl⟩

/-! ## Die-to-die modules (R392) and the twin link (R437 to R440) -/

theorem ucieModuleFailure_host {n : Nat} (hlo : 32 ≤ n) (hhi : n < 44) (h : s.pk.topo.hlinks.testBit (n - 32) = true) :
    ∃ t, exec (.ucieModuleFailure n) s = .next t ∧ t.pk.topo.hlinks = s.pk.topo.hlinks - 2 ^ (n - 32) ∧ t.waves = s.waves
      ∧ t.m = s.m := by
  refine ⟨s.announce fun t => { t with hlinks := setBit t.hlinks (n - 32) false }, ?_, setBit_false h, rfl, rfl⟩
  show execUcieModuleFailure n s = _
  unfold execUcieModuleFailure
  rw [if_neg (by omega), if_pos ⟨hhi, h⟩]

theorem twinEnable_on (hd : s.devReady = true) : exec (.twinEnable 1) s = .next (s.modTwin fun t => { t with en := true }) := by
  show execTwinEnable 1 s = _
  unfold execTwinEnable
  rw [hd]
  rfl

section
variable (hdown : s.pk.twin.state = 0)
include hdown

theorem twinDown_of_down : s.twinDown = s.modTwin fun t => { t with why := 5 } := if_pos hdown

theorem twinEnable_off (hd : s.devReady = true) :
    ∃ t, exec (.twinEnable 0) s = .next t ∧ t.pk.twin.en = false ∧ t.pk.twin.state = 0 ∧ t.pk.twin.why = 5 := by
  refine ⟨(s.modTwin fun t => { t with en := (0 : Nat).testBit 0 }).twinDown, ?_, ?_⟩
  · show execTwinEnable 0 s = _
    unfold execTwinEnable
    rw [hd]
    rfl
  · have h : (s.modTwin fun t => { t with en := (0 : Nat).testBit 0 }).pk.twin.state = 0 := hdown
    rw [twinDown_of_down h]
    exact ⟨Nat.zero_testBit 0, hdown, rfl⟩

theorem twinRetrain_down (hd : s.devReady = true) :
    ∃ t, exec .twinRetrain s = .next t ∧ t.pk.twin.state = (if s.pk.twin.en then 1 else 0) ∧ t.pk.twin.why = 5 ∧ t.waves = s.waves
      ∧ t.m = s.m := by
  refine ⟨s.twinDown.startTraining, if_pos hd, ?_⟩
  rw [twinDown_of_down hdown]
  unfold State.startTraining
  cases he : s.pk.twin.en <;> simp [he, hdown]

theorem linkAutoRetrain_down (hen : s.pk.twin.en = true) (hw : s.pk.twin.why = 0 ∨ s.pk.twin.downAt + 1000000 ≤ s.timeNs) :
    ∃ t, exec .linkAutoRetrain s = .next t ∧ t.pk.twin.state = 1 ∧ t.waves = s.waves ∧ t.m = s.m := by
  refine ⟨s.startTraining, if_pos ⟨hdown, hw⟩, ?_⟩
  unfold State.startTraining
  rw [if_pos ⟨hen, hdown⟩]
  exact ⟨rfl, rfl, rfl⟩

end

theorem linkTrainingComplete_up {n m : Nat} (ht : s.pk.twin.state = 1) (hp : s.pk.flash.serial ≠ n) (hm : m < 256) :
    ∃ t, exec (.linkTrainingComplete (4096 * n + 16 * m + 1)) s = .next t ∧ t.pk.twin.state = 2 ∧ t.pk.twin.lanes = m
      ∧ t.pk.twin.rank = (if s.pk.flash.serial < n then 0 else 1) ∧ t.waves = s.waves := by
  have hpeer : (4096 * n + 16 * m + 1) / 2 ^ 12 = n := by omega
  have hlanes : bitsOf (4096 * n + 16 * m + 1) 11 4 = m := by
    show (4096 * n + 16 * m + 1) / 2 ^ 4 % 2 ^ 8 = m
    omega
  refine ⟨(s.modTwin fun t => { t with state := 2, lanes := m, rank := if s.pk.flash.serial < n then 0 else 1, run := 0 }).announce
    fun t => { t with status := setBit t.status 1 true }, ?_, rfl, rfl, rfl, rfl⟩
  show execLinkTrainingComplete _ s = _
  unfold execLinkTrainingComplete
  rw [if_neg (by omega), if_neg (by omega)]
  dsimp only
  rw [hpeer, if_neg hp, hlanes]

theorem linkDownEvent_idle {n : Nat} (hlo : 1 ≤ n) (hhi : n ≤ 7) (hup : s.pk.twin.state = 2) (hc : s.pk.colls = [])
    (hs : s.pk.peerSends = []) :
    ∃ t, exec (.linkDownEvent n) s = .next t ∧ t.pk.twin.state = 0 ∧ t.pk.twin.why = n ∧ t.pk.twin.downAt = s.timeNs
      ∧ t.waves = s.waves ∧ t.m = s.m := by
  refine ⟨s.linkDown n, if_pos ⟨hlo, hhi⟩, ?_⟩
  simp [State.linkDown, hup, hc, hs, State.announce]

theorem flitReplay_again {n : Nat} (hup : s.pk.twin.state = 2) (hrun : s.pk.twin.run < 15) (hn : 0 < n) :
    ∃ t, exec (.flitReplay n) s = .next t ∧ t.pk.twin.run = s.pk.twin.run + 1 ∧ t.pk.twin.state = 2 ∧ t.waves = s.waves
      ∧ t.m = s.m := by
  refine ⟨s.modTwin fun t => { t with replays := min (t.replays + 1) 0xFFFF, run := s.pk.twin.run + 1 }, ?_, rfl, hup, rfl, rfl⟩
  show execFlitReplay n s = _
  unfold execFlitReplay
  rw [if_neg (by omega)]
  dsimp only
  rw [if_neg hn.ne', if_neg (by omega)]

end

/-- Settles O60: each clause is an event of the package whose guards hold. -/
theorem packageEvents : Obligations.PackageEvents := by
  unfold Obligations.PackageEvents
  intro s n m
  refine ⟨iotinvalVma_one s n m, iodirInvalDdt_device s, iodirInvalPdt_device s n, fun h => iofenceC_idle h n,
    fun h => iofenceC_held h n m,
    fun h => powerLimitWrite_ready h n, fun mhz => clockStep_step, perstRelease_boots, moduleReset_resets s, functionLevelReset_empties s,
    fun h => attestationRequest_ready h n, fun hd hs ho => ⟨svcClusterOffline_starts hd hs ho, svcClusterOnline_adds hd hs ho,
      svcRetireChannel_starts hd hs ho, svcProceedRetirement_done hd hs ho, svcRetrainChannel_done hd hs ho,
      svcFirmwareHandover_done hd hs ho, svcFirmwareHandover_rejected hd hs ho⟩,
    fun pa h => channel_unmoved h pa, fun hd h i => serviceRequest_refused hd n h, ucieModuleFailure_host,
    fun hd h => ⟨twinEnable_on hd, twinEnable_off h hd, twinRetrain_down h hd⟩, linkTrainingComplete_up, linkDownEvent_idle,
    linkAutoRetrain_down, flitReplay_again⟩

end Sys2Proof.Machine
